-- ==== Sys2Proof/Word.lean ====
section
/-! DEFINITION. The word types of the DX-32: bytes and registers as the manual counts bits, and the
numbers of channels, timeslots and order slots as bounded numbers. -/

namespace Sys2Proof

/-- A byte of host memory or of a highway word. -/
abbrev Byte := BitVec 8

/-- A 32-bit register or counter. -/
abbrev Word := BitVec 32

/-- One highway sample: 16 bits, two's complement (00_scope.md, Terms). -/
abbrev Sample := BitVec 16

/-- A channel context, 0 to 31. -/
abbrev Chan := Fin 32

/-- A highway timeslot, 0 to 63, in one direction. -/
abbrev Timeslot := Fin 64

/-- A slot of the order book, 0 to 31. -/
abbrev OrderSlot := Fin 32

end Sys2Proof
end

