-- ==== Sys2Proof/Config.lean ====
section
/-! DEFINITION. The fixed figures of the DX-32, each with the rule that gives it. The manual leaves no
value of the part free, so no constant here is without a body. -/

namespace Sys2Proof.Config

/-- IDENT: part code 0x0D32, revision 1 (R177). -/
def ident : Word := 0x0D320001#32

/-- Samples of a frame (R112). -/
def frameSamples : Nat := 120

/-- The letter-full limit in frames (R49, R63); the pending lost count saturates here too (R15). -/
def letterLimit : Nat := 120000

/-- Entries of a span list (R48). -/
def spanLimit : Nat := 1024

/-- Keys a channel's queue holds (R5). -/
def keyLimit : Nat := 8

/-- Entries of a record write queue (R171). -/
def writeQueueLimit : Nat := 4

/-- Places of a playback or render read-ahead (R20, R151). -/
def readAheadLimit : Nat := 4

/-- Sheets the stack holds (R79). -/
def stackLimit : Nat := 16

/-- A scan starts only with fewer sheets stacked than this (R80). -/
def scanBelow : Nat := 8

/-- Entries of the filing roll (R105). -/
def rollLimit : Nat := 16

/-- Orders of the render queue (R144). -/
def renderLimit : Nat := 4

/-- Codec operations of one frame (R45). -/
def codecOperations : Nat := 40

/-- Frames a transient notice is shown (R8). -/
def noticeFrames : Nat := 32

/-- The last slot of a sheet (R49). -/
def lastSlot : Nat := 127

/-- Bytes of a sheet (00_scope.md, Terms). -/
def sheetBytes : Nat := 8192

/-- Bytes of a frame in a render buffer (R153). -/
def frameBytes : Nat := 240

/-- Host addresses are 64 bits wide. DESIGN CHOICE (log 9): a sum past the top wraps. Unsafe. -/
def addressSpace : Nat := 2 ^ 64

end Sys2Proof.Config
end

