-- ==== Sys2Proof/Syntax.lean ====
section
/-! DEFINITION. The commands of the DX-32: one constructor for each row of spec/opcode_table.json, in the
table's order. The table gives no operand fields. The operands here are what the step's rule says comes
with it from outside: the word a register write carries, the data a completed read returns, the samples
and word of an input frame (log 1). -/

namespace Sys2Proof

/-- The three registers whose writes are ignored (R177). -/
inductive ReadOnlyRegister where
  | ident
  | state
  | fault
  deriving DecidableEq, Repr

/-- The requesters of the memory engine (R168): class A is the 32 channels, class B the six others in the
table's order. -/
inductive Requester where
  | channel (c : Chan)
  | sheetManager
  | cardUnit
  | orderUnit
  | deskUnit
  | render
  | startSweep
  deriving DecidableEq, Repr

/-- A command: one whole, indivisible step of the part (95_what_each_step_holds.md). -/
inductive Instr where
  /-- COLD_RESET: R184. Power-on reset. -/
  | coldReset
  /-- SOFT_RESET: R184. A CONTROL write with SOFT_RESET 1; the whole word written. -/
  | softReset (value : Word)
  /-- FUNCTION_LEVEL_RESET: R184. The PCIe function-level reset. -/
  | functionLevelReset
  /-- ENABLE_SET: R178. A CONTROL write with ENABLE 1; the whole word written (log 40). -/
  | enableSet (value : Word)
  /-- ENABLE_CLEAR: R183. A CONTROL write with ENABLE 0; the whole word written (log 40). -/
  | enableClear (value : Word)
  /-- INT_ENABLE_WRITE: R177. A CONTROL write for INT_ENABLE; the whole word written (log 40). -/
  | intEnableWrite (value : Word)
  /-- EXCHANGE_LO_WRITE: R177. -/
  | exchangeLoWrite (value : Word)
  /-- EXCHANGE_HI_WRITE: R177. -/
  | exchangeHiWrite (value : Word)
  /-- SWEEP_WRITE: R131. -/
  | sweepWrite (value : Word)
  /-- DESK_ACK_WRITE: R167. -/
  | deskAckWrite (value : Word)
  /-- READ_ONLY_REGISTER_WRITE: R177. -/
  | readOnlyRegisterWrite (register : ReadOnlyRegister) (value : Word)
  /-- SETUP_READ_COMPLETE: R179. All four lines of the setup record, 256 bytes. -/
  | setupReadComplete (data : List Byte)
  /-- START_CARD_READ_COMPLETE: R180. A card's first line. -/
  | startCardReadComplete (data : List Byte)
  /-- START_MAP_READ_COMPLETE: R181. A map line. -/
  | startMapReadComplete (data : List Byte)
  /-- START_SLOT_READ_COMPLETE: R182. An order slot. -/
  | startSlotReadComplete (data : List Byte)
  /-- FRAME_BOUNDARY: R112. -/
  | frameBoundary
  /-- INPUT_FRAME: R114. The completed frame of an input timeslot: 120 samples and the upward word, byte 0 lowest, or none where no word arrived. -/
  | inputFrame (timeslot : Timeslot) (samples : List Sample) (word : Option Word)
  /-- PACING_EXPIRY: R164. -/
  | pacingExpiry
  /-- TRANSIENT_NOTICE_EXPIRY: R8. -/
  | transientNoticeExpiry (channel : Chan)
  /-- NEW: R10. The key at the head of the channel's queue is taken (log 5). -/
  | keyNew (channel : Chan)
  /-- RECORD: R13. -/
  | keyRecord (channel : Chan)
  /-- STOP: R19. -/
  | keyStop (channel : Chan)
  /-- PLAY: R20. -/
  | keyPlay (channel : Chan)
  /-- REWIND: R22. -/
  | keyRewind (channel : Chan)
  /-- FORWARD: R22. -/
  | keyForward (channel : Chan)
  /-- START: R22. -/
  | keyStart (channel : Chan)
  /-- END: R22. -/
  | keyEnd (channel : Chan)
  /-- INSERT: R23. -/
  | keyInsert (channel : Chan)
  /-- INSTRUCT: R23. -/
  | keyInstruct (channel : Chan)
  /-- URGENT: R23. -/
  | keyUrgent (channel : Chan)
  /-- FILE: R11. -/
  | keyFile (channel : Chan)
  /-- DISCARD: R12. -/
  | keyDiscard (channel : Chan)
  /-- ACKNOWLEDGE: R23. -/
  | keyAcknowledge (channel : Chan)
  /-- INVALID_KEY: R7. A key whose code is outside 1 to 14. -/
  | invalidKey (channel : Chan)
  /-- SWEEP_START: R131. -/
  | sweepStart
  /-- SWEEP_READS_COMPLETE: R132. The 32 slots as read, 64 bytes each. -/
  | sweepReadsComplete (slots : List (List Byte))
  /-- STATION_SETUP: R136. The order in the slot the sweep stands at (log 6). -/
  | stationSetup
  /-- STATION_CLOSE: R137. -/
  | stationClose
  /-- FILE_LETTER: R138. -/
  | fileLetter
  /-- REOPEN_LETTER: R139. -/
  | reopenLetter
  /-- RENDER: R143. -/
  | renderOrder
  /-- CANCEL: R146. -/
  | cancelOrder
  /-- NOTICE: R141. -/
  | noticeOrder
  /-- RETURN: R142. -/
  | returnOrder
  /-- UNKNOWN_ORDER_KIND: R133. -/
  | unknownOrderKind
  /-- ORDER_CARD_READ_COMPLETE: R139. A card's first line for a REOPEN LETTER or RENDER. -/
  | orderCardReadComplete (data : List Byte)
  /-- FINISH_RESULT_WRITTEN: R128. The first part of the slot's finishing write. -/
  | finishResultWritten (slot : OrderSlot)
  /-- ORDER_FINISHED: R134. The second part of the slot's finishing write. -/
  | orderFinished (slot : OrderSlot)
  /-- ACCESS_GRANT: R169. -/
  | accessGrant
  /-- ACCESS_FAILURE: R175. The access that fails: its place among the requester's granted accesses, 0 the oldest. -/
  | accessFailure (requester : Requester) (place : Nat)
  /-- RECORD_WRITE_COMPLETE: R171. -/
  | recordWriteComplete (channel : Chan)
  /-- HEADER_WRITE_COMPLETE: R173. -/
  | headerWriteComplete (channel : Chan)
  /-- PLAYBACK_READ_COMPLETE: R172. A record slot. -/
  | playbackReadComplete (channel : Chan) (data : List Byte)
  /-- CLAIM_SCAN_START: R80. -/
  | claimScanStart
  /-- MAP_LINE_READ_COMPLETE: R80. The map line of the claim scan. -/
  | mapLineReadComplete (data : List Byte)
  /-- STACK_RETURN: R92. -/
  | stackReturn
  /-- CARD_SEARCH_START: R99. -/
  | cardSearchStart
  /-- CARD_SEARCH_READ_COMPLETE: R99. A card's first line. -/
  | cardSearchReadComplete (data : List Byte)
  /-- CHECKPOINT_BEGIN: R101. -/
  | checkpointBegin (channel : Chan)
  /-- CHECKPOINT_WRITING_WRITTEN: R101. -/
  | checkpointWritingWritten (channel : Chan)
  /-- INDEX_LINES_WRITTEN: R101. -/
  | indexLinesWritten (channel : Chan)
  /-- CARD_BODY_WRITTEN: R97. -/
  | cardBodyWritten
  /-- CHECKPOINT_COMPLETE: R101. -/
  | checkpointComplete (channel : Chan)
  /-- FILED_WRITES_COMPLETE: R103. -/
  | filedWritesComplete (channel : Chan)
  /-- FILING_COMPLETE: R103. -/
  | filingComplete (channel : Chan)
  /-- SUSPENSION_COMPLETE: R107. -/
  | suspensionComplete (channel : Chan)
  /-- DISCARD_PERFORM: R106. -/
  | discardPerform (channel : Chan)
  /-- REOPEN_CARD_READ_COMPLETE: R108. The whole card, 256 bytes. -/
  | reopenCardReadComplete (channel : Chan) (data : List Byte)
  /-- REOPEN_INDEX_READ_COMPLETE: R109. A line of the index sheet. -/
  | reopenIndexReadComplete (channel : Chan) (data : List Byte)
  /-- REOPEN_RECORD_READ_COMPLETE: R109. A record slot. -/
  | reopenRecordReadComplete (channel : Chan) (data : List Byte)
  /-- REOPEN_MAP_READ_COMPLETE: R110. A map line. -/
  | reopenMapReadComplete (channel : Chan) (data : List Byte)
  /-- RENDER_ACTIVATE: R148. -/
  | renderActivate
  /-- RENDER_CARD_READ_COMPLETE: R149. The whole card, 256 bytes. -/
  | renderCardReadComplete (data : List Byte)
  /-- RENDER_INDEX_READ_COMPLETE: R149. A line of the index sheet. -/
  | renderIndexReadComplete (data : List Byte)
  /-- RENDER_RECORD_READ_COMPLETE: R151. A record slot. -/
  | renderRecordReadComplete (data : List Byte)
  /-- RENDER_OPERATION: R46. -/
  | renderOperation
  /-- RENDER_BUFFER_WRITE_COMPLETE: R153. -/
  | renderBufferWriteComplete
  /-- RENDER_BUFFER_WRITE_FAILED: R156. -/
  | renderBufferWriteFailed
  /-- RENDER_DRAIN_COMPLETE: R154. -/
  | renderDrainComplete
  /-- DESK_WRITE_BEGIN: R165. -/
  | deskWriteBegin
  /-- DESK_OPENING_WRITTEN: R161. -/
  | deskOpeningWritten
  /-- DESK_BODY_WRITTEN: R161. -/
  | deskBodyWritten
  /-- DESK_WRITE_COMPLETE: R161. -/
  | deskWriteComplete
  /-- QUIESCE_WORK_DONE: R183. -/
  | quiesceWorkDone
  deriving DecidableEq, Repr

end Sys2Proof
end

