-- ==== Sys2Proof/WellFormed.lean ====
section
/-! DEFINITION. Which commands the outside can send: the sizes of the data a read returns, the bits of
CONTROL that pick a row, and the 120 samples of a frame. -/

namespace Sys2Proof

/-- A read of one 64-byte line returns 64 bytes (R168). -/
def lineOk (data : List Byte) : Bool := data.length == 64

/-- A read of four lines, the setup record or a whole card, returns 256 bytes (R179, R108, R149). -/
def wholeOk (data : List Byte) : Bool := data.length == 256

/-- A sweep reads 32 slots of one line each (R132). -/
def slotsOk (slots : List (List Byte)) : Bool := slots.length == 32 && slots.all lineOk

/-- CONTROL.ENABLE of a written word (R177). -/
def enableBit (value : Word) : Bool := value.getLsbD 0

/-- CONTROL.INT_ENABLE of a written word (R177). -/
def intEnableBit (value : Word) : Bool := value.getLsbD 1

/-- CONTROL.SOFT_RESET of a written word (R177). -/
def softResetBit (value : Word) : Bool := value.getLsbD 2

/-- A command of the shape the outside can send. -/
def Instr.WellFormed : Instr → Bool
  | .softReset value => softResetBit value
  | .enableSet value => enableBit value && !softResetBit value
  | .enableClear value => !enableBit value && !softResetBit value
  | .intEnableWrite value => !softResetBit value
  | .setupReadComplete data => wholeOk data
  | .startCardReadComplete data => lineOk data
  | .startMapReadComplete data => lineOk data
  | .startSlotReadComplete data => lineOk data
  | .inputFrame _ samples _ => samples.length == Config.frameSamples
  | .sweepReadsComplete slots => slotsOk slots
  | .orderCardReadComplete data => lineOk data
  | .playbackReadComplete _ data => lineOk data
  | .mapLineReadComplete data => lineOk data
  | .cardSearchReadComplete data => lineOk data
  | .reopenCardReadComplete _ data => wholeOk data
  | .reopenIndexReadComplete _ data => lineOk data
  | .reopenRecordReadComplete _ data => lineOk data
  | .reopenMapReadComplete _ data => lineOk data
  | .renderCardReadComplete data => wholeOk data
  | .renderIndexReadComplete data => lineOk data
  | .renderRecordReadComplete data => lineOk data
  | .coldReset => true
  | .functionLevelReset => true
  | .exchangeLoWrite _ => true
  | .exchangeHiWrite _ => true
  | .sweepWrite _ => true
  | .deskAckWrite _ => true
  | .readOnlyRegisterWrite _ _ => true
  | .frameBoundary => true
  | .pacingExpiry => true
  | .transientNoticeExpiry _ => true
  | .keyNew _ => true
  | .keyRecord _ => true
  | .keyStop _ => true
  | .keyPlay _ => true
  | .keyRewind _ => true
  | .keyForward _ => true
  | .keyStart _ => true
  | .keyEnd _ => true
  | .keyInsert _ => true
  | .keyInstruct _ => true
  | .keyUrgent _ => true
  | .keyFile _ => true
  | .keyDiscard _ => true
  | .keyAcknowledge _ => true
  | .invalidKey _ => true
  | .sweepStart => true
  | .stationSetup => true
  | .stationClose => true
  | .fileLetter => true
  | .reopenLetter => true
  | .renderOrder => true
  | .cancelOrder => true
  | .noticeOrder => true
  | .returnOrder => true
  | .unknownOrderKind => true
  | .finishResultWritten _ => true
  | .orderFinished _ => true
  | .accessGrant => true
  | .accessFailure _ _ => true
  | .recordWriteComplete _ => true
  | .headerWriteComplete _ => true
  | .claimScanStart => true
  | .stackReturn => true
  | .cardSearchStart => true
  | .checkpointBegin _ => true
  | .checkpointWritingWritten _ => true
  | .indexLinesWritten _ => true
  | .cardBodyWritten => true
  | .checkpointComplete _ => true
  | .filedWritesComplete _ => true
  | .filingComplete _ => true
  | .suspensionComplete _ => true
  | .discardPerform _ => true
  | .renderActivate => true
  | .renderOperation => true
  | .renderBufferWriteComplete => true
  | .renderBufferWriteFailed => true
  | .renderDrainComplete => true
  | .deskWriteBegin => true
  | .deskOpeningWritten => true
  | .deskBodyWritten => true
  | .deskWriteComplete => true
  | .quiesceWorkDone => true

end Sys2Proof
end

