-- ==== Sys2Proof/Decode.lean ====
section
/-! DEFINITION. The command a word spells by the bits of spec/opcode_table.json. No row of that table gives
bits (its "fields" are empty and it has no "fixed"): commands reach the part as register writes, bus
completions and highway frames, not as coded words. So no word spells a command. -/

namespace Sys2Proof

/-- The command spelled by `w` in `nbits` bits: none, since no row of the table gives bits. -/
def decodeTableWord (_nbits _w : Nat) : Option Instr := none

end Sys2Proof
end

