-- ==== Sys2Proof/Machine/State.lean ====
section
/-! DEFINITION. The state of the DX-32 as plain data: every register, queue, table, counter, mode and
frame the manual gives the part, the queue of waiting commands, and the state right after a cold reset. -/

namespace Sys2Proof.Machine

open Sys2Proof

/-! ### The outcomes that are no next state -/

/-- Reasons a step can stop with a fault: none. The manual's FAULTED is a state of the part that a command
enters as a next state (R175, R179), so no command stops the model. Safe: nothing raises it. -/
inductive Fault where
  deriving DecidableEq, Repr

/-- Reasons a command is turned away. -/
inductive Refusal where
  /-- Raised by an arm of exec for a command that has no meaning yet. Safe: the model stops. -/
  | notModelled (mnemonic : String)
  deriving DecidableEq, Repr

/-! ### Registers and the setup record -/

/-- The part states of STATE (R178). -/
inductive PartState where
  | disabled
  | starting
  | running
  | quiescing
  | faulted
  deriving DecidableEq, Repr

/-- The kind field of FAULT (R177). -/
inductive FaultKind where
  | none
  | read
  | write
  | setupInvalid
  deriving DecidableEq, Repr

/-- The area field of FAULT (R177, R175). -/
inductive Area where
  | none
  | setup
  | desk
  | orders
  | map
  | cards
  | sheets
  deriving DecidableEq, Repr

/-- The FAULT register by its fields (R177). -/
structure FaultRegister where
  kind : FaultKind
  area : Area
  field : Nat
  deriving DecidableEq, Repr

/-- The register file (R177). IDENT is the constant `Config.ident`; SWEEP and SOFT_RESET store nothing. -/
structure Registers where
  enable : Bool
  intEnable : Bool
  part : PartState
  fault : FaultRegister
  exchangeLo : Word
  exchangeHi : Word
  deskAck : Word
  deriving DecidableEq, Repr

/-- The values of the setup record, kept for a whole run (R179). -/
structure Setup where
  poolBase : Nat
  mapBase : Nat
  cardBase : Nat
  sheetCount : Nat
  cardCount : Nat
  low : Nat
  high : Nat
  pacing : Nat
  orderMark : Nat
  filingMark : Nat
  deriving DecidableEq, Repr

/-- How far the start sweep has come (R179 to R182): each pass names the item being read. -/
inductive StartPhase where
  | idle
  | setup
  | cards (next : Nat)
  | map (line : Nat)
  | slots (next : Nat)
  | answering
  | desk
  deriving DecidableEq, Repr

/-- What the start sweep keeps (R180, R181): the state byte it leaves each card in, the largest filing
sequence, and the count of entries left FREE. -/
structure StartSweep where
  phase : StartPhase
  kept : List Nat
  largest : Nat
  free : Nat
  deriving DecidableEq, Repr

/-! ### Channels -/

/-- ROUTINE or URGENT. -/
inductive Priority where
  | routine
  | urgent
  deriving DecidableEq, Repr

/-- The sub-states of BUSY (R3). -/
inductive SubState where
  | saving
  | filing
  | loading
  | closing
  deriving DecidableEq, Repr

/-- The channel states; BUSY always has its sub-state (R3). -/
inductive ChanState where
  | unbound
  | idle
  | ready
  | recording
  | playing
  | busy (sub : SubState)
  deriving DecidableEq, Repr

/-- The nine transient notices (R123). -/
inductive Notice where
  | refused
  | storageHold
  | storageOut
  | noCard
  | spanFull
  | letterFull
  | filed
  | discarded
  | lostAudio
  deriving DecidableEq, Repr

/-- A key in a queue: its code and argument (R1). -/
structure Key where
  code : Nat
  arg : Nat
  deriving DecidableEq, Repr

/-- What a channel keeps of its open letter (R1). -/
structure OpenLetter where
  card : Nat
  priority : Priority
  takes : Nat
  deriving DecidableEq, Repr

/-- The key an outstanding open request serves: RECORD goes on to a take, NEW does not (R9). -/
inductive OpenCause where
  | new
  | record
  deriving DecidableEq, Repr

/-- Lamp modes (R121). -/
inductive LampMode where
  | off
  | on
  | blink
  | wink
  deriving DecidableEq, Repr

/-- A lamp's last mode and phase count (R122). -/
structure Lamp where
  mode : LampMode
  count : Nat
  deriving DecidableEq, Repr

/-- The channel context (R1). `openAfter` marks a NEW whose opening follows its filing (R10); `panel` is
the panel content handed to the port for the frame that begins (R118). -/
structure Context where
  inSlot : Option Timeslot
  outSlot : Option Timeslot
  gain : Nat
  threshold : Nat
  hangover : Nat
  maxPause : Nat
  recover : Nat
  author : Nat
  defaultPriority : Priority
  state : ChanState
  insert : Bool
  instruct : Bool
  letter : Option OpenLetter
  cursor : Nat
  playPos : Option Nat
  keys : List Key
  transient : Option (Notice × Nat)
  host : Option Nat
  openRequest : Option OpenCause
  pendingClose : Option OrderSlot
  pendingFile : Option OrderSlot
  lampRecord : Lamp
  lampReady : Lamp
  lampAttention : Lamp
  openAfter : Bool
  panel : List Byte
  deriving DecidableEq, Repr

/-! ### Codec and letter store -/

/-- A channel's codec state: h, c and the pending lost count (R28). -/
structure PauseRun where
  silent : Nat
  pending : Nat
  lost : Nat
  deriving DecidableEq, Repr

/-- A record as the codec forms it (R39, R40). -/
inductive Rec where
  | voice (scale clips : Nat) (anchor : Int) (codes : List Int)
  | pause (frames : Nat) (lost : Bool)
  deriving DecidableEq, Repr

/-- A span entry (R49). -/
structure Span where
  sheet : Nat
  first : Nat
  count : Nat
  frames : Nat
  instruction : Bool
  deriving DecidableEq, Repr

/-- The kinds of the record table (R52). -/
inductive RecordKind where
  | voice
  | clipped
  | pause
  | lost
  deriving DecidableEq, Repr

/-- An entry of the record table (R52). -/
structure RecordEntry where
  frames : Nat
  kind : RecordKind
  deriving DecidableEq, Repr

/-- Take modes (R13). -/
inductive TakeMode where
  | append
  | insert
  | overwrite
  deriving DecidableEq, Repr

/-- A sheet being written: the sheet, its next slot (1 to 128), and the card and take its header will carry
(R78, R84, R173). -/
structure WriteSheet where
  sheet : Nat
  next : Nat
  card : Nat
  take : Nat
  deriving DecidableEq, Repr

/-- The placement record of a take (R56). -/
structure Placement where
  mode : TakeMode
  recorded : Nat
  removed : Nat
  spanOpen : Bool
  closing : Option WriteSheet
  deriving DecidableEq, Repr

/-- The letter store's tables over all sheets (R48): live counts by sheet, only counts above 0 listed, and
record entries by sheet × 128 + slot. -/
structure LetterStore where
  live : List (Nat × Nat)
  records : List (Nat × RecordEntry)
  deriving DecidableEq, Repr

/-! ### Memory engine -/

/-- Which letter's and whose card write a first line ends (R97): one the card unit does not wait for, the
VALID write of a channel's checkpoint, the last write of its filing or suspension, or the VACANT write of a
discard from its list, behind which the sheets are freed (R106). -/
inductive CardWrite where
  | plain
  | checkpoint (c : Chan)
  | filed (c : Chan)
  | suspended (c : Chan)
  | discarded (c : Chan)
  deriving DecidableEq, Repr

/-- What an access is for, as its block needs it at the completion. `last` marks the access whose
completion completes a group of accesses; the others of the group complete without a report. -/
inductive Purpose where
  | setupRead (last : Bool)
  | startCardRead
  | startCardWrite
  | startMapRead
  | startSlotRead
  | mapWrite
  | scanRead
  | searchRead
  | cardWriting (c : Chan)
  | cardBody (card : Nat) (firstLine : List Byte) (ends : CardWrite) (last : Bool)
  | cardFirst (card : Nat) (ends : CardWrite)
  | indexWrite (c : Chan) (last : Bool)
  | filedWrite (c : Chan) (last : Bool)
  | reopenCardRead (c : Chan) (last : Bool)
  | reopenIndexRead (c : Chan)
  | reopenRecordRead (c : Chan)
  | reopenMapRead (c : Chan)
  | slotRead (last : Bool)
  | orderCardRead
  | acceptWrite
  | finishResult (slot : OrderSlot)
  | finishState (slot : OrderSlot)
  | deskOpening
  | deskBody (last : Bool)
  | deskHeader
  | renderCardRead (last : Bool)
  | renderIndexRead
  | renderRecordRead (span index : Nat)
  | renderWrite (frame : Nat) (last : Bool)
  | recordWrite (card sheet slot : Nat)
  | headerWrite (card sheet : Nat)
  | playbackRead (live : Bool)
  | abandonedRead (area : Area)
  deriving DecidableEq, Repr

/-- A read of so many bytes, or a write of these bytes (R168). -/
inductive Action where
  | read (length : Nat)
  | write (bytes : List Byte)
  deriving DecidableEq, Repr

/-- One access of the memory engine (R168). `later` holds the ranges, as address and length, of writes granted
after it that have completed while it is in flight: their bytes stand over its own (R170, R176). -/
structure Access where
  who : Requester
  purpose : Purpose
  address : Nat
  action : Action
  later : List (Nat × Nat) := []
  deriving DecidableEq, Repr

/-- The memory engine (R168, R169): the accesses handed over and not granted, in hand-over order (a
requester's queue is its sublist), the accesses granted and not complete, in grant order, the two pointers
and the run count. -/
structure Engine where
  waiting : List Access
  flight : List Access
  pointerA : Nat
  pointerB : Nat
  run : Nat
  deriving DecidableEq, Repr

/-- An entry of a record write queue in its three conditions (R171). A WAITING voice record that follows its
pause record in the same codec result is `tied` to it (R29). -/
inductive QueueEntry where
  | waiting (record : Rec) (tied : Bool)
  | ready (record : Rec) (card sheet slot : Nat)
  | writing (record : Rec) (card sheet slot : Nat)
  deriving DecidableEq, Repr

/-- A place of a playback read-ahead (R20, R172): the named record and, once ready, its 64 bytes. -/
structure PlayPlace where
  sheet : Nat
  slot : Nat
  start : Nat
  frames : Nat
  data : Option (List Byte)
  deriving DecidableEq, Repr

/-! ### Cards -/

/-- A card's fields (R94), its state byte as the layout codes it (R185). -/
structure Card where
  state : Nat
  writing : Bool
  damaged : Bool
  channel : Nat
  author : Nat
  priority : Priority
  index : Nat
  spanCount : Nat
  length : Nat
  instructionFrames : Nat
  lostFrames : Nat
  clipped : Nat
  takes : Nat
  sequence : Nat
  deriving DecidableEq, Repr

/-- The stages of a checkpoint and what follows it (R17, R101, R103): closing placements, waiting for the
write queue to drain, the WRITING line, the index lines, the VALID card, the FILED entries, the last card. -/
inductive OpStage where
  | placing
  | draining
  | writing
  | index
  | valid
  | filed
  | card
  deriving DecidableEq, Repr

/-- The stages of a reopen (R108 to R110): `old` is the card as read. -/
inductive ReopenStage where
  | card (card : Nat)
  | index (old : Card) (line : Nat) (entries : List Span)
  | records (old : Card) (entries : List Span) (slot sum : Nat)
  | map (old : Card) (line : Nat) (noted : List Nat)
  deriving DecidableEq, Repr

/-- The card unit's operation for a channel (R95). OPENING holds the card once one is taken; FILING holds
whether a FILE LETTER order began it (log 20). -/
inductive CardOp where
  | opening (card : Option Nat)
  | checkpoint (stage : OpStage)
  | filing (stage : OpStage) (byOrder : Bool)
  | suspending (stage : OpStage)
  | reopening (stage : ReopenStage)
  deriving DecidableEq, Repr

/-- A letter awaiting discard (R106). -/
structure Discard where
  card : Nat
  index : Nat
  sheets : List Nat
  deriving DecidableEq, Repr

/-- The holdings of the card unit (R96). -/
inductive Holding where
  | opening (c : Chan)
  | held (c : Chan)
  | discarding (c : Chan)
  deriving DecidableEq, Repr

/-- A card search: the channel it serves, the cards examined, and whether it runs (R99). -/
structure Search where
  channel : Chan
  examined : Nat
  deriving DecidableEq, Repr

/-- An entry of the filing roll (R105). -/
structure RollEntry where
  card : Nat
  sequence : Nat
  priority : Priority
  deriving DecidableEq, Repr

/-- The card unit (R95); operations and discard lists stand in the channels' rows. -/
structure CardUnit where
  cursor : Nat
  search : Option Search
  openQueue : List Chan
  sequence : Nat
  roll : List RollEntry
  holdings : List (Nat × Holding)
  images : List (Nat × Card)
  deriving DecidableEq, Repr

/-! ### The row of a channel: what each block keeps for it -/

/-- What the blocks keep for one channel: the context (R1), the codec's state (R28), the flushed pause
record waiting to enter the write queue (R17, R171), the span list and placement record (R48), the current
write sheet (R78), the write queue and read-ahead (R171, R172), whether playback output has begun (R20),
the card unit's operation and discard list (R95). -/
structure ChanRow where
  ctx : Context
  codec : PauseRun
  flush : Option Nat
  spans : Option (List Span)
  placement : Option Placement
  sheet : Option WriteSheet
  queue : List QueueEntry
  ahead : List PlayPlace
  began : Bool
  op : Option CardOp
  discards : List Discard
  deriving DecidableEq, Repr

/-! ### Sheet manager -/

/-- A sheet request: for a take or closing placement, or for a new letter's index (R83). -/
inductive SheetRequest where
  | take (c : Chan)
  | index (c : Chan)
  deriving DecidableEq, Repr

/-- The scan state (R78): SCANNING from the event that starts the scan, first with its line read not yet
asked for (log 3). -/
inductive ScanState where
  | idle
  | starting
  | reading
  deriving DecidableEq, Repr

/-- A sheet whose FREE write waits for its header write, and the block that frees it (R173). -/
structure FreeWait where
  who : Requester
  sheet : Nat
  deriving DecidableEq, Repr

/-- The sheet manager (R78), top of the stack first. `freeWait` holds the frees, its own and the card unit's,
that wait for a header write (R173). -/
structure SheetManager where
  stack : List Nat
  cursor : Nat
  scan : ScanState
  scanAgain : Bool
  examined : Nat
  waiting : List SheetRequest
  tally : Nat
  hold : Bool
  storageOut : Bool
  freeWait : List FreeWait
  deriving DecidableEq, Repr

/-! ### Highway port -/

/-- Line states (R113). -/
inductive LineState where
  | down
  | settling
  | up
  deriving DecidableEq, Repr

/-- A completed input frame: 120 samples and the upward word, if one arrived (R114). -/
structure InputFrame where
  samples : List Sample
  word : Option Word
  deriving DecidableEq, Repr

/-- What the port keeps for an input timeslot (R113). The assembly is full from INPUT_FRAME to the next
boundary (log 14). -/
structure InputSlot where
  owner : Option Chan
  line : Option LineState
  good : Nat
  assembly : Option InputFrame
  deriving DecidableEq, Repr

/-- What the port keeps for an output timeslot (R113): the owner and the frame being sent (R119). -/
structure OutputSlot where
  owner : Option Chan
  samples : List Sample
  word : List Byte
  deriving DecidableEq, Repr

/-! ### Order unit and render -/

/-- The sweep state and its phase (R130, R132): asked for, reading, standing at a POSTED slot, waiting at a
slot for a card read. All but `idle` are SWEEPING. -/
inductive SweepState where
  | idle
  | requested
  | reading
  | acting (slot : OrderSlot)
  | awaiting (slot : OrderSlot)
  deriving DecidableEq, Repr

/-- Spans a render outputs (R151). -/
inductive Selection where
  | speech
  | instruction
  | both
  deriving DecidableEq, Repr

/-- The arguments of a RENDER order (R143). -/
structure RenderOrder where
  card : Nat
  start : Nat
  count : Nat
  selection : Selection
  buffer : Nat
  length : Nat
  deriving DecidableEq, Repr

/-- An entry of the accepted table (R130). -/
inductive Accepted where
  | close (c : Chan)
  | file (c : Chan)
  | reopen (card : Nat) (c : Chan)
  | render (order : RenderOrder)
  deriving DecidableEq, Repr

/-- The order unit (R130). -/
structure OrderUnit where
  sweep : SweepState
  again : Bool
  image : Option (List (List Byte))
  finishedSet : List OrderSlot
  accepted : Vector (Option Accepted) 32
  renders : List OrderSlot
  finishCounter : Word
  finishedCount : Word
  deriving DecidableEq, Repr

/-- Render stages (R148). -/
inductive RenderStage where
  | card
  | index
  | seek
  | output
  | draining
  deriving DecidableEq, Repr

/-- A place of the render's read-ahead: which record of which span of the copy, and its bytes once read. -/
structure RenderPlace where
  span : Nat
  index : Nat
  data : Option (List Byte)
  deriving DecidableEq, Repr

/-- The render decode state (R28, R46): the frames of the record not yet handed over (a voice frame, or
zero frames), and the zero frames that a span's left-over positions yield after it, with whether they are
being handed over (R152). -/
structure Decode where
  voice : Option (List Sample)
  zeros : Nat
  tail : Nat
  inTail : Bool
  deriving DecidableEq, Repr

/-- The render context (R148). `index`, `spanCount` and `line` serve the reading of the index sheet (R149);
`position`, `nextIndex` the output reached (R152); `askSpan`, `askIndex` the next record to ask for;
`total` the frames the range yields; `truncated` the ending once output stops (R154). -/
structure RenderContext where
  slot : OrderSlot
  order : RenderOrder
  stage : RenderStage
  index : Nat
  spanCount : Nat
  line : Nat
  spans : List Span
  start : Nat
  finish : Nat
  position : Nat
  nextIndex : Nat
  askSpan : Nat
  askIndex : Nat
  ahead : List RenderPlace
  decode : Option Decode
  total : Nat
  handed : Nat
  written : Nat
  failed : Option Nat
  stop : Bool
  truncated : Bool
  deriving DecidableEq, Repr

/-! ### Codec capacity, desk unit, quiesce -/

/-- Codec operations (R45, R46): channel operations since the last boundary, and render operations left in
this frame (log 15). -/
structure CodecUnit where
  inputOps : Nat
  renderLeft : Nat
  deriving DecidableEq, Repr

/-- The desk unit (R159). `requested` is a write asked for and not yet begun, `expired` a pacing expiry not
yet acted on (log 3, log 31), `finalAsked` and `finalRunning` the final write of quiesce (R165), `lines`
the sampled block (R160). -/
structure DeskUnit where
  generation : Word
  latest : Word
  writing : Bool
  again : Bool
  changed : Bool
  finishes : Word
  filings : Word
  pacing : Nat
  armed : Bool
  requested : Bool
  expired : Bool
  finalAsked : Bool
  finalRunning : Bool
  lines : List (List Byte)
  deriving DecidableEq, Repr

/-- The state of the part, its waiting commands, and what the outside sees of it: `written`, the bytes of
host memory the part's performed writes left (log 7), and `msi`, the MSIs raised (log 10). -/
structure State where
  pending : List Instr
  regs : Registers
  setup : Setup
  base : Nat
  sweep : StartSweep
  chans : Vector ChanRow 32
  inputs : Vector InputSlot 64
  outputs : Vector OutputSlot 64
  codec : CodecUnit
  letters : LetterStore
  sheets : SheetManager
  cards : CardUnit
  orders : OrderUnit
  render : Option RenderContext
  desk : DeskUnit
  engine : Engine
  stackReturned : Bool
  written : List Host.Cell
  msi : Nat
  deriving DecidableEq, Repr

/-! ### Reset values -/

/-- The all-off word (R119). -/
def allOffWord : List Byte := List.replicate 8 0#8

/-- 120 zero samples (R119). -/
def zeroSamples : List Sample := List.replicate 120 0#16

def Registers.reset : Registers :=
  { enable := false, intEnable := false, part := .disabled,
    fault := { kind := .none, area := .none, field := 0 },
    exchangeLo := 0#32, exchangeHi := 0#32, deskAck := 0#32 }

/-- DESIGN CHOICE (log 11): the manual gives the kept setup values no reset value. Unsafe. -/
def Setup.reset : Setup :=
  { poolBase := 0, mapBase := 0, cardBase := 0, sheetCount := 0, cardCount := 0,
    low := 0, high := 0, pacing := 0, orderMark := 0, filingMark := 0 }

def StartSweep.reset : StartSweep := { phase := .idle, kept := [], largest := 0, free := 0 }

def Lamp.reset : Lamp := { mode := .off, count := 0 }

/-- The values of R1's last column. -/
def Context.reset : Context :=
  { inSlot := none, outSlot := none, gain := 0, threshold := 0, hangover := 0, maxPause := 0,
    recover := 0, author := 0, defaultPriority := .routine, state := .unbound,
    insert := false, instruct := false, letter := none, cursor := 0, playPos := none,
    keys := [], transient := none, host := none, openRequest := none,
    pendingClose := none, pendingFile := none,
    lampRecord := Lamp.reset, lampReady := Lamp.reset, lampAttention := Lamp.reset,
    openAfter := false, panel := allOffWord }

def PauseRun.reset : PauseRun := { silent := 0, pending := 0, lost := 0 }

def ChanRow.reset : ChanRow :=
  { ctx := Context.reset, codec := PauseRun.reset, flush := none, spans := none, placement := none,
    sheet := none, queue := [], ahead := [], began := false, op := none, discards := [] }

def InputSlot.reset : InputSlot := { owner := none, line := none, good := 0, assembly := none }

/-- R120: zero samples and the all-off word. -/
def OutputSlot.reset : OutputSlot := { owner := none, samples := zeroSamples, word := allOffWord }

def CodecUnit.reset : CodecUnit := { inputOps := 0, renderLeft := Config.codecOperations }

def LetterStore.reset : LetterStore := { live := [], records := [] }

def SheetManager.reset : SheetManager :=
  { stack := [], cursor := 0, scan := .idle, scanAgain := false, examined := 0, waiting := [],
    tally := 0, hold := false, storageOut := false, freeWait := [] }

def CardUnit.reset : CardUnit :=
  { cursor := 0, search := none, openQueue := [], sequence := 0, roll := [], holdings := [],
    images := [] }

def OrderUnit.reset : OrderUnit :=
  { sweep := .idle, again := false, image := none, finishedSet := [],
    accepted := Vector.replicate 32 none, renders := [], finishCounter := 0#32,
    finishedCount := 0#32 }

def DeskUnit.reset : DeskUnit :=
  { generation := 0#32, latest := 0#32, writing := false, again := false, changed := false,
    finishes := 0#32, filings := 0#32, pacing := 0, armed := true, requested := false,
    expired := false, finalAsked := false, finalRunning := false, lines := [] }

def Engine.reset : Engine := { waiting := [], flight := [], pointerA := 0, pointerB := 0, run := 0 }

/-- The machine right after a cold reset (R184): every register and all state at the value its chapter
states, no command waiting. -/
def State.reset : State :=
  { pending := [], regs := Registers.reset, setup := Setup.reset, base := 0,
    sweep := StartSweep.reset, chans := Vector.replicate 32 ChanRow.reset,
    inputs := Vector.replicate 64 InputSlot.reset, outputs := Vector.replicate 64 OutputSlot.reset,
    codec := CodecUnit.reset, letters := LetterStore.reset, sheets := SheetManager.reset,
    cards := CardUnit.reset, orders := OrderUnit.reset, render := none, desk := DeskUnit.reset,
    engine := Engine.reset, stackReturned := false, written := [], msi := 0 }

end Sys2Proof.Machine
end

