-- ==== Sys2Proof/Machine/Table.lean ====
section
/-! DEFINITION. Keyed lists in one canonical form (keys strictly rising), and the bytes of host memory that
the part's writes have left, kept as such a list. -/

namespace Sys2Proof.Machine

open Sys2Proof

/-- The entry at a key. -/
def Table.get {α : Type} : List (Nat × α) → Nat → Option α
  | [], _ => none
  | (k, v) :: rest, key => if key = k then some v else Table.get rest key

/-- The table with one entry set, in its place by key. -/
def Table.put {α : Type} : List (Nat × α) → Nat → α → List (Nat × α)
  | [], key, value => [(key, value)]
  | (k, v) :: rest, key, value =>
    if key < k then (key, value) :: (k, v) :: rest
    else if key = k then (key, value) :: rest
    else (k, v) :: Table.put rest key value

/-- The table without an entry. -/
def Table.erase {α : Type} (t : List (Nat × α)) (key : Nat) : List (Nat × α) :=
  t.filter fun e => e.1 != key

/-- The canonical form: keys strictly rising, so no key stands twice. -/
abbrev Table.wf {α : Type} (t : List (Nat × α)) : Prop := (t.map Prod.fst).Pairwise (· < ·)

/-- A count table lists no 0: an unlisted key counts 0 (R48). -/
def Count.get (t : List (Nat × Nat)) (key : Nat) : Nat := (Table.get t key).getD 0

/-- Set a count, keeping zeros unlisted. -/
def Count.set (t : List (Nat × Nat)) (key n : Nat) : List (Nat × Nat) :=
  if n = 0 then Table.erase t key else Table.put t key n

/-! ### Host memory as the part's writes leave it -/

/-- A byte the part's performed writes have left, or none where they do not settle it (log 7). -/
def Memory.read (m : List Host.Cell) (address : Nat) : Option Byte := Table.get m address

/-- A write performed by the bus (R170). -/
def Memory.write : List Host.Cell → Nat → List Byte → List Host.Cell
  | m, _, [] => m
  | m, address, b :: bytes => Memory.write (Table.put m address b) (address + 1) bytes

/-- A write that was cut or failed: its bytes may be new or old (R176), so nothing is known of them, but for
those at the addresses that `stands` tells of. -/
def Memory.forget (stands : Nat → Bool) : List Host.Cell → Nat → Nat → List Host.Cell
  | m, _, 0 => m
  | m, address, n + 1 =>
    Memory.forget stands (if stands address then m else Table.erase m address) (address + 1) n

/-- The canonical form of the memory list. An unlisted address reads as none, which no entry equals. -/
abbrev Memory.wf (m : List Host.Cell) : Prop := Table.wf m

end Sys2Proof.Machine
end

