-- ==== Sys2Proof/Machine/Operands.lean ====
section
/-! DEFINITION. The byte layouts of every structure the part reads or writes (12_exchange_formats.md, R185):
fields read little-endian at their width, and the lines, entries and words the part writes. A read shorter
than a field's place reads 0 there; a well-formed command never does that. -/

namespace Sys2Proof.Machine

open Sys2Proof

/-! ### Fields, little-endian -/

/-- The byte at an offset. -/
def byteAt (data : List Byte) (offset : Nat) : Nat := (data.getD offset 0#8).toNat

/-- An unsigned field of `width` bytes at an offset. -/
def fieldAt (data : List Byte) (offset : Nat) : Nat → Nat
  | 0 => 0
  | width + 1 => byteAt data offset + 256 * fieldAt data (offset + 1) width

/-- A number as `width` bytes, least significant first. -/
def bytesOf : Nat → Nat → List Byte
  | 0, _ => []
  | width + 1, value => BitVec.ofNat 8 value :: bytesOf width (value / 256)

/-- So many zero bytes. -/
def zeroBytes (n : Nat) : List Byte := List.replicate n 0#8

/-- The bytes combined by exclusive OR (R115, R124). -/
def checkByte (bytes : List Byte) : Byte := bytes.foldl (· ^^^ ·) 0#8

/-- A list cut into pieces of `size`, `n` pieces. -/
def pieces {α : Type} (size : Nat) : Nat → List α → List (List α)
  | 0, _ => []
  | n + 1, l => l.take size :: pieces size n (l.drop size)

/-! ### Host addresses -/

/-- An address of host memory, 64 bits wide (log 9). -/
def hostAddress (base offset : Nat) : Nat := (base + offset) % Config.addressSpace

/-- Map entry s lies at the map base plus 2 × s (R74). -/
def mapEntryAddress (p : Setup) (sheet : Nat) : Nat := hostAddress p.mapBase (2 * sheet)

/-- Map line k lies at 64 × k bytes from the map base (R80). -/
def mapLineAddress (p : Setup) (line : Nat) : Nat := hostAddress p.mapBase (64 * line)

/-- Card n lies at the card file base plus 256 × n (R93); `line` is one of its four lines. -/
def cardLineAddress (p : Setup) (card line : Nat) : Nat := hostAddress p.cardBase (256 * card + 64 * line)

/-- Slot `slot` of a sheet (R50). -/
def sheetSlotAddress (p : Setup) (sheet slot : Nat) : Nat :=
  hostAddress p.poolBase (Config.sheetBytes * sheet + 64 * slot)

/-- Order slot k lies at 0x800 plus 64 × k of the exchange area (R185, 12.3). -/
def orderSlotAddress (base : Nat) (slot : OrderSlot) (offset : Nat) : Nat :=
  hostAddress base (0x800 + 64 * slot.val + offset)

/-- The desk block lies at offset 0x100 of the exchange area (R161). -/
def deskLineAddress (base line : Nat) : Nat := hostAddress base (0x100 + 64 * line)

/-- Setup line k of the exchange area (R179). -/
def setupLineAddress (base line : Nat) : Nat := hostAddress base (64 * line)

/-! ### Setup record (12.1) -/

def setupOf (data : List Byte) : Setup :=
  { poolBase := fieldAt data 0x00 8, mapBase := fieldAt data 0x08 8, cardBase := fieldAt data 0x10 8,
    sheetCount := fieldAt data 0x18 4, cardCount := fieldAt data 0x1C 4, low := fieldAt data 0x20 4,
    high := fieldAt data 0x24 4, pacing := fieldAt data 0x28 4, orderMark := fieldAt data 0x2C 4,
    filingMark := fieldAt data 0x30 4 }

/-- The tests of the ten setup fields in the order of their numbers (R179). -/
def setupTests (p : Setup) : List (Nat × Bool) :=
  [(1, p.poolBase % 8192 == 0), (2, p.mapBase % 64 == 0), (3, p.cardBase % 256 == 0),
   (4, 64 ≤ p.sheetCount && p.sheetCount ≤ 32768), (5, 16 ≤ p.cardCount && p.cardCount ≤ 256),
   (6, 1 ≤ p.low && p.low ≤ p.sheetCount - 1), (7, p.low + 1 ≤ p.high && p.high ≤ p.sheetCount),
   (8, 1 ≤ p.pacing && p.pacing ≤ 64), (9, 1 ≤ p.orderMark && p.orderMark ≤ 32),
   (10, 1 ≤ p.filingMark && p.filingMark ≤ 16)]

/-- The number of the first setup field that fails, if one does (R179). -/
def setupFailure (p : Setup) : Option Nat := ((setupTests p).find? fun t => !t.2).map Prod.fst

/-! ### Map entries (12.5) -/

def mapFree : Nat := 0
def mapClaimed : Nat := 1
def mapAudio : Nat := 2
def mapIndex : Nat := 3
def mapFiled : Nat := 4

/-- A map entry's two bytes: state, then card (12.5). -/
def mapEntryBytes (state card : Nat) : List Byte := [BitVec.ofNat 8 state, BitVec.ofNat 8 card]

/-- State byte of entry i of a map line. -/
def mapStateAt (line : List Byte) (i : Nat) : Nat := byteAt line (2 * i)

/-- Card byte of entry i of a map line. -/
def mapCardAt (line : List Byte) (i : Nat) : Nat := byteAt line (2 * i + 1)

/-! ### Cards (12.4) -/

def cardVacant : Nat := 0
def cardOpen : Nat := 1
def cardFiled : Nat := 2
def cardSuspended : Nat := 3

def Priority.code : Priority → Nat
  | .routine => 0
  | .urgent => 1

/-- A priority byte of a card: ROUTINE 0; any other value is taken as URGENT (log 26). -/
def priorityOf (n : Nat) : Priority := if n = 0 then .routine else .urgent

def flagCode (b : Bool) : Nat := if b then 1 else 0

/-- The first line of a card: every field a search, an order check or the start sweep reads. -/
def cardFirstLine (k : Card) : List Byte :=
  bytesOf 1 k.state ++ bytesOf 1 (flagCode k.writing) ++ bytesOf 1 (flagCode k.damaged) ++
  bytesOf 1 k.priority.code ++ bytesOf 4 k.sequence ++ bytesOf 1 k.channel ++ zeroBytes 1 ++
  bytesOf 2 k.author ++ zeroBytes 52

/-- The second line of a card: the figures of the last checkpoint. -/
def cardSecondLine (k : Card) : List Byte :=
  bytesOf 2 k.index ++ bytesOf 2 k.spanCount ++ bytesOf 4 k.length ++ bytesOf 4 k.instructionFrames ++
  bytesOf 4 k.lostFrames ++ bytesOf 4 k.clipped ++ bytesOf 2 k.takes ++ zeroBytes 42

/-- The three lines after the first (R97). -/
def cardBodyLines (k : Card) : List (List Byte) := [cardSecondLine k, zeroBytes 64, zeroBytes 64]

/-- A card as its bytes read. Checkpoint state and DAMAGED bytes other than 0 read as WRITING and set
(log 26). -/
def cardOf (data : List Byte) : Card :=
  { state := byteAt data 0x00, writing := byteAt data 0x01 != 0, damaged := byteAt data 0x02 != 0,
    priority := priorityOf (byteAt data 0x03), sequence := fieldAt data 0x04 4,
    channel := byteAt data 0x08, author := fieldAt data 0x0A 2, index := fieldAt data 0x40 2,
    spanCount := fieldAt data 0x42 2, length := fieldAt data 0x44 4,
    instructionFrames := fieldAt data 0x48 4, lostFrames := fieldAt data 0x4C 4,
    clipped := fieldAt data 0x50 4, takes := fieldAt data 0x54 2 }

/-! ### Span entries and records (12.6) -/

def spanBytes (p : Span) : List Byte :=
  bytesOf 2 p.sheet ++ bytesOf 1 p.first ++ bytesOf 1 p.count ++ bytesOf 2 p.frames ++
  bytesOf 1 (flagCode p.instruction) ++ zeroBytes 1

/-- Entry i of a line of an index sheet, eight to a line (R101). -/
def spanAt (line : List Byte) (i : Nat) : Span :=
  { sheet := fieldAt line (8 * i) 2, first := byteAt line (8 * i + 2), count := byteAt line (8 * i + 3),
    frames := fieldAt line (8 * i + 4) 2, instruction := byteAt line (8 * i + 6) % 2 == 1 }

/-- Line k of the index sheet for a span list: entries 8k to 8k + 7, zero beyond the span count (R101). -/
def indexLineBytes (spans : List Span) (line : Nat) : List Byte :=
  let entries := (spans.drop (8 * line)).take 8
  (entries.map spanBytes).flatten ++ zeroBytes (64 - 8 * entries.length)

/-- ceil(span count / 8) lines hold a span list (R101, R109, R149). -/
def indexLineCount (spanCount : Nat) : Nat := (spanCount + 7) / 8

/-- A code as its 4-bit two's-complement value (R41). -/
def codeNibble (code : Int) : Nat := (code % 16).toNat

/-- Bytes 4 to 63 of a voice record: two codes to a byte, the odd sample low (R41). -/
def codeBytes : List Int → List Byte
  | [] => []
  | [a] => [BitVec.ofNat 8 (codeNibble a)]
  | a :: b :: rest => BitVec.ofNat 8 (codeNibble a + 16 * codeNibble b) :: codeBytes rest

/-- A record's 64 bytes (R41). -/
def Rec.bytes : Rec → List Byte
  | .voice scale clips anchor codes =>
    BitVec.ofNat 8 scale :: BitVec.ofNat 8 clips :: (bytesOf 2 (anchor % 65536).toNat ++ codeBytes codes)
  | .pause frames lost =>
    BitVec.ofNat 8 (if lost then 0x1F else 0x0F) :: BitVec.ofNat 8 frames :: zeroBytes 62

/-- The scale value of a record read: the low four bits of byte 0; 15 marks a pause (R42, R43). -/
def scaleOf (data : List Byte) : Nat := byteAt data 0 % 16

def isPause (data : List Byte) : Bool := scaleOf data == 15

/-- The frames a record read decodes to: 1 for voice, the count of a pause, a count of 0 taken as 1 (R43). -/
def framesOf (data : List Byte) : Nat := if isPause data then max 1 (byteAt data 1) else 1

/-- Kind and frame count of a record read by a reopen (R109). -/
def recordEntryOf (data : List Byte) : RecordEntry :=
  if isPause data then
    { frames := byteAt data 1, kind := if byteAt data 0 / 16 % 2 = 1 then .lost else .pause }
  else
    { frames := 1, kind := if byteAt data 1 = 0 then .voice else .clipped }

/-- The sheet header: records used, card, low 8 bits of the take count (R173, 12.5). -/
def headerBytes (used card take : Nat) : List Byte :=
  bytesOf 2 used ++ bytesOf 2 card ++ bytesOf 1 take ++ zeroBytes 59

/-! ### Order slots (12.3) -/

def slotState (data : List Byte) : Nat := byteAt data 0x00
def slotKind (data : List Byte) : Nat := byteAt data 0x01
def slotPosted : Nat := 1
def slotAccepted : Nat := 2
def slotFinished : Nat := 3

/-- Arguments of a STATION SETUP as its bytes read (12.3). -/
structure SetupOrder where
  channel : Nat
  input : Nat
  output : Nat
  gain : Nat
  threshold : Nat
  hangover : Nat
  maxPause : Nat
  recover : Nat
  priority : Nat
  author : Nat
  deriving DecidableEq, Repr

def setupOrderOf (data : List Byte) : SetupOrder :=
  { channel := byteAt data 0x08, input := byteAt data 0x09, output := byteAt data 0x0A,
    gain := byteAt data 0x0B, threshold := fieldAt data 0x0C 2, hangover := byteAt data 0x0E,
    maxPause := byteAt data 0x0F, recover := byteAt data 0x10, priority := byteAt data 0x11,
    author := fieldAt data 0x12 2 }

/-- The channel byte of the orders that carry one. -/
def orderChannel (data : List Byte) : Nat := byteAt data 0x08

/-- The card field of a REOPEN LETTER. -/
def reopenCard (data : List Byte) : Nat := fieldAt data 0x0A 2

/-- The value byte of a NOTICE. -/
def noticeValue (data : List Byte) : Nat := byteAt data 0x09

/-- The count of a RETURN. -/
def returnCount (data : List Byte) : Nat := fieldAt data 0x08 4

/-- The selection byte of a RENDER (R143). -/
def selectionOf (n : Nat) : Option Selection :=
  if n = 1 then some .speech else if n = 2 then some .instruction else if n = 3 then some .both else none

/-- The arguments of a RENDER, its selection byte read apart. -/
def renderOrderOf (data : List Byte) (selection : Selection) : RenderOrder :=
  { card := fieldAt data 0x08 2, start := fieldAt data 0x0C 4, count := fieldAt data 0x10 4,
    selection := selection, length := fieldAt data 0x14 4, buffer := fieldAt data 0x18 8 }

/-! ### Result codes (R135) -/

def codeDone : Nat := 0
def codeTruncated : Nat := 1
def codeCancelled : Nat := 2
def codeTooLate : Nat := 3
def codeDiscardedEmpty : Nat := 4
def codeBufferFault : Nat := 5
def codeResetLost : Nat := 6
def codeRefusedKind : Nat := 16
def codeRefusedRange : Nat := 17
def codeRefusedAlign : Nat := 18
def codeRefusedChannelState : Nat := 19
def codeRefusedSlotTaken : Nat := 20
def codeRefusedCardState : Nat := 21
def codeRefusedCardBusy : Nat := 22
def codeRefusedDamaged : Nat := 23

/-- The first part of a finishing write, offsets 0x30 to 0x3F (12.3). -/
def resultBytes (code first second number : Nat) : List Byte :=
  bytesOf 1 code ++ zeroBytes 3 ++ bytesOf 4 first ++ bytesOf 4 second ++ bytesOf 4 number

/-! ### Highway words (12.7) -/

/-- Type, key code, argument and check of an upward word. -/
def wordType (w : Word) : Nat := (w.extractLsb' 0 8).toNat
def wordCode (w : Word) : Nat := (w.extractLsb' 8 8).toNat
def wordArg (w : Word) : Nat := (w.extractLsb' 16 8).toNat

/-- A frame is present when its word arrived, its type is IDLE or KEY, and its check holds (R115). -/
def framePresent : Option Word → Bool
  | none => false
  | some w =>
    decide (wordType w ≤ 1) &&
      (w.extractLsb' 24 8 == w.extractLsb' 0 8 ^^^ w.extractLsb' 8 8 ^^^ w.extractLsb' 16 8)

/-- The blank word: seven zero bytes, then 0xFF (R119). -/
def blankWord : List Byte := zeroBytes 7 ++ [0xFF#8]

end Sys2Proof.Machine
end

