-- ==== Sys2Proof/Machine/Codec.lean ====
section
/-! DEFINITION. The frame codec's arithmetic (02_the_frame_codec.md): gain, activity, pause compression,
scale, quantization with reconstruction, and decoding. Samples are integers here; every division is by a
positive number and rounds down, as the manual's floor does. -/

namespace Sys2Proof.Machine

open Sys2Proof

/-- Saturation to −32768 to 32767. -/
def saturate (y : Int) : Int := max (-32768) (min 32767 y)

/-- The gained sample before saturation: floor((x × G + 32) / 64) (R30). -/
def gained (gain : Nat) (x : Int) : Int := (x * gain + 32) / 64

/-- The gained sample y (R30). -/
def gainSample (gain : Nat) (x : Int) : Int := saturate (gained gain x)

/-- A sample is clipped when its gained value had to be saturated (R30). -/
def clipped (gain : Nat) (x : Int) : Bool := gained gain x != saturate (gained gain x)

/-- The clip count of a frame (R31). -/
def clipCount (gain : Nat) (xs : List Int) : Nat := xs.countP (clipped gain)

/-- The activity A: a 128th of the sum of magnitudes, rounded down (R32). -/
def activity (ys : List Int) : Nat := (ys.map Int.natAbs).sum / 128

/-- A frame is silent when A is below T (R32). -/
def silent (threshold : Nat) (ys : List Int) : Bool := activity ys < threshold

/-- D, the largest difference of neighbouring gained samples (R37). -/
def largestStep : List Int → Nat
  | a :: b :: rest => max (b - a).natAbs (largestStep (b :: rest))
  | _ => 0

/-- The scale: the smallest s from 0 to 14 with 7 × 2^s not below D (R37). -/
def scaleFor (d : Nat) : Nat := ((List.range 15).find? fun s => d ≤ 7 * 2 ^ s).getD 14

/-- The code of a difference: rounded half up and clamped to −8 to 7 (R38). -/
def codeFor (scale : Nat) (d : Int) : Int :=
  let q := if scale = 0 then d else (d + 2 ^ (scale - 1)) / 2 ^ scale
  max (-8) (min 7 q)

/-- The next reconstructed sample (R39, R42). -/
def reconstruct (scale : Nat) (previous code : Int) : Int := saturate (previous + code * 2 ^ scale)

/-- The codes of the samples after the anchor, each from the reconstruction before it (R38, R39). -/
def quantize (scale : Nat) : Int → List Int → List Int
  | _, [] => []
  | previous, y :: rest =>
    let code := codeFor scale (y - previous)
    code :: quantize scale (reconstruct scale previous code) rest

/-- The voice record of a frame (R37 to R39). -/
def voiceRecord (gain : Nat) (xs : List Int) : Rec :=
  let ys := xs.map (gainSample gain)
  let scale := scaleFor (largestStep ys)
  let anchor := ys.headD 0
  .voice scale (clipCount gain xs) anchor (quantize scale anchor ys.tail)

/-- Pause compression of one frame and its records (R29, R33, R34). A non-silent frame first emits a pause
pending; a silent one is hangover, joins the pause, completes it at P, or is discarded. -/
def encodeFrame (gain threshold hangover maxPause : Nat) (run : PauseRun) (xs : List Int) :
    PauseRun × List Rec :=
  let voice := voiceRecord gain xs
  if silent threshold (xs.map (gainSample gain)) then
    let h := min (run.silent + 1) (hangover + maxPause + 1)
    if h ≤ hangover then ({ run with silent := h }, [voice])
    else if h ≤ hangover + maxPause then
      if run.pending + 1 = maxPause then
        ({ run with silent := h, pending := 0 }, [.pause maxPause false])
      else ({ run with silent := h, pending := run.pending + 1 }, [])
    else ({ run with silent := h }, [])
  else
    ({ run with silent := 0, pending := 0 },
      (if run.pending = 0 then [] else [.pause run.pending false]) ++ [voice])

/-! ### Decoding -/

/-- A 4-bit value as a code from −8 to 7 (R41). -/
def codeOf (nibble : Nat) : Int := if nibble < 8 then nibble else (nibble : Int) - 16

/-- The code for sample n, 1 to 119, from its place in a record (R41). -/
def codeAt (data : List Byte) (n : Nat) : Int :=
  let byte := byteAt data (4 + (n - 1) / 2)
  codeOf (if n % 2 = 1 then byte % 16 else byte / 16)

/-- The anchor, signed (R41). -/
def anchorOf (data : List Byte) : Int := (BitVec.ofNat 16 (fieldAt data 2 2)).toInt

/-- The samples after a given one, each the sum of the one before and its code's step (R42). -/
def decodeFrom (scale : Nat) (previous : Int) : List Int → List Int
  | [] => []
  | code :: rest =>
    let r := reconstruct scale previous code
    r :: decodeFrom scale r rest

/-- The 120 samples of a voice record (R42). -/
def decodeVoice (data : List Byte) : List Int :=
  let anchor := anchorOf data
  anchor :: decodeFrom (scaleOf data) anchor ((List.range 119).map fun n => codeAt data (n + 1))

/-- Samples as the highway and the render buffer carry them. -/
def toSamples (ys : List Int) : List Sample := ys.map (BitVec.ofInt 16)

/-- The little-endian bytes of a frame of samples (R153). -/
def sampleBytes (samples : List Sample) : List Byte :=
  samples.flatMap fun x => [x.extractLsb' 0 8, x.extractLsb' 8 8]

end Sys2Proof.Machine
end

