-- ==== Sys2Proof/Machine/Store.lean ====
section
/-! DEFINITION. The letter store's work on a span list (03_letters_takes_and_spans.md): lengths, record
boundaries, snapping, splitting, inserting and trimming, and the figures of a checkpoint. A span list is
in letter order; positions count frames. -/

namespace Sys2Proof.Machine

open Sys2Proof

/-- The letter length L: the sum of the spans' frame counts (R49). -/
def lengthOf (spans : List Span) : Nat := (spans.map Span.frames).sum

/-- The record table's key of a slot of a sheet. -/
def recordKey (sheet slot : Nat) : Nat := sheet * 128 + slot

/-- The frame count of the record in a slot (R52). DESIGN CHOICE (log 65): a slot without an entry, as a host write
of R77 can leave it, counts 1 frame. -/
def slotFrames (table : List (Nat × RecordEntry)) (sheet slot : Nat) : Nat :=
  ((Table.get table (recordKey sheet slot)).map RecordEntry.frames).getD 1

/-- The list cut at a span boundary: the spans that end at or before p, and the rest (R58, R67). -/
def cutAt : List Span → Nat → List Span × List Span
  | [], _ => ([], [])
  | sp :: rest, p =>
    if sp.frames ≤ p ∧ 0 < p then
      let (before, after) := cutAt rest (p - sp.frames)
      (sp :: before, after)
    else ([], sp :: rest)

/-- A position strictly inside a span: above its first position, below the position after its last (R57). -/
def insideSpan : List Span → Nat → Bool
  | [], _ => false
  | sp :: rest, p => if p < sp.frames then decide (0 < p) else insideSpan rest (p - sp.frames)

/-- How many of the records from a slot on lie within the first `k` frames, at most `n` of them. -/
def recordsWithin (table : List (Nat × RecordEntry)) (sheet : Nat) : Nat → Nat → Nat → Nat
  | _, _, 0 => 0
  | slot, k, n + 1 =>
    let f := slotFrames table sheet slot
    if f ≤ k ∧ 0 < k then 1 + recordsWithin table sheet (slot + 1) (k - f) n else 0

/-- The two parts of a span split with k frames before the cursor (R58). DESIGN CHOICE (log 65): where slots have no
entry in the record table the records are told apart by counts of 1, and a part can be left with record count 0. -/
def splitSpan (table : List (Nat × RecordEntry)) (sp : Span) (k : Nat) : List Span :=
  let j := recordsWithin table sp.sheet sp.first k sp.count
  [{ sp with count := j, frames := k },
   { sp with first := sp.first + j, count := sp.count - j, frames := sp.frames - k }]

/-- The span that has p strictly inside is split there; any other p changes nothing (R58). -/
def splitAt (table : List (Nat × RecordEntry)) : List Span → Nat → List Span
  | [], _ => []
  | sp :: rest, p =>
    if p < sp.frames then (if 0 < p then splitSpan table sp p ++ rest else sp :: rest)
    else sp :: splitAt table rest (p - sp.frames)

/-- The record containing p among `n` records of a sheet from a slot on, the first beginning at `base`. -/
def locateIn (table : List (Nat × RecordEntry)) (sheet p : Nat) : Nat → Nat → Nat → Option PlayPlace
  | _, _, 0 => none
  | slot, base, n + 1 =>
    let f := slotFrames table sheet slot
    if p < base + f then some { sheet := sheet, slot := slot, start := base, frames := f, data := none }
    else locateIn table sheet p (slot + 1) (base + f) n

/-- The record that contains position p, the list beginning at `base` (R50). -/
def locateFrom (table : List (Nat × RecordEntry)) (p : Nat) : Nat → List Span → Option PlayPlace
  | _, [] => none
  | base, sp :: rest =>
    if p < base + sp.frames then locateIn table sp.sheet p sp.first base sp.count
    else locateFrom table p (base + sp.frames) rest

/-- The record that contains position p of a letter (R50). -/
def locate (table : List (Nat × RecordEntry)) (spans : List Span) (p : Nat) : Option PlayPlace :=
  locateFrom table p 0 spans

/-- Snapping: p at or beyond L gives L, and below L the start of the record that contains p (R51). DESIGN CHOICE
(log 59): where no record of the table contains p, as after a host write of R77, p itself. -/
def snap (table : List (Nat × RecordEntry)) (spans : List Span) (p : Nat) : Nat :=
  if lengthOf spans ≤ p then lengthOf spans
  else ((locate table spans p).map PlayPlace.start).getD p

/-- The last entry of a list, and the list before it. -/
def lastSpan (spans : List Span) : Option Span := spans.getLast?

/-- A record joins the list at the cursor: it extends the span just before it, or is a new span (R59, R60). -/
def addRecord (spans : List Span) (cursor sheet slot frames : Nat) (instruction extend : Bool) : List Span :=
  let (before, after) := cutAt spans cursor
  match extend, before.getLast? with
  | true, some sp => before.dropLast ++ { sp with count := sp.count + 1, frames := sp.frames + frames } :: after
  | _, _ =>
    before ++ { sheet := sheet, first := slot, count := 1, frames := frames, instruction := instruction } :: after

/-- The span that begins at the cursor loses its first record, of f frames; an empty span goes (R68). DESIGN
CHOICE (log 58): where f is more than the span counts, as after a host write of R77, the span's frames become 0. -/
def trimAt (spans : List Span) (cursor f : Nat) : List Span :=
  match cutAt spans cursor with
  | (before, sp :: after) =>
    if sp.count ≤ 1 then before ++ after
    else before ++ { sp with first := sp.first + 1, count := sp.count - 1, frames := sp.frames - f } :: after
  | (before, []) => before

/-- The list with repeats after the first removed. -/
def firstOnly : List Nat → List Nat
  | [] => []
  | a :: l => a :: (firstOnly l).filter (· != a)

/-- The sheet list: each sheet once, in the order of first reference (R55). -/
def sheetList (spans : List Span) : List Nat := firstOnly (spans.map Span.sheet)

/-- The record table's entries of a span's slots. DESIGN CHOICE (log 73): a slot without one, as a host write of R77 can
leave it, counts to the checkpoint's figures neither as LOST nor as CLIPPED. -/
def spanEntries (table : List (Nat × RecordEntry)) (sp : Span) : List RecordEntry :=
  (List.range sp.count).filterMap fun i => Table.get table (recordKey sp.sheet (sp.first + i))

/-- Instruction frames of a letter (R54). -/
def instructionFrames (spans : List Span) : Nat := lengthOf (spans.filter Span.instruction)

/-- Lost frames of a letter (R54). -/
def lostFrames (table : List (Nat × RecordEntry)) (spans : List Span) : Nat :=
  ((spans.flatMap (spanEntries table)).map fun e => if e.kind = .lost then e.frames else 0).sum

/-- Clipped-record count of a letter (R54). -/
def clippedRecords (table : List (Nat × RecordEntry)) (spans : List Span) : Nat :=
  (spans.flatMap (spanEntries table)).countP fun e => e.kind = .clipped

/-- Frames of a record (R29). -/
def Rec.frames : Rec → Nat
  | .voice .. => 1
  | .pause frames _ => frames

/-- A LOST pause record (R36). -/
def Rec.isLost : Rec → Bool
  | .pause _ lost => lost
  | .voice .. => false

/-- Its entry in the record table (R52). -/
def Rec.entry : Rec → RecordEntry
  | .voice _ clips _ _ => { frames := 1, kind := if clips = 0 then .voice else .clipped }
  | .pause frames lost => { frames := frames, kind := if lost then .lost else .pause }

/-- The letter-full test at length L (R63): the record to place and whether it was shortened, or none where
it is discarded. -/
def fitRecord (length : Nat) : Rec → Option (Rec × Bool)
  | .voice scale clips anchor codes =>
    if length + 1 ≤ Config.letterLimit then some (.voice scale clips anchor codes, false) else none
  | .pause frames lost =>
    let room := Config.letterLimit - length
    if frames ≤ room then some (.pause frames lost, false)
    else if 1 ≤ room then some (.pause room lost, true)
    else none

/-- Free entries a take start needs (R57): 2 strictly inside a span, else 1. -/
def entriesNeeded (spans : List Span) (cursor : Nat) : Nat :=
  if insideSpan spans cursor then 2 else 1

/-- The answer of R57: room, when enough of the 1024 entries are free. -/
def spanRoom (spans : List Span) (cursor : Nat) : Bool :=
  decide (entriesNeeded spans cursor ≤ Config.spanLimit - spans.length)

/-- The mode of a take (R13). -/
def takeMode (spans : List Span) (cursor : Nat) (insert : Bool) : TakeMode :=
  if cursor = lengthOf spans then .append else if insert then .insert else .overwrite

end Sys2Proof.Machine
end

