-- ==== Sys2Proof/Machine/Flags.lean ====
section
/-! DEFINITION. Everything the part shows: register reads (R177), lamps and panel words (R121 to R124), and
the lines of the desk block (R160, 12.2). -/

namespace Sys2Proof.Machine

open Sys2Proof

/-! ### Register reads (R177) -/

def PartState.code : PartState → Nat
  | .disabled => 0
  | .starting => 1
  | .running => 2
  | .quiescing => 3
  | .faulted => 4

def FaultKind.code : FaultKind → Nat
  | .none => 0
  | .read => 1
  | .write => 2
  | .setupInvalid => 3

def Area.code : Area → Nat
  | .none => 0
  | .setup => 1
  | .desk => 2
  | .orders => 3
  | .map => 4
  | .cards => 5
  | .sheets => 6

/-- What a read of each register offset returns (R177): SWEEP and DESK_ACK read as 0, SOFT_RESET and the
unused bits of CONTROL read as 0. A read changes nothing. DESIGN CHOICE (log 68): an offset of no register reads
as 0. -/
def State.readRegister (s : State) (offset : Nat) : Word :=
  if offset = 0x00 then Config.ident
  else if offset = 0x04 then BitVec.ofNat 32 (flagCode s.regs.enable + 2 * flagCode s.regs.intEnable)
  else if offset = 0x08 then BitVec.ofNat 32 s.regs.part.code
  else if offset = 0x0C then
    BitVec.ofNat 32 (s.regs.fault.kind.code + 256 * s.regs.fault.area.code + 65536 * s.regs.fault.field)
  else if offset = 0x10 then s.regs.exchangeLo
  else if offset = 0x14 then s.regs.exchangeHi
  else 0#32

/-- The exchange base of the two registers (R177). -/
def exchangeBase (r : Registers) : Nat := r.exchangeHi.toNat * 2 ^ 32 + r.exchangeLo.toNat

/-! ### Rows -/

/-- The row of a channel. -/
def State.row (s : State) (c : Chan) : ChanRow := s.chans[c]

/-- The spans of a row; an absent list counts as empty. -/
def ChanRow.spanList (r : ChanRow) : List Span := r.spans.getD []

/-- L of a row. -/
def ChanRow.length (r : ChanRow) : Nat := lengthOf r.spanList

/-- The line state of a channel's input timeslot (R113). -/
def State.lineOf (s : State) (c : Chan) : Option LineState :=
  match (s.row c).ctx.inSlot with
  | none => none
  | some t => s.inputs[t].line

/-! ### Lamps (R121, R122) -/

/-- The mode of the RECORD lamp. -/
def recordLampMode (x : Context) : LampMode := if x.state = .recording then .on else .off

/-- The mode of the READY lamp. DESIGN CHOICE (log 48): OFF in RECORDING, for which R121 gives none. -/
def readyLampMode (x : Context) : LampMode :=
  match x.state with
  | .ready => .on
  | .playing => .blink
  | .busy _ => .wink
  | _ => .off

/-- The mode of the ATTENTION lamp: the first that applies. -/
def attentionLampMode (x : Context) (hold : Bool) : LampMode :=
  if x.host.isSome then .on else if x.transient.isSome then .wink else if hold then .blink else .off

/-- The phase step of a lamp (R122). -/
def Lamp.advance (l : Lamp) (mode : LampMode) : Lamp :=
  if mode ≠ l.mode then { mode := mode, count := 0 }
  else
    match mode with
    | .blink => { mode := mode, count := (l.count + 1) % 32 }
    | .wink => { mode := mode, count := (l.count + 1) % 8 }
    | _ => { mode := mode, count := 0 }

/-- The lamp's level (R122). -/
def Lamp.level (l : Lamp) : Bool :=
  match l.mode with
  | .on => true
  | .off => false
  | .blink => l.count ≤ 15
  | .wink => l.count ≤ 3

/-! ### Notices and figures (R123, R124) -/

def Notice.code : Notice → Nat
  | .refused => 1
  | .storageHold => 2
  | .storageOut => 3
  | .noCard => 4
  | .spanFull => 5
  | .letterFull => 6
  | .filed => 7
  | .discarded => 8
  | .lostAudio => 9

/-- The notice byte: the host notice first, then the transient notice (R123). -/
def noticeByte (x : Context) : Nat :=
  match x.host, x.transient with
  | some h, _ => 0x80 + h
  | none, some (n, _) => n.code
  | none, none => 0

/-- The URGENT flag: a letter held, of priority URGENT (R124). -/
def urgentFlag (x : Context) : Bool :=
  match x.letter with
  | some l => l.priority = .urgent
  | none => false

/-- Seconds shown for a count of frames (00_scope.md, Numbers). -/
def seconds (frames : Nat) : Nat := frames * 3 / 200

/-- The position shown (R124): the play position in PLAYING, the cursor with a letter, else 0. -/
def panelPosition (x : Context) : Nat :=
  match x.letter with
  | none => 0
  | some _ => if x.state = .playing then x.playPos.getD x.cursor else x.cursor

/-- The length shown (R124). -/
def panelLength (r : ChanRow) : Nat := if r.ctx.letter.isSome then r.length else 0

/-- The mode flags of a status entry (12.2). -/
def modeFlags (x : Context) : Nat :=
  flagCode x.insert + 2 * flagCode x.instruct + 4 * flagCode (urgentFlag x)

/-- The panel word of a row whose lamps have been advanced (12.7). -/
def panelWord (r : ChanRow) (hold : Bool) : List Byte :=
  let x := r.ctx
  let body :=
    bytesOf 1 (flagCode x.lampRecord.level + 2 * flagCode x.lampReady.level +
      4 * flagCode x.lampAttention.level) ++
    bytesOf 1 (modeFlags x + 8 * flagCode hold) ++ bytesOf 1 (noticeByte x) ++
    bytesOf 2 (seconds (panelPosition x)) ++ bytesOf 2 (seconds (panelLength r))
  body ++ [checkByte body]

/-! ### The desk block (R160, 12.2) -/

def ChanState.code : ChanState → Nat
  | .unbound => 0
  | .idle => 1
  | .ready => 2
  | .recording => 3
  | .playing => 4
  | .busy _ => 5

def ChanState.subCode : ChanState → Nat
  | .busy .saving => 1
  | .busy .filing => 2
  | .busy .loading => 3
  | .busy .closing => 4
  | _ => 0

def lineCode : Option LineState → Nat
  | none => 0
  | some .down => 1
  | some .settling => 2
  | some .up => 3

/-- A channel status entry (12.2). -/
def statusEntry (s : State) (c : Chan) : List Byte :=
  let r := s.row c
  let x := r.ctx
  bytesOf 1 x.state.code ++ bytesOf 1 x.state.subCode ++ bytesOf 1 (lineCode (s.lineOf c)) ++
  bytesOf 1 (modeFlags x) ++ bytesOf 1 (noticeByte x) ++ zeroBytes 1 ++
  bytesOf 2 ((x.letter.map OpenLetter.card).getD 0xFFFF) ++
  bytesOf 4 (if x.letter.isSome then x.cursor else 0) ++ bytesOf 4 (panelLength r)

/-- A filing roll entry (12.2). -/
def rollBytes (e : RollEntry) : List Byte :=
  bytesOf 2 e.card ++ bytesOf 1 e.priority.code ++ zeroBytes 1 ++ bytesOf 4 e.sequence

/-- Line 0: the header, with both generations (12.2). -/
def deskHeader (s : State) (generation : Word) : List Byte :=
  bytesOf 4 generation.toNat ++ bytesOf 1 s.regs.part.code ++ bytesOf 1 (flagCode s.sheets.hold) ++
  bytesOf 1 s.sheets.stack.length ++ bytesOf 1 s.cards.roll.length ++ bytesOf 4 s.sheets.tally ++
  bytesOf 4 s.orders.finishedCount.toNat ++ bytesOf 4 s.cards.sequence ++ zeroBytes 40 ++
  bytesOf 4 generation.toNat

/-- Lines 1 to 10: the roll in two lines, the channels four to a line (R161). -/
def deskBodyLines (s : State) : List (List Byte) :=
  pieces 64 10
    ((s.cards.roll.map rollBytes).flatten ++ zeroBytes (8 * (16 - s.cards.roll.length)) ++
      ((List.finRange 32).map (statusEntry s)).flatten)

/-- The eleven lines sampled for a desk write (R160, R161). -/
def deskLines (s : State) (generation : Word) : List (List Byte) :=
  deskHeader s generation :: deskBodyLines s

/-! ### What is reported to the desk unit as a change (R1, R113, R90) -/

/-- What a channel's changes are told from: state and sub-state, the insert, instruct and priority flags,
the notices, the open letter and the cursor (R1; log 30). -/
structure ChannelReport where
  state : ChanState
  insert : Bool
  instruct : Bool
  card : Option Nat
  urgent : Bool
  transient : Option Notice
  host : Option Nat
  cursor : Nat
  deriving DecidableEq, Repr

def channelReport (x : Context) : ChannelReport :=
  { state := x.state, insert := x.insert, instruct := x.instruct, card := x.letter.map OpenLetter.card,
    urgent := urgentFlag x, transient := x.transient.map Prod.fst, host := x.host, cursor := x.cursor }

/-- Every reported item: the channels, the line states and the storage hold. -/
def State.reports (s : State) : List ChannelReport × List (Option LineState) × Bool :=
  (s.chans.toList.map fun r => channelReport r.ctx, s.inputs.toList.map InputSlot.line, s.sheets.hold)

end Sys2Proof.Machine
end

