-- ==== Sys2Proof/Machine/Ops.lean ====
section
/-! DEFINITION. The operations every family shares: rows and notices, the memory engine's queues and
completions (10_the_memory_engine.md), entering FAULTED, the desk unit's reports and requests, and the
order unit's writes. -/

namespace Sys2Proof.Machine

open Sys2Proof

/-! ### Rows and notices -/

def State.setRow (s : State) (c : Chan) (r : ChanRow) : State := { s with chans := s.chans.set c r }

def State.modRow (s : State) (c : Chan) (f : ChanRow → ChanRow) : State := s.setRow c (f (s.row c))

def State.modCtx (s : State) (c : Chan) (f : Context → Context) : State :=
  s.modRow c fun r => { r with ctx := f r.ctx }

/-- The state of a channel (R3). -/
def State.chanState (s : State) (c : Chan) : ChanState := (s.row c).ctx.state

/-- Raise a transient notice: it replaces the one held, with 32 remaining frames (R8). -/
def State.raise (s : State) (c : Chan) (n : Notice) : State :=
  s.modCtx c fun x => { x with transient := some (n, Config.noticeFrames) }

def State.setChanState (s : State) (c : Chan) (st : ChanState) : State :=
  s.modCtx c fun x => { x with state := st }

def State.setOp (s : State) (c : Chan) (op : Option CardOp) : State :=
  s.modRow c fun r => { r with op := op }

/-! ### Outcomes -/

/-- Changes of what is reported to the desk unit set changed (R1, R113, R90, R163; log 30). The start sweep
begins with changed clear (R179). -/
def State.report (before after : State) : State :=
  if after.reports = before.reports ∨ after.regs.part = .starting then after
  else { after with desk := { after.desk with changed := true } }

/-- The outcome of a step that went from one state to another, its changes reported. -/
def done (before after : State) : Host.Outcome State Fault Refusal := .next (before.report after)

/-! ### Memory engine: handing over and completing -/

/-- A block hands an access over; it joins the tail of its requester's queue (R168). -/
def State.handOver (s : State) (a : Access) : State :=
  { s with engine := { s.engine with waiting := s.engine.waiting ++ [a] } }

def State.sendRead (s : State) (who : Requester) (purpose : Purpose) (address : Nat) : State :=
  s.handOver { who := who, purpose := purpose, address := address, action := .read 64 }

def State.sendWrite (s : State) (who : Requester) (purpose : Purpose) (address : Nat)
    (bytes : List Byte) : State :=
  s.handOver { who := who, purpose := purpose, address := address, action := .write bytes }

/-- The 2-byte write of a whole map entry (R75). -/
def State.sendMapEntry (s : State) (who : Requester) (purpose : Purpose) (sheet state card : Nat) : State :=
  s.sendWrite who purpose (mapEntryAddress s.setup sheet) (mapEntryBytes state card)

/-- Accesses that complete without a report of their own: all but the last of a group, writes no block
waits for, and reads a block has given up (log 8). -/
def Purpose.quiet : Purpose → Bool
  | .setupRead last => !last
  | .startCardWrite => true
  | .mapWrite => true
  | .cardBody _ _ _ last => !last
  | .cardFirst _ .plain => true
  | .indexWrite _ last => !last
  | .filedWrite _ last => !last
  | .reopenCardRead _ last => !last
  | .slotRead last => !last
  | .acceptWrite => true
  | .deskBody last => !last
  | .renderCardRead last => !last
  | .abandonedRead _ => true
  | _ => false

/-- A part of a finishing write (R128). -/
def Purpose.isFinish : Purpose → Bool
  | .finishResult _ | .finishState _ => true
  | _ => false

/-- The structure an access is for (R175). A render buffer write is for none. -/
def Purpose.area : Purpose → Area
  | .setupRead _ => .setup
  | .startCardRead | .startCardWrite | .searchRead | .cardWriting _ | .cardBody .. | .cardFirst ..
  | .reopenCardRead .. | .orderCardRead | .renderCardRead _ => .cards
  | .startMapRead | .mapWrite | .scanRead | .filedWrite .. | .reopenMapRead _ => .map
  | .startSlotRead | .slotRead _ | .acceptWrite | .finishResult _ | .finishState _ => .orders
  | .deskOpening | .deskBody _ | .deskHeader => .desk
  | .indexWrite .. | .reopenIndexRead _ | .reopenRecordRead _ | .renderIndexRead | .renderRecordRead ..
  | .recordWrite .. | .headerWrite .. | .playbackRead _ => .sheets
  | .renderWrite .. => .none
  | .abandonedRead area => area

/-- A write in flight notes the range of a later-granted write over its bytes that has completed (R170, R176). -/
def Access.overlaid (a b : Access) : Access :=
  match a.action, b.action with
  | .write old, .write new =>
    if a.address < b.address + new.length ∧ b.address < a.address + old.length then
      { a with later := a.later ++ [(b.address, new.length)] }
    else a
  | _, _ => a

/-- The byte of a write in flight at an address stands although the write may be cut or fail: a later-granted
write that put one there has completed (R170). -/
def Access.settledAt (a : Access) (address : Nat) : Bool :=
  a.later.any fun (start, length) => decide (start ≤ address ∧ address < start + length)

/-- A write as its failure meets it: the writes granted after it and in flight still stand over its bytes as well, for
each reaches host memory after it, and its own end decides what becomes of them (R170). -/
def Access.under (a : Access) (after : List Access) : Access := after.foldl Access.overlaid a

/-- The accesses granted after a requester's oldest one with a report of its own. -/
def grantedAfter (who : Requester) : List Access → List Access
  | [] => []
  | a :: rest => if a.who = who ∧ a.purpose.quiet = false then rest else grantedAfter who rest

/-- The accesses of a requester that complete with its next report: the quiet ones, and the one they stand
before. -/
def reported (who : Requester) : List Access → List Access
  | [] => []
  | a :: rest =>
    if a.who = who then (if a.purpose.quiet then a :: reported who rest else [a]) else reported who rest

/-- The requester's oldest granted access with a report of its own, and the list without it and without the
quiet accesses before it: completions of one requester come in the order of its grants (R170). What stays and was
granted before them notes what they wrote. -/
def nextDue (who : Requester) : List Access → Option (Access × List Access)
  | [] => none
  | a :: rest =>
    if a.who = who then (if a.purpose.quiet then nextDue who rest else some (a, rest))
    else (nextDue who rest).map fun (b, l) => (b, (reported who rest).foldl Access.overlaid a :: l)

/-- The completion of the requester's next due access, if it is of the kind asked for. -/
def State.complete (s : State) (who : Requester) (kind : Purpose → Bool) : Option (Access × State) :=
  match nextDue who s.engine.flight with
  | none => none
  | some (a, rest) =>
    if kind a.purpose then some (a, { s with engine := { s.engine with flight := rest } }) else none

/-- A completion reported to a block. Not due, it has no effect (log 2); in FAULTED the access is done and
its report reaches no block (R175). -/
def State.onComplete (s : State) (who : Requester) (kind : Purpose → Bool)
    (body : Access → State → State) : State :=
  match s.complete who kind with
  | none => s
  | some (a, t) => if t.regs.part = .faulted then t else body a t

/-- Reads given up by their block: still performed, they complete into nothing. -/
def State.abandon (s : State) (kind : Purpose → Bool) : State :=
  let give := fun a : Access =>
    if kind a.purpose then { a with purpose := .abandonedRead a.purpose.area } else a
  { s with engine := { s.engine with
      waiting := s.engine.waiting.map give, flight := s.engine.flight.map give } }

/-- An access of this kind is waiting or in flight. -/
def State.outstanding (s : State) (kind : Purpose → Bool) : Bool :=
  (s.engine.waiting ++ s.engine.flight).any fun a => kind a.purpose

/-- A header write of the sheet is waiting or in flight (R173). -/
def State.headerOutstanding (s : State) (sheet : Nat) : Bool :=
  s.outstanding fun p => match p with
    | .headerWrite _ n => n == sheet
    | _ => false

/-- The channel's write queue is drained (R172): no entry, and no header write of the channel waiting or in
flight. -/
def State.drained (s : State) (c : Chan) : Bool :=
  (s.row c).queue.isEmpty &&
    !((s.engine.waiting ++ s.engine.flight).any fun a =>
        a.who == .channel c && (match a.purpose with | .headerWrite .. => true | _ => false))

/-! ### FAULTED (R175, R159) -/

/-- Entering FAULTED: STATE and FAULT, the queues emptied, and one MSI if INT_ENABLE is set, which leaves
the part disarmed. Granted accesses stay in flight. -/
def State.enterFaulted (s : State) (kind : FaultKind) (area : Area) (field : Nat) : State :=
  { s with
    regs := { s.regs with part := .faulted, fault := { kind := kind, area := area, field := field } },
    engine := { s.engine with waiting := [] },
    chans := s.chans.map fun r => { r with queue := [], ahead := [] },
    desk := { s.desk with armed := s.desk.armed && !s.regs.intEnable },
    msi := s.msi + flagCode s.regs.intEnable }

/-- The part does work: STARTING, RUNNING or QUIESCING. -/
def State.active (s : State) : Bool :=
  s.regs.part == .starting || s.regs.part == .running || s.regs.part == .quiescing

/-- The blocks do their work on letters and orders: RUNNING or QUIESCING. -/
def State.works (s : State) : Bool := s.regs.part == .running || s.regs.part == .quiescing

/-! ### Desk unit: requests and reports (R163, R165) -/

/-- A desk write is requested. In IDLE it is begun by DESK_WRITE_BEGIN (log 3); in WRITING write again is
set. -/
def State.requestDesk (s : State) : State :=
  if s.active then
    if s.desk.writing then { s with desk := { s.desk with again := true } }
    else { s with desk := { s.desk with requested := true } }
  else s

/-- The report of a finished order (R163). DESIGN CHOICE (log 52): the finishes since sampling pass from
4,294,967,295 to 0. -/
def State.reportFinish (s : State) : State :=
  let n := s.desk.finishes + 1#32
  let t := { s with desk := { s.desk with finishes := n, changed := true } }
  if (s.regs.part = .running ∨ s.regs.part = .quiescing) ∧ s.setup.orderMark ≤ n.toNat then t.requestDesk
  else t

/-- The report of a filing (R163). DESIGN CHOICE (log 52): the filings since sampling pass from 4,294,967,295 to
0. -/
def State.reportFiling (s : State) (priority : Priority) : State :=
  let n := s.desk.filings + 1#32
  let t := { s with desk := { s.desk with filings := n, changed := true } }
  if priority = .urgent ∨ s.setup.filingMark ≤ n.toNat then t.requestDesk else t

/-! ### Order unit: the writes of a slot (R128, R134) -/

/-- A finishing write is handed over by its first part: the finish counter rises and numbers it, the slot
leaves the accepted table, and while a sweep runs it joins the finished-in-this-sweep set (R132). -/
def State.finishBy (s : State) (who : Requester) (slot : OrderSlot) (code first second : Nat) : State :=
  let number := s.orders.finishCounter + 1#32
  let t := { s with orders := { s.orders with
    finishCounter := number,
    accepted := s.orders.accepted.set slot none,
    finishedSet :=
      if s.orders.sweep = SweepState.idle then s.orders.finishedSet else s.orders.finishedSet ++ [slot] } }
  t.sendWrite who (.finishResult slot) (orderSlotAddress s.base slot 0x30)
    (resultBytes code first second number.toNat)

/-- The order unit's own finishing write. -/
def State.finish (s : State) (slot : OrderSlot) (code first second : Nat) : State :=
  s.finishBy .orderUnit slot code first second

/-- The accepting write and the table entry of a timed order (R128, R133). -/
def State.accept (s : State) (slot : OrderSlot) (entry : Accepted) : State :=
  ({ s with orders := { s.orders with accepted := s.orders.accepted.set slot (some entry) } }).sendWrite
    .orderUnit .acceptWrite (orderSlotAddress s.base slot 0) (bytesOf 1 slotAccepted)

/-! ### Card unit: writes of a card (R97) -/

/-- A whole-card write: the three lines after the first are handed over, and the first line goes with them
until they have completed. -/
def State.writeCard (s : State) (card : Nat) (image : Card) (ends : CardWrite) : State :=
  let send := fun (t : State) (line : Nat) (bytes : List Byte) (last : Bool) =>
    t.sendWrite .cardUnit (.cardBody card (cardFirstLine image) ends last)
      (cardLineAddress s.setup card line) bytes
  let t := send s 1 (cardSecondLine image) false
  let t := send t 2 (zeroBytes 64) false
  send t 3 (zeroBytes 64) true

/-- A whole-card write of the card has not yet handed over its first line (R97). -/
def State.cardWriteRunning (s : State) (card : Nat) : Bool :=
  s.outstanding fun p => match p with
    | .cardBody n _ _ _ => n == card
    | _ => false

def State.setImage (s : State) (card : Nat) (image : Card) : State :=
  { s with cards := { s.cards with images := Table.put s.cards.images card image } }

/-- The image of a held card (R95). -/
def State.image (s : State) (card : Nat) : Option Card := Table.get s.cards.images card

def State.setHolding (s : State) (card : Nat) (h : Holding) : State :=
  { s with cards := { s.cards with holdings := Table.put s.cards.holdings card h } }

/-- A card's holding ends, and its image with it (R95, R96). -/
def State.endHolding (s : State) (card : Nat) : State :=
  { s with cards := { s.cards with
      holdings := Table.erase s.cards.holdings card, images := Table.erase s.cards.images card } }

end Sys2Proof.Machine
end

