-- ==== Sys2Proof/Machine/SheetOps.lean ====
section
/-! DEFINITION. The sheet manager's operations (04_sheets_and_the_sheet_map.md): the storage hold, the
events that start a claim scan, frees, and the giving of sheets. -/

namespace Sys2Proof.Machine

open Sys2Proof

/-- The storage hold by the total of tally and stack count (R90). -/
def State.evaluateHold (s : State) : State :=
  let total := s.sheets.tally + s.sheets.stack.length
  if total < s.setup.low then { s with sheets := { s.sheets with hold := true } }
  else if s.setup.high < total then { s with sheets := { s.sheets with hold := false } }
  else s

/-- The conditions of the stack return: every channel UNBOUND, no open queue, no search, no operation and
no discard list (R183, R92). -/
def State.returnConditions (s : State) : Bool :=
  s.cards.openQueue.isEmpty && s.cards.search.isNone &&
    s.chans.toList.all fun r => r.ctx.state == .unbound && r.op.isNone && r.discards.isEmpty

/-- A claim scan may run: RUNNING, or QUIESCING with the conditions of the stack return not yet holding
(R80). -/
def State.scanAllowed (s : State) : Bool :=
  s.regs.part == .running || (s.regs.part == .quiescing && !s.returnConditions)

/-- One of the events of R80 arrives. In IDLE it may start a scan; while a scan runs, a free or a RETURN
(`marks`) sets scan again. -/
def State.scanEvent (s : State) (marks : Bool) : State :=
  match s.sheets.scan with
  | .idle =>
    if s.scanAllowed && s.sheets.stack.length < Config.scanBelow then
      { s with sheets := { s.sheets with scan := .starting, examined := 0, scanAgain := false } }
    else s
  | _ => if marks then { s with sheets := { s.sheets with scanAgain := true } } else s

/-- The free tally rises, saturating at the sheet count (R87), and the hold is evaluated. -/
def State.raiseTally (s : State) (n : Nat) : State :=
  ({ s with sheets := { s.sheets with tally := min (s.sheets.tally + n) s.setup.sheetCount } }).evaluateHold

/-- A freed sheet: FREE with card byte 0, the tally, and perhaps a scan (R86). -/
def State.freeSheet (s : State) (who : Requester) (sheet : Nat) : State :=
  ((s.sendMapEntry who .mapWrite sheet mapFree 0).raiseTally 1).scanEvent true

/-- A sheet is freed by a block, after its header write if one is waiting (R86, R106, R110, R173). -/
def State.freeClosed (s : State) (who : Requester) (sheet : Nat) : State :=
  if s.headerOutstanding sheet then
    { s with sheets := { s.sheets with freeWait := s.sheets.freeWait ++ [{ who := who, sheet := sheet }] } }
  else s.freeSheet who sheet

/-- The sheet manager frees a dead sheet (R86). -/
def State.freeDead (s : State) (sheet : Nat) : State := s.freeClosed .sheetManager sheet

/-- The answers to a sheet request (R83). -/
inductive SheetAnswer where
  | sheet (n : Nat)
  | notYet
  | storageOut
  deriving DecidableEq, Repr

/-- A sheet leaves the top of the stack (R83): the total falls, and a scan may start. -/
def State.popStack (s : State) : State :=
  (({ s with sheets := { s.sheets with stack := s.sheets.stack.tail } }).evaluateHold).scanEvent false

/-- The answer to a sheet request by stack, scan state and storage out (R83). -/
def State.requestSheet (s : State) (q : SheetRequest) : SheetAnswer × State :=
  match s.sheets.stack with
  | top :: _ =>
    if s.sheets.waiting.isEmpty then (.sheet top, s.popStack)
    else (.notYet, { s with sheets := { s.sheets with waiting := s.sheets.waiting ++ [q] } })
  | [] =>
    if s.sheets.scan ≠ .idle ∧ s.sheets.storageOut = false then
      (.notYet, { s with sheets := { s.sheets with waiting := s.sheets.waiting ++ [q] } })
    else (.storageOut, s)

/-- A request leaves the waiting list unanswered (R83). -/
def State.withdrawRequest (s : State) (q : SheetRequest) : State :=
  { s with sheets := { s.sheets with waiting := s.sheets.waiting.filter (· != q) } }

/-- A sheet is some channel's current write sheet (R73). -/
def State.isCurrent (s : State) (sheet : Nat) : Bool :=
  s.chans.toList.any fun r => match r.sheet with
    | some w => w.sheet == sheet
    | none => false

/-- The live count of a sheet (R72). -/
def State.live (s : State) (sheet : Nat) : Nat := Count.get s.letters.live sheet

/-- A sheet closes: its header write joins the channel's queue behind its records (R173). -/
def State.closeSheet (s : State) (c : Chan) (w : WriteSheet) : State :=
  s.sendWrite (.channel c) (.headerWrite w.card w.sheet) (sheetSlotAddress s.setup w.sheet 0)
    (headerBytes (w.next - 1) w.card w.take)

/-- A sheet is given to a take or to its closing placements: AUDIO with the letter's card, next slot 1
(R84, R61). -/
def State.giveSheet (s : State) (c : Chan) (sheet : Nat) : State :=
  let x := (s.row c).ctx
  let card := (x.letter.map OpenLetter.card).getD 0
  let take := (x.letter.map OpenLetter.takes).getD 0 % 256
  let w : WriteSheet := { sheet := sheet, next := 1, card := card, take := take }
  (s.sendMapEntry .sheetManager .mapWrite sheet mapAudio card).modRow c fun r =>
    if x.state = .recording then { r with sheet := some w }
    else { r with placement := r.placement.map fun p => { p with closing := some w } }

end Sys2Proof.Machine
end

