-- ==== Sys2Proof/Machine/Takes.lean ====
section
/-! DEFINITION. Placement and the ends of takes (R14 to R17, R59 to R70): a record's way from the codec
through the write queue into the span list, overwrite removals, LOST records, and the closing placements
of a take that has ended. -/

namespace Sys2Proof.Machine

open Sys2Proof

/-! ### Overwrite removals (R67, R68, R73) -/

/-- The record table without a sheet's entries. -/
def dropSheet (table : List (Nat × RecordEntry)) (sheet : Nat) : List (Nat × RecordEntry) :=
  table.filter fun e => e.1 / 128 != sheet

/-- The record that begins at the cursor is removed: trimmed from its span, its table entry and live count
lowered, L and the removed frames moved; a dead sheet that is nobody's write sheet is freed (R68, R73). DESIGN
CHOICE (log 44): a count that is already 0, as a host write of R77 can leave it, stays 0, and each such removal
frees the sheet again. DESIGN CHOICE (log 58): the removed frames rise by the record table's count, L falls by
what the span loses. -/
def State.removeRecord (s : State) (c : Chan) : State :=
  let r := s.row c
  match (cutAt r.spanList r.ctx.cursor).2 with
  | [] => s
  | sp :: _ =>
    let f := slotFrames s.letters.records sp.sheet sp.first
    let count := s.live sp.sheet - 1
    let t := { s with letters := { s.letters with
      live := Count.set s.letters.live sp.sheet count,
      records := Table.erase s.letters.records (recordKey sp.sheet sp.first) } }
    let t := t.modRow c fun r => { r with
      spans := some (trimAt r.spanList r.ctx.cursor f),
      placement := r.placement.map fun p => { p with removed := p.removed + f } }
    if count = 0 ∧ ¬ s.isCurrent sp.sheet then
      ({ t with letters := { t.letters with records := dropSheet t.letters.records sp.sheet } }).freeDead
        sp.sheet
    else t

/-- In an OVERWRITE take, while the removed frames are below the recorded frames and the cursor is below L,
the record at the cursor is removed (R67, R69). Each removal takes at least one frame, so the fuel given is
the frames still to remove. -/
def State.overwrite (c : Chan) : Nat → State → State
  | 0, s => s
  | n + 1, s =>
    let r := s.row c
    match r.placement with
    | some p =>
      if p.mode = .overwrite ∧ p.removed < p.recorded ∧ r.ctx.cursor < r.length then
        State.overwrite c n (s.removeRecord c)
      else s
    | none => s

/-! ### Placing one record (R59 to R63) -/

/-- The sheet a record would go to: the current write sheet in a take, the closing sheet after it (R60). -/
def ChanRow.target (r : ChanRow) : Option WriteSheet :=
  if r.ctx.state = .recording then r.sheet else r.placement.bind Placement.closing

/-- The target while it has a next slot of 127 or below (R61, R70). -/
def ChanRow.usableTarget (r : ChanRow) : Option WriteSheet :=
  r.target.filter fun w => w.next ≤ Config.lastSlot

/-- A record going to `w` extends the span just before the cursor (R60). -/
def ChanRow.extendsSpan (r : ChanRow) (w : WriteSheet) : Bool :=
  match r.placement, (cutAt r.spanList r.ctx.cursor).1.getLast? with
  | some p, some sp =>
    p.spanOpen && sp.sheet == w.sheet && sp.first + sp.count == w.next &&
      sp.instruction == r.ctx.instruct
  | _, _ => false

/-- The oldest WAITING entry of a queue (R171). -/
def firstWaiting : List QueueEntry → Option Rec
  | [] => none
  | .waiting rec _ :: _ => some rec
  | _ :: rest => firstWaiting rest

/-- The oldest WAITING entry becomes READY, in its final form (R171). -/
def makeReady (final : Rec) (card sheet slot : Nat) : List QueueEntry → List QueueEntry
  | [] => []
  | .waiting .. :: rest => .ready final card sheet slot :: rest
  | e :: rest => e :: makeReady final card sheet slot rest

/-- The oldest WAITING entry leaves the queue, unwritten (R171). -/
def dropWaiting : List QueueEntry → List QueueEntry
  | [] => []
  | .waiting .. :: rest => rest
  | e :: rest => e :: dropWaiting rest

/-- The oldest WAITING entry leaves the queue where it is the voice record tied to the record before it
(R29). -/
def dropTied : List QueueEntry → List QueueEntry
  | [] => []
  | .waiting _ true :: rest => rest
  | .waiting rec false :: rest => .waiting rec false :: rest
  | e :: rest => e :: dropTied rest

/-- Every WAITING entry leaves the queue (R64). -/
def dropAllWaiting (q : List QueueEntry) : List QueueEntry :=
  q.filter fun e => match e with
    | .waiting .. => false
    | _ => true

/-- The LOST records not yet placed leave the queue: the count they carry was dropped (R15, R65; log 18). -/
def dropLostWaiting (q : List QueueEntry) : List QueueEntry :=
  q.filter fun e => match e with
    | .waiting rec _ => !rec.isLost
    | _ => true

/-- The frames of LOST records in the queue that are not yet placed (log 18). -/
def lostWaiting (q : List QueueEntry) : Nat :=
  (q.map fun e => match e with
    | .waiting rec _ => if rec.isLost then rec.frames else 0
    | _ => 0).sum

/-- Step 5 and 6 of R59: slot, tables, span list, cursor, write queue, header of a full sheet, and the
overwrite removals. DESIGN CHOICE (log 43): the live count of a sheet that a host write of R77 has given to two
letters rises past 127. -/
def State.placeInto (s : State) (c : Chan) (w : WriteSheet) (rec : Rec) (extend : Bool) : State :=
  let inTake : Bool := s.chanState c = .recording
  let w' : WriteSheet := { w with next := w.next + 1 }
  let t := s.modRow c fun r => { r with
    spans := some (addRecord r.spanList r.ctx.cursor w.sheet w.next rec.frames r.ctx.instruct extend),
    ctx := { r.ctx with cursor := r.ctx.cursor + rec.frames },
    placement := r.placement.map fun p => { p with
      recorded := p.recorded + rec.frames, spanOpen := true,
      closing := if inTake then p.closing else some w' },
    sheet := if inTake then some w' else r.sheet,
    queue := makeReady rec w.card w.sheet w.next r.queue }
  let t := { t with letters := {
    live := Count.set t.letters.live w.sheet (t.live w.sheet + 1),
    records := Table.put t.letters.records (recordKey w.sheet w.next) rec.entry } }
  let t := t.sendWrite (.channel c) (.recordWrite w.card w.sheet w.next)
    (sheetSlotAddress t.setup w.sheet w.next) rec.bytes
  let t := if w.next = Config.lastSlot then t.closeSheet c w' else t
  let fuel := match (t.row c).placement with
    | some p => p.recorded - p.removed
    | none => 0
  t.overwrite c fuel

/-- A placed LOST record lowers the pending lost count and raises LOST_AUDIO; where it was shortened the rest
of the count is dropped, with the LOST records that carry it (R15, R36, R65). -/
def State.countLost (s : State) (c : Chan) (rec : Rec) (shortened : Bool) : State :=
  if rec.isLost then
    (s.modRow c fun r => { r with
      codec := { r.codec with lost := if shortened then 0 else r.codec.lost - rec.frames },
      queue := if shortened then dropLostWaiting r.queue else r.queue }).raise c .lostAudio
  else s

/-- What becomes of a record at placement (R14). -/
inductive Placed where
  | placed (shortened : Bool)
  | held
  | discarded (why : Notice)
  deriving DecidableEq, Repr

/-- Steps 1 to 6 of R59 for the record at the head of placement. DESIGN CHOICE (log 47): a pause shortened at
step 1 and discarded at step 3 or 4 raises that step's notice alone. -/
def State.placeHead (s : State) (c : Chan) (rec : Rec) : Placed × State :=
  let r := s.row c
  match fitRecord r.length rec with
  | none => (.discarded .letterFull, s)
  | some (final, shortened) =>
    let extend := match r.usableTarget with
      | some w => r.extendsSpan w
      | none => false
    if !extend && Config.spanLimit ≤ r.spanList.length then (.discarded .spanFull, s)
    else match r.usableTarget with
      | some w => (.placed shortened, (s.placeInto c w final extend).countLost c final shortened)
      | none =>
        if s.sheets.waiting.contains (.take c) then (.held, s)
        else match s.requestSheet (.take c) with
          | (.notYet, t) => (.held, t)
          | (.storageOut, t) => (.discarded .storageOut, t)
          | (.sheet n, t) =>
            let t := t.giveSheet c n
            match (t.row c).usableTarget with
            | some w => (.placed shortened, (t.placeInto c w final false).countLost c final shortened)
            | none => (.held, t)

/-! ### The end of a take (R16, R70, R84) -/

/-- A take ends into SAVING, or into CLOSING: the current write sheet becomes the closing sheet, a pending
pause is flushed (R35), and a former write sheet without live records is freed (R84). -/
def State.endTake (s : State) (c : Chan) (sub : SubState) : State :=
  let former := (s.row c).sheet
  let t := s.modRow c fun r => { r with
    sheet := none,
    placement := r.placement.map fun p => { p with closing := r.sheet },
    flush := if 0 < r.codec.pending then some r.codec.pending else none,
    codec := { r.codec with silent := 0, pending := 0 },
    ctx := { r.ctx with state := .busy sub },
    op := some (if sub = .closing then .suspending .placing else .checkpoint .placing) }
  match former with
  | some w => if t.live w.sheet = 0 then t.freeDead w.sheet else t
  | none => t

/-- The record at the head of placement is discarded (R65): its entry goes, a LOST record empties the lost
count and takes the LOST records behind it along, the notice is raised, and a running take ends with the records
behind it discarded too. DESIGN CHOICE (log 57): where the record is no LOST one, the lost count stands although
LOST records behind it are discarded, and its frames are asked for again after the take. -/
def State.discardHead (s : State) (c : Chan) (rec : Rec) (why : Notice) : State :=
  let t := (s.modRow c fun r => { r with
    queue := if rec.isLost then dropLostWaiting (dropWaiting r.queue) else dropWaiting r.queue,
    codec := { r.codec with lost := if rec.isLost then 0 else r.codec.lost } }).raise c why
  if s.chanState c = .recording then
    (t.modRow c fun r => { r with queue := dropAllWaiting r.queue }).endTake c .saving
  else t

/-- A record shortened by the letter-full rule raises LETTER_FULL and ends a running take; the voice record of
the same codec result is discarded, its frame counted nowhere (R29, R63). DESIGN CHOICE (log 56): any other
record WAITING behind it stays, and is placed after the take. -/
def State.afterShortened (s : State) (c : Chan) : State :=
  let t := s.raise c .letterFull
  if s.chanState c = .recording then
    (t.modRow c fun r => { r with queue := dropTied r.queue }).endTake c .saving
  else t

/-- The channel's operation stands in the closing placements of an ended take (R17, R25). -/
def ChanRow.placing (r : ChanRow) : Bool :=
  match r.op with
  | some (.checkpoint .placing) => true
  | some (.suspending .placing) => true
  | _ => false

/-- The stage of the channel's operation moves on. -/
def CardOp.at (op : CardOp) (stage : OpStage) : CardOp :=
  match op with
  | .checkpoint _ => .checkpoint stage
  | .filing _ byOrder => .filing stage byOrder
  | .suspending _ => .suspending stage
  | other => other

def State.setStage (s : State) (c : Chan) (stage : OpStage) : State :=
  s.modRow c fun r => { r with op := r.op.map fun op => op.at stage }

/-- The closing placements are done: the closing sheet closes, unless its last slot closed it, and the
operation waits for the write queue to drain (R70, R173, R17). -/
def State.finishClosing (s : State) (c : Chan) : State :=
  let t := match (s.row c).placement.bind Placement.closing with
    | some w => if w.next ≤ Config.lastSlot then s.closeSheet c w else s
    | none => s
  t.setStage c .draining

/-- Frames of a record that found the write queue full, or frames pending as lost, join the pending lost count
(R14, R15, R36). -/
def State.loseFrames (s : State) (c : Chan) (frames : Nat) : State :=
  s.modRow c fun r => { r with codec := { r.codec with
    lost := min (r.codec.lost + frames) Config.letterLimit } }

/-- The flushed pause that may be handed to placement: after a take, with no frames pending as lost (R17,
R36). -/
def ChanRow.dueFlush (r : ChanRow) : Option Nat :=
  if r.placing && r.codec.lost == 0 then r.flush else none

/-- The flushed pause is handed to placement: it enters the write queue, or its frames are lost where the queue
is full (R15, R59). -/
def State.handFlush (s : State) (c : Chan) (frames : Nat) : State :=
  let t := s.modRow c fun r => { r with flush := none }
  if (s.row c).queue.length < Config.writeQueueLimit then
    t.modRow c fun r => { r with queue := r.queue ++ [.waiting (.pause frames false) false] }
  else t.loseFrames c frames

/-- The channel's placement goes on as far as it can: LOST records are asked for into the room of the write
queue (R15, R36); after a take the flushed pause is handed to placement once the lost count is 0, its frames lost
where the queue is full, even while a record is held (R17, R59, R64; log 17); the oldest WAITING record is placed,
held or discarded; and with none left the closing placements are done. -/
def State.settle (c : Chan) : Nat → State → State
  | 0, s => s
  | n + 1, s =>
    let r := s.row c
    let lost := r.codec.lost - lostWaiting r.queue
    let room : Bool := r.queue.length < Config.writeQueueLimit
    let working : Bool := r.ctx.state = .recording || r.placing
    if working && 0 < lost && room then
      State.settle c n (s.modRow c fun r => { r with
        queue := r.queue ++ [.waiting (.pause (min lost 255) true) false] })
    else match r.dueFlush, firstWaiting r.queue with
      | some frames, _ => State.settle c n (s.handFlush c frames)
      | none, some rec =>
        match s.placeHead c rec with
        | (.held, t) => t
        | (.discarded why, t) => State.settle c n (t.discardHead c rec why)
        | (.placed shortened, t) => State.settle c n (if shortened then t.afterShortened c else t)
      | none, none => if r.placing && r.codec.lost == 0 then s.finishClosing c else s

/-- Placement runs to rest. At most 4 waiting entries, 4 LOST records and one flushed pause pass, and a pause
flushed into a full queue is lost. -/
def State.settled (s : State) (c : Chan) : State := State.settle c 32 s

/-- A record is handed to placement during a take (R14, R15, R59): lost while frames are pending as lost or
the write queue is full, else it enters the queue, tied to the record before it in its codec result where it has
one (R29); either way placement goes on, LOST records asked for into the room of the queue (R36). -/
def State.offer (s : State) (c : Chan) (rec : Rec) (tied : Bool) : State :=
  let r := s.row c
  if 0 < r.codec.lost ∨ Config.writeQueueLimit ≤ r.queue.length then
    (s.loseFrames c rec.frames).settled c
  else (s.modRow c fun r => { r with queue := r.queue ++ [.waiting rec tied] }).settled c

/-- The records of one codec result, in order; once one has ended the take the rest are discarded (R29). -/
def State.offerAll (s : State) (c : Chan) (tied : Bool) : List Rec → State
  | [] => s
  | rec :: rest =>
    if s.chanState c = .recording then (s.offer c rec tied).offerAll c true rest else s

/-- A take ends by any cause but DISCARD, and its closing placements run (R16, R17). -/
def State.stopTake (s : State) (c : Chan) (sub : SubState) : State := (s.endTake c sub).settled c

/-- The held record of a channel is given a sheet by a claim (R64, R83). -/
def State.serveTake (s : State) (c : Chan) (sheet : Nat) : State := (s.giveSheet c sheet).settled c

/-- A waiting sheet request of a take is answered "storage out" (R64): the held record and each behind it
are discarded, a running take ends, and closing placements go on. -/
def State.refuseTake (s : State) (c : Chan) : State :=
  let r := s.row c
  let lost := if 0 < lostWaiting r.queue then 0 else r.codec.lost
  let t := (s.modRow c fun r => { r with
    queue := dropAllWaiting r.queue, codec := { r.codec with lost := lost } }).raise c .storageOut
  (if s.chanState c = .recording then t.endTake c .saving else t).settled c

/-! ### The start of a take (R13, R56 to R58) -/

/-- RECORD's checks and start: hold, letter full, span room; then mode, split, placement record, codec
state and take count. A failed check raises its notice and starts nothing. -/
def State.startTake (s : State) (c : Chan) : State :=
  let r := s.row c
  if s.sheets.hold then s.raise c .storageHold
  else if ¬ r.length < Config.letterLimit then s.raise c .letterFull
  else if !spanRoom r.spanList r.ctx.cursor then s.raise c .spanFull
  else
    let mode := takeMode r.spanList r.ctx.cursor r.ctx.insert
    s.modRow c fun r => { r with
      spans := some (if mode = .append then r.spanList
        else splitAt s.letters.records r.spanList r.ctx.cursor),
      placement := some { mode := mode, recorded := 0, removed := 0, spanOpen := false, closing := none },
      codec := PauseRun.reset,
      flush := none,
      ctx := { r.ctx with
        state := .recording,
        letter := r.ctx.letter.map fun l => { l with takes := min (l.takes + 1) 65535 } } }

/-! ### Playback (R20 to R22, R172) -/

/-- The read-ahead is emptied: reads still waiting are removed, reads granted complete into nothing
(R172). -/
def State.emptyAhead (s : State) (c : Chan) : State :=
  let mine := fun a : Access => a.who == .channel c &&
    (match a.purpose with | .playbackRead _ => true | _ => false)
  ({ s with engine := { s.engine with
      waiting := s.engine.waiting.filter fun a => !mine a,
      flight := s.engine.flight.map fun a =>
        if mine a then { a with purpose := .playbackRead false } else a } }).modRow c
    fun r => { r with ahead := [], began := false }

/-- The position after the last record asked for, or the play position. -/
def ChanRow.askPosition (r : ChanRow) : Nat :=
  match r.ahead.getLast? with
  | some p => p.start + p.frames
  | none => r.ctx.playPos.getD 0

/-- Records are asked for in letter order while the read-ahead has a place and one lies before L (R20). DESIGN CHOICE
(log 66): where no record of the table contains the position, as after a host write of R77, none is asked for. -/
def State.askPlayback (c : Chan) : Nat → State → State
  | 0, s => s
  | n + 1, s =>
    let r := s.row c
    if r.ahead.length < Config.readAheadLimit ∧ r.askPosition < r.length then
      match locate s.letters.records r.spanList r.askPosition with
      | some p =>
        State.askPlayback c n ((s.modRow c fun r => { r with ahead := r.ahead ++ [p] }).sendRead
          (.channel c) (.playbackRead true) (sheetSlotAddress s.setup p.sheet p.slot))
      | none => s
    else s

/-- PLAYING is entered, or begun again, at a position (R20, R22). -/
def State.playFrom (s : State) (c : Chan) (p : Nat) : State :=
  State.askPlayback c Config.readAheadLimit
    ((s.emptyAhead c).modCtx c fun x => { x with state := .playing, cursor := p, playPos := some p })

/-- Output may begin: two records ready, or every record from the play position to L (R20). -/
def ChanRow.mayBegin (r : ChanRow) : Bool :=
  2 ≤ r.ahead.countP (fun p => p.data.isSome) ||
    (r.ahead.all (fun p => p.data.isSome) && r.askPosition == r.length)

/-- Playback stops before L: read-ahead emptied, the cursor at the start of the record that was playing,
the channel READY (R21). -/
def State.stopPlayback (s : State) (c : Chan) : State :=
  let r := s.row c
  (s.emptyAhead c).modCtx c fun x => { x with
    state := .ready, playPos := none,
    cursor := snap s.letters.records r.spanList (r.ctx.playPos.getD r.ctx.cursor) }

/-- Playback ends with the cursor at L (R21, R22). -/
def State.endPlayback (s : State) (c : Chan) : State :=
  let l := (s.row c).length
  (s.emptyAhead c).modCtx c fun x => { x with state := .ready, playPos := none, cursor := l }

end Sys2Proof.Machine
end

