-- ==== Sys2Proof/Machine/Letters.lean ====
section
/-! DEFINITION. What a channel does with a letter as a whole (R9 to R12, R25 to R27, R55, R99, R100, R106,
R107): opening, filing, discarding, suspending, unbinding, and the pending actions taken when it leaves
BUSY. The claim scan's examining stands here too, since a claim serves waiting openings and takes. -/

namespace Sys2Proof.Machine

open Sys2Proof

/-! ### Hand-over and discard (R55, R12, R71, R106) -/

/-- A letter leaves the letter store: its sheet list, its live counts set to 0 and table entries removed
without notification, its span list absent (R55). -/
def State.handOff (s : State) (c : Chan) : List Nat × State :=
  let sheets := sheetList (s.row c).spanList
  let t := { s with letters := {
    live := sheets.foldl (fun table n => Count.set table n 0) s.letters.live,
    records := s.letters.records.filter fun e => !sheets.contains (e.1 / 128) } }
  (sheets, t.modRow c fun r => { r with spans := none })

/-- DISCARD's end of a running take: the current write sheet closes, held and waiting records and the
codec's pending frames are dropped, the placement record goes (R12, R71, R64, R173). DESIGN CHOICE (log 45): the
write sheet's live count is not tested here, so a sheet of count 0 (R77) is freed by the discard alone. -/
def State.dropTake (s : State) (c : Chan) : State :=
  let r := s.row c
  let t := match r.sheet with
    | some w => if w.next ≤ Config.lastSlot then s.closeSheet c w else s
    | none => s
  (t.withdrawRequest (.take c)).modRow c fun r => { r with
    sheet := none, placement := none, codec := PauseRun.reset, flush := none,
    queue := dropAllWaiting r.queue }

/-- The letter is handed to the card unit for discard and the channel is IDLE at once, with DISCARDED (R12,
R106). -/
def State.discardLetter (s : State) (c : Chan) : State :=
  match (s.row c).ctx.letter with
  | none => s
  | some l =>
    let t := match s.chanState c with
      | .recording => s.dropTake c
      | .playing => s.emptyAhead c
      | _ => s
    let (sheets, t) := t.handOff c
    let index := ((s.image l.card).map Card.index).getD 0
    let t := (t.setHolding l.card (.discarding c)).modRow c fun r => { r with
      discards := r.discards ++ [{ card := l.card, index := index, sheets := sheets }],
      ctx := { r.ctx with letter := none, cursor := 0, playPos := none, state := .idle } }
    t.raise c .discarded

/-! ### Opening (R9, R100) -/

/-- A letter is opened: refused under the storage hold, else an open request joins the open queue (R9,
R99). -/
def State.openLetter (s : State) (c : Chan) (cause : OpenCause) : State :=
  if s.sheets.hold then s.raise c .storageHold
  else
    let t := s.modRow c fun r => { r with
      ctx := { r.ctx with openRequest := some cause }, op := some (.opening none) }
    { t with cards := { t.cards with openQueue := t.cards.openQueue ++ [c] } }

/-- An outstanding open request is withdrawn, its card and sheet request released (R100). DESIGN CHOICE (log 71): a read
of its search that still waits for its grant keeps its place in the queue, is granted, and completes into nothing. -/
def State.withdrawOpen (s : State) (c : Chan) : State :=
  if (s.row c).ctx.openRequest.isNone then s
  else
    let searching : Bool := match s.cards.search with
      | some q => q.channel == c
      | none => false
    let t := if searching then s.abandon (fun p => p == .searchRead) else s
    let t := { t with cards := { t.cards with
      openQueue := t.cards.openQueue.filter (· != c),
      search := if searching then none else t.cards.search } }
    let t := t.withdrawRequest (.index c)
    let t := match (s.row c).op with
      | some (.opening (some card)) => t.endHolding card
      | _ => t
    t.modRow c fun r => { r with op := none, ctx := { r.ctx with openRequest := none } }

/-! ### Suspending, unbinding, pending actions (R25 to R27) -/

/-- The letter of a READY channel is to be suspended: CLOSING, the key queue emptied (R25, R107). -/
def State.suspend (s : State) (c : Chan) : State :=
  s.modRow c fun r => { r with
    ctx := { r.ctx with state := .busy .closing, keys := [] }, op := some (.suspending .draining) }

/-- A timeslot's input side takes the owner none and loses its line (R113). -/
def State.releaseInput (s : State) (t : Option Timeslot) : State :=
  match t with
  | none => s
  | some t => { s with inputs := s.inputs.set t { s.inputs[t] with owner := none, line := none, good := 0 } }

/-- A timeslot's output side takes the owner none; the frame being sent is completed (R113, R120). -/
def State.releaseOutput (s : State) (t : Option Timeslot) : State :=
  match t with
  | none => s
  | some t => { s with outputs := s.outputs.set t { s.outputs[t] with owner := none } }

/-- The channel is unbound: every field at its reset value, both timeslots released, an open request
withdrawn, a STATION CLOSE finished DONE with the two values, a pending file refused (R25, R1, R138). DESIGN CHOICE
(log 64): of the two finishing writes the STATION CLOSE's is handed over, and numbered, first. The write queue and
the discard list, which are other blocks' work for the channel, go on (R183). -/
def State.unbind (s : State) (c : Chan) (first second : Nat) : State :=
  let x := (s.row c).ctx
  let t := ((s.withdrawOpen c).releaseInput x.inSlot).releaseOutput x.outSlot
  let t := t.modRow c fun r => { r with
    ctx := Context.reset, codec := PauseRun.reset, flush := none, placement := none, sheet := none,
    ahead := [], began := false, op := none }
  let t := match x.pendingClose with
    | some k => t.finish k codeDone first second
    | none => t
  match x.pendingFile with
  | some k => t.finish k codeRefusedChannelState 0 0
  | none => t

/-- A close, or quiesce, acts on a channel that is not BUSY (R25, R27): a take or playback ends and the
letter is suspended through CLOSING, or an IDLE channel is unbound. -/
def State.actClose (s : State) (c : Chan) : State :=
  match s.chanState c with
  | .recording => ((s.modCtx c fun x => { x with keys := [] }).stopTake c .closing)
  | .playing => (s.stopPlayback c).suspend c
  | .ready => s.suspend c
  | .idle => s.unbind c 0 0
  | _ => s

/-- The letter of a READY channel is filed (R11): discarded where L is 0, else FILING. `byOrder` tells that
a pending file began it, whose order is then answered (R26, R138). -/
def State.fileNow (s : State) (c : Chan) (byOrder : Bool) : State :=
  let r := s.row c
  if r.length = 0 then
    let t := s.discardLetter c
    match byOrder, r.ctx.pendingFile with
    | true, some k =>
      (t.modCtx c fun x => { x with pendingFile := none }).finish k codeDiscardedEmpty
        ((r.ctx.letter.map OpenLetter.card).getD 0) 0
    | _, _ => t
  else s.modRow c fun r => { r with
    ctx := { r.ctx with state := .busy .filing }, op := some (.filing .draining byOrder) }

/-- A pending file acts on a channel that is not BUSY (R26). -/
def State.actFile (s : State) (c : Chan) : State :=
  match s.chanState c with
  | .recording => s.stopTake c .saving
  | .playing => (s.stopPlayback c).fileNow c true
  | .ready => s.fileNow c true
  | .idle =>
    match (s.row c).ctx.pendingFile with
    | some k =>
      (s.modCtx c fun x => { x with pendingFile := none }).finish k codeRefusedChannelState 0 0
    | none => s
  | _ => s

/-- The channel has left BUSY: a pending close acts first, then a pending file (R6), then quiesce (R27). -/
def State.leaveBusy (s : State) (c : Chan) : State :=
  let x := (s.row c).ctx
  if x.pendingClose.isSome then s.actClose c
  else
    let t := if x.pendingFile.isSome then s.actFile c else s
    if t.regs.part = .quiescing then t.actClose c else t

/-- The answers to an open request (R9). -/
inductive OpenAnswer where
  | card (n : Nat)
  | noCard
  | storageOut
  deriving DecidableEq, Repr

/-- The open request is answered (R9, R100): a card makes the channel READY with an empty letter, and a
RECORD goes on to its take; a refusal leaves it IDLE with the notice. Under quiesce no take starts and the
channel winds down (R27). -/
def State.answerOpen (s : State) (c : Chan) (a : OpenAnswer) : State :=
  let cause := (s.row c).ctx.openRequest
  let t := s.modRow c fun r => { r with op := none, ctx := { r.ctx with openRequest := none } }
  let t := match a with
    | .noCard => t.raise c .noCard
    | .storageOut => t.raise c .storageOut
    | .card n =>
      (t.setHolding n (.held c)).modRow c fun r => { r with
        spans := some [],
        ctx := { r.ctx with
          letter := some { card := n, priority := r.ctx.defaultPriority, takes := 0 },
          cursor := 0, state := .ready } }
  if t.regs.part = .quiescing then t.actClose c
  else match a, cause with
    | .card _, some .record => t.startTake c
    | _, _ => t

/-- The opening obtains its index sheet: INDEX in the map, the card image, the whole-card write, and the
answer (R100). -/
def State.openWithSheet (s : State) (c : Chan) (sheet : Nat) : State :=
  match (s.row c).op with
  | some (.opening (some card)) =>
    let x := (s.row c).ctx
    let image : Card :=
      { state := cardOpen, writing := false, damaged := false, channel := c.val, author := x.author,
        priority := x.defaultPriority, index := sheet, spanCount := 0, length := 0,
        instructionFrames := 0, lostFrames := 0, clipped := 0, takes := 0, sequence := 0 }
    let t := s.sendMapEntry .cardUnit .mapWrite sheet mapIndex card
    ((t.setImage card image).writeCard card image .plain).answerOpen c (.card card)
  | _ => s

/-- The opening is answered STORAGE_OUT and its card released unwritten (R100). -/
def State.openWithoutSheet (s : State) (c : Chan) : State :=
  let t := match (s.row c).op with
    | some (.opening (some card)) => s.endHolding card
    | _ => s
  t.answerOpen c .storageOut

/-! ### The claim scan's examining (R80, R82, R83, R89) -/

/-- The scan asks for the line that holds the claim cursor (R80). -/
def State.readScanLine (s : State) : State :=
  ({ s with sheets := { s.sheets with scan := .reading } }).sendRead .sheetManager .scanRead
    (mapLineAddress s.setup (s.sheets.cursor / 32))

/-- A claimed sheet goes to the oldest waiting request, if there is one (R80, R83). -/
def State.serveClaim (s : State) : State :=
  match s.sheets.waiting, s.sheets.stack with
  | q :: rest, top :: _ =>
    let t := ({ s with sheets := { s.sheets with waiting := rest } }).popStack
    match q with
    | .take c => t.serveTake c top
    | .index c => t.openWithSheet c top
  | _, _ => s

/-- A FREE entry is claimed (R80, R87, R89): CLAIMED handed over, the sheet pushed, the tally lowered,
storage out left, and a waiting request served. -/
def State.claim (s : State) (sheet : Nat) : State :=
  let t := s.sendMapEntry .sheetManager .mapWrite sheet mapClaimed 0
  (({ t with sheets := { t.sheets with
      stack := sheet :: t.sheets.stack, tally := t.sheets.tally - 1, examined := 0,
      storageOut := false } }).evaluateHold).serveClaim

/-- A waiting request is answered "storage out" (R82). -/
def State.refuseRequest (s : State) : SheetRequest → State
  | .take c => s.refuseTake c
  | .index c => s.openWithoutSheet c

/-- The scan ends (R82): IDLE, storage out if the stack is empty, and again if scan again was set. -/
def State.endScan (s : State) : State :=
  let waiting := s.sheets.waiting
  let again := s.sheets.scanAgain
  let t := { s with sheets := { s.sheets with scan := .idle, scanAgain := false } }
  let t :=
    if s.sheets.stack.isEmpty then
      waiting.foldl State.refuseRequest
        { t with sheets := { t.sheets with storageOut := true, waiting := [] } }
    else t
  if again then t.scanEvent false else t

/-- The entries of a line are examined in turn from sheet number `sheet` on, `n` of them left (R80). -/
def State.examine (line : List Byte) : Nat → Nat → State → State
  | 0, _, s => s.readScanLine
  | n + 1, sheet, s =>
    if Config.stackLimit ≤ s.sheets.stack.length then s.endScan
    else
      let t := { s with sheets := { s.sheets with
        cursor := if sheet + 1 = s.setup.sheetCount then 0 else sheet + 1 } }
      if mapStateAt line (sheet % 32) = mapFree then State.examine line n (sheet + 1) (t.claim sheet)
      else
        let t := { t with sheets := { t.sheets with examined := t.sheets.examined + 1 } }
        if s.setup.sheetCount ≤ t.sheets.examined then t.endScan
        else State.examine line n (sheet + 1) t

end Sys2Proof.Machine
end

