-- ==== Sys2Proof/Machine/PartOps.lean ====
section
/-! DEFINITION. The operations by which the part as a whole starts, sweeps, winds down and is reset: resets
(R184), the start sweep's beginning (R179), sweeps and the taking of an order (R131 to R133), the stop of
the active render (R155), the beginning of quiesce (R183), and writes of CONTROL (R177, R178). -/

namespace Sys2Proof.Machine

open Sys2Proof

/-! ### Resets (R184, R176) -/

/-- The bytes of writes granted and not complete at a reset: each may have been performed or not, but for those
that a later-granted write, complete by then, has put there (R176, R170). -/
def forgetFlight (m : List Host.Cell) (flight : List Access) : List Host.Cell :=
  flight.foldl (fun m a => match a.action with
    | .write bytes => Memory.forget a.settledAt m a.address bytes.length
    | .read _ => m) m

/-- Power-on reset: every register and all state at its reset value. The frame being sent completes (R120);
the waiting commands, the count of MSIs and host memory are outside the part (log 7, log 10, log 12). -/
def State.coldReset (s : State) : State :=
  { State.reset with
    pending := s.pending,
    outputs := s.outputs.map fun o => { o with owner := none },
    written := forgetFlight s.written s.engine.flight,
    msi := s.msi }

/-- Soft reset: as a cold reset, but EXCHANGE_LO and EXCHANGE_HI keep their values. -/
def State.softReset (s : State) : State :=
  { s.coldReset with
    regs := { Registers.reset with exchangeLo := s.regs.exchangeLo, exchangeHi := s.regs.exchangeHi } }

/-! ### The start sweep begins (R179) -/

/-- STARTING: the counters of R179 are reset, the exchange base is read (R177), and the four line reads of
the setup record are handed over. -/
def State.beginStart (s : State) : State :=
  let base := exchangeBase s.regs
  let t : State := { s with
    regs := { s.regs with part := .starting },
    base := base,
    sweep := { StartSweep.reset with phase := .setup },
    desk := { DeskUnit.reset with pacing := s.desk.pacing },
    orders := { s.orders with finishCounter := 0#32, finishedCount := 0#32 },
    sheets := { s.sheets with cursor := 0, tally := 0, hold := false, storageOut := false },
    cards := { s.cards with roll := [], cursor := 0 },
    stackReturned := false }
  let read := fun (t : State) (line : Nat) (last : Bool) =>
    t.sendRead .startSweep (.setupRead last) (setupLineAddress base line)
  read (read (read (read t 0 false) 1 false) 2 false) 3 true

/-! ### Sweeps (R131, R132) -/

/-- A sweep is asked for: it starts, or sweep again is set (R131). -/
def State.requestSweep (s : State) : State :=
  if s.regs.part = .running then
    if s.orders.sweep = .idle then { s with orders := { s.orders with sweep := .requested } }
    else { s with orders := { s.orders with again := true } }
  else s

/-- A slot of the sweep image. -/
def OrderUnit.slotData (o : OrderUnit) (k : OrderSlot) : List Byte := (o.image.getD []).getD k.val []

/-- The order in slot k is taken: no table entry, not finished in this sweep, POSTED in the image (R132). -/
def OrderUnit.takes (o : OrderUnit) (k : OrderSlot) : Bool :=
  o.accepted[k].isNone && !o.finishedSet.contains k && slotState (o.slotData k) == slotPosted

/-- A sweep ends: the image goes, and a further sweep starts where sweep again was set (R131, R132). -/
def State.endSweep (s : State) : State :=
  { s with orders := { s.orders with
    image := none, again := false, sweep := if s.orders.again then .requested else .idle } }

/-- The sweep goes on from slot number `first` to the next slot whose order is taken, or ends (R132). -/
def State.sweepOn (s : State) (first : Nat) : State :=
  match (List.finRange 32).find? (fun k => first ≤ k.val && s.orders.takes k) with
  | some k => { s with orders := { s.orders with sweep := .acting k } }
  | none => s.endSweep

/-- An order command acts on the slot the running sweep stands at, if its kind is the command's (R133;
log 6). The sweep then goes on, unless the order waits for the read of a card. -/
def State.takeOrder (s : State) (kind : Nat → Bool) (body : OrderSlot → List Byte → State) : State :=
  match s.regs.part, s.orders.sweep with
  | .running, .acting k =>
    let data := s.orders.slotData k
    if kind (slotKind data) then
      let t := body k data
      if t.orders.sweep = .acting k then t.sweepOn (k.val + 1) else t
    else s
  | _, _ => s

/-- Under quiesce a sweep ends at once: its reads complete into nothing, sweep again is cleared (R131). DESIGN
CHOICE (log 61): its reads that still wait for their grant keep their places and are granted. -/
def State.cutSweep (s : State) : State :=
  let t := s.abandon fun p => match p with
    | .slotRead _ => true
    | .orderCardRead => true
    | _ => false
  { t with orders := { t.orders with sweep := .idle, again := false, image := none } }

/-! ### Renders (R148, R155) -/

/-- A render context as it is made when the render becomes active (R148). -/
def freshRender (slot : OrderSlot) (order : RenderOrder) : RenderContext :=
  { slot := slot, order := order, stage := .card, index := 0, spanCount := 0, line := 0, spans := [],
    start := 0, finish := 0, position := 0, nextIndex := 0, askSpan := 0, askIndex := 0, ahead := [],
    decode := none, total := 0, handed := 0, written := 0, failed := none, stop := false,
    truncated := false }

/-- Reads of the render in flight or waiting complete into nothing (R154, R155). DESIGN CHOICE (log 53): those
still waiting keep their places in the queue and are granted. -/
def State.dropRenderReads (s : State) : State :=
  s.abandon fun p => match p with
    | .renderCardRead _ => true
    | .renderIndexRead => true
    | .renderRecordRead .. => true
    | _ => false

/-- The stop by stage (R155). In OUTPUT the record being handed over is finished: zero frames left over
behind it are no part of it unless they are themselves being handed over. -/
def RenderContext.stopped (x : RenderContext) : RenderContext :=
  match x.stage with
  | .output =>
    match x.decode with
    | some d =>
      let tail := if d.inTail then d.tail else 0
      { x with stop := true, ahead := [], decode := some { d with tail := tail } }
    | none => { x with stop := true, ahead := [], stage := .draining }
  | _ => { x with stop := true, ahead := [], decode := none, stage := .draining }

/-- The active render, first of the queue, is asked to stop (R146, R147, R155). One whose context is not
yet made has handed nothing over and drains at once (log 25). -/
def State.stopRender (s : State) : State :=
  match s.render, s.orders.renders with
  | some x, _ => { s.dropRenderReads with render := some x.stopped }
  | none, k :: _ =>
    match s.orders.accepted[k] with
    | some (.render order) => { s with render := some (freshRender k order).stopped }
    | _ => s
  | none, [] => s

/-! ### Quiesce begins (R183, R27, R147, R131) -/

/-- Renders under quiesce: those waiting are answered CANCELLED with values 0, the active one is stopped (R147).
DESIGN CHOICE (log 62): the answers are handed over, and take their finish numbers, in queue order. -/
def State.quiesceRenders (s : State) : State :=
  match s.orders.renders with
  | [] => s
  | first :: rest =>
    let t := { s with orders := { s.orders with renders := [first] } }
    (rest.foldl (fun t k => t.finish k codeCancelled 0 0) t).stopRender

/-- The part enters QUIESCING: sweeps stop, renders are cancelled, and every channel that is not BUSY winds
down, in channel order (log 36). -/
def State.beginQuiesce (s : State) : State :=
  let t := { s with regs := { s.regs with part := .quiescing } }
  (List.finRange 32).foldl State.actClose (t.cutSweep.quiesceRenders)

/-! ### Writes of CONTROL (R177, R178) -/

/-- A write of CONTROL: SOFT_RESET resets; else ENABLE and INT_ENABLE take their bits, and a change of
ENABLE starts the part in DISABLED or begins the quiesce in RUNNING (R178). -/
def State.writeControl (s : State) (value : Word) : State :=
  if softResetBit value then s.softReset
  else
    let t : State := { s with regs := { s.regs with
      enable := enableBit value, intEnable := intEnableBit value } }
    if s.regs.part = .disabled ∧ ¬ s.regs.enable ∧ enableBit value then s.report t.beginStart
    else if s.regs.part = .running ∧ s.regs.enable ∧ ¬ enableBit value then s.report t.beginQuiesce
    else t

end Sys2Proof.Machine
end

