-- ==== Sys2Proof/Machine/SheetSteps.lean ====
section
/-! DEFINITION. The sheet manager's own steps (R80, R92). -/

namespace Sys2Proof.Machine

open Sys2Proof

/-- CLAIM_SCAN_START (R80): a scan that an event has started asks for its first line. -/
def execClaimScanStart (s : State) : Host.Outcome State Fault Refusal :=
  done s (if s.works ∧ s.sheets.scan = .starting then s.readScanLine else s)

/-- A map line of the scan is examined from the claim cursor to the end of the line or the last entry
(R80). -/
def State.examineLine (s : State) (line : List Byte) : State :=
  let cursor := s.sheets.cursor
  State.examine line (min (32 * (cursor / 32 + 1)) s.setup.sheetCount - cursor) cursor s

/-- MAP_LINE_READ_COMPLETE (R80). -/
def execMapLineReadComplete (data : List Byte) (s : State) : Host.Outcome State Fault Refusal :=
  done s (s.onComplete .sheetManager (· == .scanRead) fun _ t => t.examineLine data)

/-- One sheet of the stack returned: FREE in the map, the tally up by one as the stack goes down (R92, R90).
-/
def State.returnOne (s : State) (sheet : Nat) : State :=
  (({ s with sheets := { s.sheets with stack := s.sheets.stack.tail } }).sendMapEntry .sheetManager
    .mapWrite sheet mapFree 0).raiseTally 1

/-- The stack is returned from the top down, and storage out cleared (R92). -/
def State.returnStack (s : State) : State :=
  let t := s.sheets.stack.foldl State.returnOne s
  { t with sheets := { t.sheets with stack := [], storageOut := false }, stackReturned := true }

/-- STACK_RETURN (R92, R183): in QUIESCING, once, when the conditions hold and no scan runs. -/
def execStackReturn (s : State) : Host.Outcome State Fault Refusal :=
  done s (if s.regs.part = .quiescing ∧ s.returnConditions ∧ s.sheets.scan = .idle ∧ ¬ s.stackReturned
    then s.returnStack else s)

end Sys2Proof.Machine
end

