-- ==== Sys2Proof/Machine/CardSteps.lean ====
section
/-! DEFINITION. The card unit's steps but for the reopen (R99 to R107): card searches, checkpoints, filing,
suspension and discards. -/

namespace Sys2Proof.Machine

open Sys2Proof

/-! ### Card searches (R99, R100) -/

/-- The search asks for the first line of the card at the claim cursor (R99). -/
def State.readSearchCard (s : State) : State :=
  s.sendRead .cardUnit .searchRead (cardLineAddress s.setup s.cards.cursor 0)

/-- A search starts for the oldest open request (R99). -/
def State.startSearch (s : State) : State :=
  match s.cards.search, s.cards.openQueue with
  | none, c :: rest =>
    ({ s with cards := { s.cards with
        search := some { channel := c, examined := 0 }, openQueue := rest } }).readSearchCard
  | _, _ => s

/-- CARD_SEARCH_START (R99). -/
def execCardSearchStart (s : State) : Host.Outcome State Fault Refusal :=
  done s (if s.works then s.startSearch else s)

/-- The search has taken a card: held OPENING, and a sheet asked for its index (R99, R100). -/
def State.takeCard (s : State) (c : Chan) (card : Nat) : State :=
  let t := { s with cards := { s.cards with search := none } }
  let t := (t.setHolding card (.opening c)).setOp c (some (.opening (some card)))
  match t.requestSheet (.index c) with
  | (.sheet n, u) => u.openWithSheet c n
  | (.notYet, u) => u
  | (.storageOut, u) => u.openWithoutSheet c

/-- A searched card's first line: the cursor moves on, and the card is taken, or the search goes on, or it
has examined every card (R99). -/
def State.searchCard (s : State) (q : Search) (line : List Byte) : State :=
  let card := s.cards.cursor
  let next := if card + 1 < s.setup.cardCount then card + 1 else 0
  let t := { s with cards := { s.cards with cursor := next } }
  if byteAt line 0 = cardVacant ∧ (Table.get s.cards.holdings card).isNone then t.takeCard q.channel card
  else if q.examined + 1 < s.setup.cardCount then
    ({ t with cards := { t.cards with
        search := some { channel := q.channel, examined := q.examined + 1 } } }).readSearchCard
  else
    ({ t with cards := { t.cards with search := none } }).answerOpen q.channel .noCard

/-- CARD_SEARCH_READ_COMPLETE (R99). -/
def execCardSearchReadComplete (line : List Byte) (s : State) : Host.Outcome State Fault Refusal :=
  done s (s.onComplete .cardUnit (· == .searchRead) fun _ t =>
    match t.cards.search with
    | some q => t.searchCard q line
    | none => t)

/-! ### Checkpoints (R101, R54) -/

/-- The channel's operation stands at a stage (R95). -/
def ChanRow.atStage (r : ChanRow) (stage : OpStage) : Bool :=
  match r.op with
  | some (.checkpoint x) => x == stage
  | some (.filing x _) => x == stage
  | some (.suspending x) => x == stage
  | _ => false

/-- The open letter of a channel with its card image. -/
def State.letterImage (s : State) (c : Chan) : Option (OpenLetter × Card) :=
  match (s.row c).ctx.letter with
  | none => none
  | some l => (s.image l.card).map fun image => (l, image)

/-- The checkpoint's first stage: the image WRITING, its first line written (R101). -/
def State.beginCheckpoint (s : State) (c : Chan) : State :=
  match s.letterImage c with
  | none => s
  | some (l, image) =>
    if s.cardWriteRunning l.card then s
    else
      let image := { image with writing := true }
      ((s.setImage l.card image).setStage c .writing).sendWrite .cardUnit (.cardWriting c)
        (cardLineAddress s.setup l.card 0) (cardFirstLine image)

/-- CHECKPOINT_BEGIN (R101, R17): due once the write queue has drained (R172), and no write of the card is
in progress (R102; log 19). -/
def execCheckpointBegin (c : Chan) (s : State) : Host.Outcome State Fault Refusal :=
  done s (if s.works ∧ (s.row c).atStage .draining ∧ s.drained c then s.beginCheckpoint c else s)

/-- The card image with a checkpoint's figures (R101, R54). -/
def checkpointImage (image : Card) (l : OpenLetter) (spans : List Span)
    (records : List (Nat × RecordEntry)) : Card :=
  { image with
    writing := false, spanCount := spans.length, length := lengthOf spans,
    instructionFrames := instructionFrames spans, lostFrames := lostFrames records spans,
    clipped := clippedRecords records spans, priority := l.priority, takes := l.takes }

/-- The checkpoint's third stage: the whole card VALID (R101). DESIGN CHOICE (log 70): the figures are computed here, of
the record table as it then is, and not as the checkpoint begins. -/
def State.writeValid (s : State) (c : Chan) : State :=
  match s.letterImage c with
  | none => s
  | some (l, image) =>
    let image := checkpointImage image l (s.row c).spanList s.letters.records
    ((s.setImage l.card image).setStage c .valid).writeCard l.card image (.checkpoint c)

/-- The index lines of a checkpoint, `n` of them from line `line` on (R101). -/
def State.writeIndex (c : Chan) (sheet : Nat) (spans : List Span) : Nat → Nat → State → State
  | 0, _, s => s
  | n + 1, line, s =>
    State.writeIndex c sheet spans n (line + 1)
      (s.sendWrite .cardUnit (.indexWrite c (n == 0)) (sheetSlotAddress s.setup sheet line)
        (indexLineBytes spans line))

/-- The checkpoint's second stage: the span entries, or the third stage at once where there are none
(R101). -/
def State.indexStage (s : State) (c : Chan) : State :=
  match s.letterImage c with
  | none => s
  | some (_, image) =>
    let spans := (s.row c).spanList
    if spans.isEmpty then s.writeValid c
    else State.writeIndex c image.index spans (indexLineCount spans.length) 0 (s.setStage c .index)

/-- CHECKPOINT_WRITING_WRITTEN (R101). -/
def execCheckpointWritingWritten (c : Chan) (s : State) : Host.Outcome State Fault Refusal :=
  done s (s.onComplete .cardUnit (· == .cardWriting c) fun _ t => t.indexStage c)

/-- INDEX_LINES_WRITTEN (R101). -/
def execIndexLinesWritten (c : Chan) (s : State) : Host.Outcome State Fault Refusal :=
  done s (s.onComplete .cardUnit (· == .indexWrite c true) fun _ t => t.writeValid c)

/-- The VACANT first line of a discard has been handed over: the holding ends, the index sheet and the sheets
are freed in order, each after its header write if one is waiting, and the letter is off the list (R106, R96,
R173; log 49). -/
def State.endDiscard (s : State) (c : Chan) (card : Nat) : State :=
  match (s.row c).discards.find? fun d => d.card == card with
  | none => s
  | some d =>
    ((d.index :: d.sheets).foldl (fun t n => t.freeClosed .cardUnit n) (s.endHolding card)).modRow c
      fun r => { r with discards := r.discards.erase d }

/-- The first line of a card write follows its body; a discard then goes on (R97, R106). DESIGN CHOICE (log 63):
that of a card whose reopen failed follows also once quiesce has ended, at the card base as the part then keeps it.
-/
def State.writeFirst (s : State) (card : Nat) (firstLine : List Byte) (ends : CardWrite) : State :=
  let write := fun (e : CardWrite) =>
    s.sendWrite .cardUnit (.cardFirst card e) (cardLineAddress s.setup card 0) firstLine
  match ends with
  | .discarded c => (write .plain).endDiscard c card
  | _ => write ends

/-- CARD_BODY_WRITTEN (R97): the three lines have completed and the first line is handed over, in any state of the part
(`writeFirst`; log 63). -/
def execCardBodyWritten (s : State) : Host.Outcome State Fault Refusal :=
  done s (s.onComplete .cardUnit
      (fun p => match p with
        | .cardBody _ _ _ last => last
        | _ => false)
      fun a t => match a.purpose with
        | .cardBody card firstLine ends _ => t.writeFirst card firstLine ends
        | _ => t)

/-- A first line that ends a card write of this kind. -/
def endsCard (ends : CardWrite) : Purpose → Bool
  | .cardFirst _ e => e == ends
  | _ => false

/-- The FILED map writes of a filing or suspension: sheets in order, the last marked (R103, R107). -/
def State.writeFiled (c : Chan) (card : Nat) : List Nat → State → State
  | [], s => s
  | sheet :: rest, s =>
    State.writeFiled c card rest
      (s.sendMapEntry .cardUnit (.filedWrite c rest.isEmpty) sheet mapFiled card)

/-- A checkpoint has completed (R101): SAVING ends in READY, its placement record removed (R17, R56), a filing
or suspension goes on to its sheets (R103, R107). -/
def State.checkpointDone (s : State) (c : Chan) : State :=
  match (s.row c).op with
  | some (.checkpoint _) =>
    (s.modRow c fun r => { r with
      op := none, placement := none, ctx := { r.ctx with state := .ready } }).leaveBusy c
  | _ =>
    match s.letterImage c with
    | none => s
    | some (l, image) =>
      State.writeFiled c l.card (image.index :: sheetList (s.row c).spanList) (s.setStage c .filed)

/-- CHECKPOINT_COMPLETE (R101). -/
def execCheckpointComplete (c : Chan) (s : State) : Host.Outcome State Fault Refusal :=
  done s (s.onComplete .cardUnit (endsCard (.checkpoint c)) fun _ t => t.checkpointDone c)

/-! ### Filing and suspension (R103 to R105, R107) -/

/-- The number after a filing sequence (R103, R104). -/
def nextSequence (n : Nat) : Nat := if n = 4294967295 then 1 else n + 1

/-- Steps 3 and 4: a filing takes its number, and the card is written FILED, or SUSPENDED without a number
(R103, R107). -/
def State.writeLastCard (s : State) (c : Chan) : State :=
  match s.letterImage c, (s.row c).op with
  | some (l, image), some (.filing ..) =>
    let n := nextSequence s.cards.sequence
    let image := { image with state := cardFiled, sequence := n }
    let t := { s with cards := { s.cards with sequence := n } }
    ((t.setImage l.card image).setStage c .card).writeCard l.card image (.filed c)
  | some (l, image), some (.suspending _) =>
    let image := { image with state := cardSuspended }
    ((s.setImage l.card image).setStage c .card).writeCard l.card image (.suspended c)
  | _, _ => s

/-- FILED_WRITES_COMPLETE (R103). -/
def execFiledWritesComplete (c : Chan) (s : State) : Host.Outcome State Fault Refusal :=
  done s (s.onComplete .cardUnit (· == .filedWrite c true) fun _ t => t.writeLastCard c)

/-- The roll with an entry added at the tail, the oldest of 16 removed first (R105). -/
def rollWith (roll : List RollEntry) (e : RollEntry) : List RollEntry :=
  (if Config.rollLimit ≤ roll.length then roll.tail else roll) ++ [e]

/-- The opening of a NEW whose filing has ended, if the channel stands in IDLE (R10). -/
def State.openNext (s : State) (c : Chan) : State :=
  let t := s.modCtx c fun x => { x with openAfter := false }
  if (s.row c).ctx.openAfter ∧ s.chanState c = .idle ∧ s.regs.part = .running then t.openLetter c .new
  else t

/-- A filing completes: roll, hand-over, holding, report, IDLE with FILED, the order's answer, then what
waits for the channel, and the opening of a NEW (R103, R105, R11, R26, R10). -/
def State.filingDone (s : State) (c : Chan) : State :=
  match s.letterImage c with
  | none => s
  | some (l, image) =>
    let byOrder : Bool := match (s.row c).op with
      | some (.filing _ b) => b
      | _ => false
    let t := { s with cards := { s.cards with
      roll := rollWith s.cards.roll { card := l.card, sequence := image.sequence, priority := l.priority } } }
    let t := ((t.handOff c).2.endHolding l.card).modRow c fun r => { r with
      op := none, ctx := { r.ctx with letter := none, cursor := 0, state := .idle } }
    let t := (t.raise c .filed).reportFiling l.priority
    let t := match byOrder, (s.row c).ctx.pendingFile with
      | true, some k =>
        (t.modCtx c fun x => { x with pendingFile := none }).finish k codeDone l.card image.sequence
      | _, _ => t
    (t.leaveBusy c).openNext c

/-- FILING_COMPLETE (R103). -/
def execFilingComplete (c : Chan) (s : State) : Host.Outcome State Fault Refusal :=
  done s (s.onComplete .cardUnit (endsCard (.filed c)) fun _ t => t.filingDone c)

/-- A suspension completes: hand-over, holding, and the channel is unbound (R107, R25, R137). -/
def State.suspensionDone (s : State) (c : Chan) : State :=
  match (s.row c).ctx.letter with
  | none => s
  | some l =>
    let length := (s.row c).length
    (((s.handOff c).2.endHolding l.card).unbind c (l.card + 1) length)

/-- SUSPENSION_COMPLETE (R107). -/
def execSuspensionComplete (c : Chan) (s : State) : Host.Outcome State Fault Refusal :=
  done s (s.onComplete .cardUnit (endsCard (.suspended c)) fun _ t => t.suspensionDone c)

/-! ### Discards (R106) -/

/-- The discard of the letter on this card is under way: its VACANT first line is still to be handed over. -/
def State.discarding (s : State) (card : Nat) : Bool :=
  s.outstanding fun p => match p with
    | .cardBody n _ (.discarded _) _ => n == card
    | _ => false

/-- No record of the letter remains in the channel's write queue and no header write of its sheets is waiting or
in flight, whatever channel wrote it (R106, R172, R77). -/
def State.discardReady (s : State) (c : Chan) (d : Discard) : Bool :=
  let card := d.card
  !s.discarding card && !(d.index :: d.sheets).any s.headerOutstanding &&
  !((s.row c).queue.any fun e => match e with
      | .waiting .. => false
      | .ready _ n _ _ => n == card
      | .writing _ n _ _ => n == card) &&
    !((s.engine.waiting ++ s.engine.flight).any fun a => a.who == .channel c && (match a.purpose with
      | .headerWrite n _ => n == card
      | .recordWrite n _ _ => n == card
      | _ => false))

/-- The discard of a letter begins: its card image is VACANT and the whole-card write is handed over, body
first; with its first line the rest of the discard follows (R106, R97). DESIGN CHOICE (log 49): until then the letter
stays in the list beyond the 5 of R106, which count those that wait. -/
def State.performDiscard (s : State) (c : Chan) (d : Discard) : State :=
  match s.image d.card with
  | some image =>
    let image := { image with state := cardVacant }
    (s.setImage d.card image).writeCard d.card image (.discarded c)
  | none => s.endDiscard c d.card

/-- DISCARD_PERFORM (R106): the oldest letter of the list that is ready. -/
def execDiscardPerform (c : Chan) (s : State) : Host.Outcome State Fault Refusal :=
  done s (match (s.row c).discards.find? fun d => s.discardReady c d with
    | some d => if s.works then s.performDiscard c d else s
    | none => s)

end Sys2Proof.Machine
end

