-- ==== Sys2Proof/Machine/Desk.lean ====
section
/-! DEFINITION. The desk write (R160 to R162, R165, R166), and what its completion ends: the start (R178,
R182) and the quiesce (R183). -/

namespace Sys2Proof.Machine

open Sys2Proof

/-- A write of a line of the desk block, from an offset of it (R161). -/
def State.sendDesk (s : State) (purpose : Purpose) (line : Nat) (bytes : List Byte) : State :=
  s.sendWrite .deskUnit purpose (deskLineAddress s.base line) bytes

/-- Sampling: the generation rises, the figures are taken, changed and the counts are cleared, and the
opening generation is handed over (R160 to R162). -/
def State.sample (s : State) : State :=
  let generation := s.desk.generation + 1#32
  let lines := deskLines s generation
  ({ s with desk := { s.desk with
      generation := generation, lines := lines, changed := false, finishes := 0#32, filings := 0#32,
      writing := true, requested := false, finalRunning := s.desk.finalAsked } }).sendDesk .deskOpening 0
    (bytesOf 4 generation.toNat)

/-- DESK_WRITE_BEGIN (R165): a write requested in IDLE samples and begins. -/
def execDeskWriteBegin (s : State) : Host.Outcome State Fault Refusal :=
  .next (if s.active ∧ s.desk.requested ∧ ¬ s.desk.writing then s.sample else s)

/-- Lines `line` to 10 handed over in ascending order, `n` of them (R161). -/
def State.sendBody : Nat → Nat → State → State
  | 0, _, s => s
  | n + 1, line, s =>
    State.sendBody n (line + 1) (s.sendDesk (.deskBody (n == 0)) line (s.desk.lines.getD line []))

/-- DESK_OPENING_WRITTEN (R161): lines 1 to 10 follow. -/
def execDeskOpeningWritten (s : State) : Host.Outcome State Fault Refusal :=
  done s (s.onComplete .deskUnit (· == .deskOpening) fun _ t => State.sendBody 10 1 t)

/-- DESK_BODY_WRITTEN (R161): line 0 follows, with both generations. -/
def execDeskBodyWritten (s : State) : Host.Outcome State Fault Refusal :=
  done s (s.onComplete .deskUnit (· == .deskBody true) fun _ t =>
    t.sendDesk .deskHeader 0 (t.desk.lines.headD []))

/-- The MSI rule of a completed write (R166). -/
def State.applyMsi (s : State) : State :=
  if s.regs.intEnable ∧ s.desk.armed then
    { s with desk := { s.desk with armed := false }, msi := s.msi + 1 }
  else s

/-- Entering RUNNING (R178, R182): the hold is evaluated, and a claim scan starts (R90, R80). -/
def State.enterRunning (s : State) : State :=
  ({ s with regs := { s.regs with part := .running } }).evaluateHold.scanEvent false

/-- The start sweep's write has completed: the pacing count is 0, and the part RUNNING, or QUIESCING where
ENABLE has been cleared (R178, R182). -/
def State.endStart (s : State) : State :=
  let t := { s with sweep := StartSweep.reset, desk := { s.desk with pacing := 0 } }
  if s.regs.enable then t.enterRunning else t.beginQuiesce

/-- The final write has completed: DISABLED, and at once STARTING again where ENABLE is set (R178, R165). -/
def State.endQuiesce (s : State) : State :=
  let t := { s with
    regs := { s.regs with part := .disabled },
    desk := { s.desk with again := false, requested := false, finalAsked := false, finalRunning := false } }
  if s.regs.enable then t.beginStart else t

/-- Write again set at a completion: a new write begins at once (R165; log 3). -/
def State.writeAgain (s : State) : State :=
  if s.desk.again then { s with desk := { s.desk with again := false, requested := true } } else s

/-- The write of line 0 completes: latest generation, IDLE, the MSI rule, write again, in that order; then
the end of the start or of quiesce (R161, R165, R166, R178). DEDUCED (log 67): the MSI of generation 1 leaves the
part disarmed in RUNNING (R166), although R182 calls the desk unit armed there. -/
def State.deskComplete (s : State) : State :=
  let final := s.desk.finalRunning
  let t := { s with desk := { s.desk with latest := s.desk.generation, writing := false } }
  let t := t.applyMsi
  match s.regs.part with
  | .starting => t.writeAgain.endStart
  | .quiescing => if final then t.endQuiesce else t.writeAgain
  | _ => t.writeAgain

/-- DESK_WRITE_COMPLETE (R161). -/
def execDeskWriteComplete (s : State) : Host.Outcome State Fault Refusal :=
  done s (s.onComplete .deskUnit (· == .deskHeader) fun _ t => t.deskComplete)

/-- The work of quiesce is done (R183): the stack returned, every accepted order given its finishing write,
that is, both parts of every finishing write complete (R128, R134; DEDUCED, log 28), every write queue drained.
DESIGN CHOICE (log 63): the write-back of a card whose reopen failed is not waited for. -/
def State.quiesceDone (s : State) : Bool :=
  s.stackReturned && s.orders.accepted.toList.all Option.isNone && s.orders.renders.isEmpty &&
    !s.outstanding Purpose.isFinish && (List.finRange 32).all s.drained

/-- QUIESCE_WORK_DONE (R183, R165): the final desk write is asked for, once. -/
def execQuiesceWorkDone (s : State) : Host.Outcome State Fault Refusal :=
  .next (if s.regs.part = .quiescing ∧ s.quiesceDone ∧ ¬ s.desk.finalAsked then
    ({ s with desk := { s.desk with finalAsked := true } }).requestDesk else s)

end Sys2Proof.Machine
end

