-- ==== Sys2Proof/Machine/RenderOps.lean ====
section
/-! DEFINITION. The shared operations of the active render (08_rendering.md): its range and walk over the
span copy, its reads, the handing over of frames, and its endings. -/

namespace Sys2Proof.Machine

open Sys2Proof

/-! ### The span copy (R149 to R151) -/

/-- An entry of the index sheet passes the tests of R149. -/
def spanPasses (sheetCount : Nat) (sp : Span) : Bool :=
  sp.sheet < sheetCount && 1 ≤ sp.first && sp.first ≤ 127 && 1 ≤ sp.count && sp.count ≤ 127 &&
    sp.first + sp.count - 1 ≤ 127 && 1 ≤ sp.frames && sp.frames ≤ 32385

/-- A span of this kind is output (R151). -/
def Selection.picks : Selection → Span → Bool
  | .speech, sp => !sp.instruction
  | .instruction, sp => sp.instruction
  | .both, _ => true

/-- Letter position at which span i of a copy begins (R150). -/
def spanStart (spans : List Span) (i : Nat) : Nat := lengthOf (spans.take i)

/-- The span that holds a position, by its place in the copy. -/
def spanHolding (spans : List Span) (p : Nat) : Option Nat :=
  (List.range spans.length).find? fun i => p < spanStart spans (i + 1)

/-- Selected positions from `first` up to `last` (R151, R154). -/
def selectedFrames (spans : List Span) (selection : Selection) (first last : Nat) : Nat :=
  ((List.range spans.length).map fun i =>
    match spans[i]? with
    | some sp =>
      if selection.picks sp then
        min last (spanStart spans i + sp.frames) - max first (spanStart spans i)
      else 0
    | none => 0).sum

/-- The end E of the range (R150). -/
def rangeEnd (order : RenderOrder) (length : Nat) : Nat :=
  if order.count = 0 then length else min (order.start + order.count) length

/-- The frames the buffer holds (R153). -/
def RenderContext.capacity (x : RenderContext) : Nat := x.order.length / Config.frameBytes

/-! ### Reads (R149, R151) -/

def State.setRender (s : State) (x : RenderContext) : State := { s with render := some x }

/-- The four lines of the card are asked for (R149). -/
def State.readRenderCard (s : State) (card : Nat) : State :=
  let read := fun (t : State) (line : Nat) (last : Bool) =>
    t.sendRead .render (.renderCardRead last) (cardLineAddress s.setup card line)
  read (read (read (read s 0 false) 1 false) 2 false) 3 true

/-- A line of the index sheet is asked for (R149). -/
def State.readRenderIndex (s : State) (x : RenderContext) : State :=
  (s.setRender x).sendRead .render .renderIndexRead (sheetSlotAddress s.setup x.index x.line)

/-- A record of the copy is asked for: record `index` of span `span` (R151, R50). -/
def State.askRecord (s : State) (x : RenderContext) (span index : Nat) (sp : Span) : State :=
  (s.setRender { x with
      ahead := x.ahead ++ [{ span := span, index := index, data := none }] }).sendRead .render
    (.renderRecordRead span index) (sheetSlotAddress s.setup sp.sheet (sp.first + index))

/-- The next span from place i on that is selected and begins below E, or none. -/
def RenderContext.nextSpan (x : RenderContext) (i : Nat) : Option Nat :=
  (List.range x.spans.length).find? fun j =>
    i ≤ j && (match x.spans[j]? with
      | some sp => x.order.selection.picks sp && decide (spanStart x.spans j < x.finish)
      | none => false)

/-- The least position at which record `index` of span `span` can begin: each record not yet read covers at
least one position, the records read cover what they decode to, and the record being walked begins at the
position reached (log 23). -/
def RenderContext.leastStart (x : RenderContext) (span index : Nat) : Nat :=
  let known := (x.ahead.map fun p =>
    if p.span = span ∧ p.index < index then
      (match p.data with
       | some data => framesOf data
       | none => 1)
    else 0).sum
  let walked := if spanHolding x.spans x.position = some span then x.position else spanStart x.spans span
  walked + known

/-- Record `index` of span `span` begins at its least start: every earlier record of the span has been read
(R152; log 23). -/
def RenderContext.startKnown (x : RenderContext) (span index : Nat) : Bool :=
  x.ahead.all fun p => p.span != span || decide (index ≤ p.index) || p.data.isSome

/-- Record `index` of span `span` begins below E: its start is known to, or it must, since each of the span's
records from it on covers a position of the span (R151; log 23). -/
def RenderContext.beginsBelowEnd (x : RenderContext) (span index : Nat) (sp : Span) : Bool :=
  decide (x.leastStart span index < x.finish) &&
    (x.startKnown span index ||
      decide (spanStart x.spans span + sp.frames < x.finish + (sp.count - index)))

/-- Records are asked for in letter order while the read-ahead has a place and the next is sure to begin below E
and can begin within its span; where that turns on a record not yet read, asking waits for it (R151; log 23).
-/
def State.askRender : Nat → State → State
  | 0, s => s
  | n + 1, s =>
    match s.render with
    | none => s
    | some x =>
      if Config.readAheadLimit ≤ x.ahead.length then s
      else
        match x.nextSpan x.askSpan with
        | none => s
        | some j =>
          match x.spans[j]? with
          | none => s
          | some sp =>
            let index := if j = x.askSpan then x.askIndex else 0
            if index < sp.count ∧ x.leastStart j index < spanStart x.spans j + sp.frames then
              if x.beginsBelowEnd j index sp then
                State.askRender n (s.askRecord { x with askSpan := j, askIndex := index + 1 } j index sp)
              else s
            else State.askRender n (s.setRender { x with askSpan := j + 1, askIndex := 0 })

/-- Fuel for asking: the places of the read-ahead and the spans passed over. -/
def State.askOn (s : State) : State := State.askRender (Config.readAheadLimit + Config.spanLimit + 1) s

/-! ### Handing over (R153, R154, R174) -/

/-- The writes of a frame: its bytes cut at the 64-byte boundaries, `room` bytes left in the first line
(R174). -/
def frameWrites : Nat → Nat → Nat → List Byte → List (Nat × List Byte)
  | 0, _, _, _ => []
  | n + 1, address, room, bytes =>
    if bytes.isEmpty then []
    else (address, bytes.take room) :: frameWrites n (address + room) 64 (bytes.drop room)

/-- The parts of frame i of a buffer (R153, R174). -/
def bufferWrites (buffer i : Nat) (bytes : List Byte) : List (Nat × List Byte) :=
  let address := hostAddress buffer (Config.frameBytes * i)
  frameWrites 6 address (64 - address % 64) bytes

/-- The writes join the render requester's queue in ascending order, the last one marked (R174). -/
def State.sendFrame (frame : Nat) : List (Nat × List Byte) → State → State
  | [], s => s
  | (address, bytes) :: rest, s =>
    State.sendFrame frame rest
      (s.sendWrite .render (.renderWrite frame rest.isEmpty) (address % Config.addressSpace) bytes)

/-- The render enters DRAINING: nothing more is decoded, read or handed over (R154 to R156). -/
def State.drainRender (s : State) (truncated : Bool) : State :=
  match s.render with
  | none => s
  | some x =>
    { s.dropRenderReads with render := some { x with
        stage := .draining, ahead := [], decode := none, truncated := truncated } }

/-- The frame to hand over next and the decode state left after it (R152, R153). -/
def Decode.next (d : Decode) : Option (List Sample × Decode) :=
  match d.voice, d.zeros, d.tail with
  | some samples, _, _ => some (samples, { d with voice := none })
  | none, n + 1, _ => some (zeroSamples, { d with zeros := n })
  | none, 0, n + 1 => some (zeroSamples, { d with tail := n, inTail := true })
  | none, 0, 0 => none

/-- After a frame: the range done, or the buffer full with more to come, ends the output (R154). -/
def State.settleHanded (s : State) : State :=
  match s.render with
  | none => s
  | some x =>
    if x.stage = .output then
      if x.handed = x.total then s.drainRender false
      else if x.handed = x.capacity then s.drainRender true
      else s
    else s

/-- The memory engine has taken what was handed over: the next frame of the record goes, or the decode state
empties and a stopped render drains (R46, R155; log 24). -/
def State.handOn (s : State) : State :=
  match s.render with
  | none => s
  | some x =>
    match x.stage, x.decode with
    | .output, some d =>
      match d.next with
      | some (samples, rest) =>
        (State.sendFrame x.handed (bufferWrites x.order.buffer x.handed (sampleBytes samples))
          (s.setRender { x with decode := some rest, handed := x.handed + 1 })).settleHanded
      | none =>
        if x.stop then s.drainRender false else s.setRender { x with decode := none }
    | _, _ => s

end Sys2Proof.Machine
end

