-- ==== Sys2Proof/Machine/Render.lean ====
section
/-! DEFINITION. The steps of the active render (R148 to R156, R46). -/

namespace Sys2Proof.Machine

open Sys2Proof

/-! ### Activation (R148) -/

/-- The first of the queue becomes active, where no render is, and reads its card (R148, R149). -/
def State.activateRender (s : State) : State :=
  match s.render, s.orders.renders with
  | none, k :: _ =>
    match s.orders.accepted[k] with
    | some (.render order) => (s.setRender (freshRender k order)).readRenderCard order.card
    | _ => s
  | _, _ => s

/-- RENDER_ACTIVATE (R148). -/
def execRenderActivate (s : State) : Host.Outcome State Fault Refusal :=
  done s (if s.works then s.activateRender else s)

/-! ### Card and index sheet (R149, R150) -/

/-- OUTPUT begins at span j with S fixed (R151). -/
def State.beginOutput (s : State) (x : RenderContext) : State :=
  let total := selectedFrames x.spans x.order.selection x.start x.finish
  if total = 0 then (s.setRender { x with total := 0 }).drainRender false
  else (s.setRender { x with stage := .output, total := total }).askOn

/-- The range is fixed, and SEEK or OUTPUT begins, or the empty range drains (R150, R151). A start frame on the
first position of a selected span needs no SEEK read: its first record begins there. -/
def State.fixRange (s : State) (x : RenderContext) : State :=
  let finish := rangeEnd x.order (lengthOf x.spans)
  let x := { x with finish := finish }
  if finish ≤ x.order.start then (s.setRender x).drainRender false
  else
    match spanHolding x.spans x.order.start with
    | none => (s.setRender x).drainRender false
    | some j =>
      match x.spans[j]? with
      | none => (s.setRender x).drainRender false
      | some sp =>
        if x.order.selection.picks sp ∧ x.order.start = spanStart x.spans j then
          s.beginOutput { x with
            start := x.order.start, position := x.order.start, askSpan := j, askIndex := 0 }
        else if x.order.selection.picks sp then
          (s.setRender { x with
              stage := .seek, position := spanStart x.spans j, askSpan := j, askIndex := 1 }).sendRead
            .render (.renderRecordRead j 0) (sheetSlotAddress s.setup sp.sheet sp.first)
        else
          let next := (x.nextSpan (j + 1)).getD x.spans.length
          s.beginOutput { x with
            start := x.order.start, position := spanStart x.spans next, askSpan := next, askIndex := 0 }

/-- The card has been read: index sheet and span count, nothing else (R149). -/
def State.takeRenderCard (s : State) (x : RenderContext) (data : List Byte) : State :=
  let card := cardOf data
  let count := min card.spanCount Config.spanLimit
  let x := { x with index := card.index, spanCount := count, line := 0 }
  if s.setup.sheetCount ≤ card.index ∨ count = 0 then s.fixRange x
  else s.readRenderIndex { x with stage := .index }

/-- RENDER_CARD_READ_COMPLETE (R149). -/
def execRenderCardReadComplete (data : List Byte) (s : State) : Host.Outcome State Fault Refusal :=
  done s (s.onComplete .render (· == .renderCardRead true) fun _ t =>
    match t.render with
    | some x => if x.stage = .card then t.takeRenderCard x data else t
    | none => t)

/-- The entries of a line that pass the tests join the span copy; after the last line the range is fixed
(R149, R150). One line is asked for at a time (DESIGN CHOICE, log 22). -/
def State.takeRenderLine (s : State) (x : RenderContext) (data : List Byte) : State :=
  let entries := (List.range (min 8 (x.spanCount - 8 * x.line))).map (spanAt data)
  let x := { x with spans := x.spans ++ entries.filter (spanPasses s.setup.sheetCount) }
  if x.line + 1 < indexLineCount x.spanCount then s.readRenderIndex { x with line := x.line + 1 }
  else s.fixRange x

/-- RENDER_INDEX_READ_COMPLETE (R149). -/
def execRenderIndexReadComplete (data : List Byte) (s : State) : Host.Outcome State Fault Refusal :=
  done s (s.onComplete .render (· == .renderIndexRead) fun _ t =>
    match t.render with
    | some x => if x.stage = .index then t.takeRenderLine x data else t
    | none => t)

/-! ### Records (R151, R152) -/

/-- A record read in SEEK: it contains the start frame and OUTPUT begins with it first in the read-ahead, its
bytes kept (DESIGN CHOICE, log 54); or the next record begins at the start frame, which is S, and OUTPUT begins
with asking for it; or the start frame lies among the zero frames after the span's last record; or the next
record is read. DESIGN CHOICE (log 72): where SEEK ends among the zero frames, the reads with which OUTPUT begins join
the render's queue before the writes of the first zero frame. -/
def State.seekRecord (s : State) (x : RenderContext) (span index : Nat) (data : List Byte) : State :=
  match x.spans[span]? with
  | none => s
  | some sp =>
    let after := x.position + framesOf data
    let last := spanStart x.spans span + sp.frames
    if x.order.start < after then
      s.beginOutput { x with
        start := x.position, ahead := [{ span := span, index := index, data := some data }],
        askSpan := span, askIndex := index + 1 }
    else if sp.count ≤ index + 1 then
      (s.beginOutput { x with
        start := after, position := last, askSpan := span + 1, askIndex := 0,
        decode := some { voice := none, zeros := 0, tail := min last x.finish - after, inTail := true }
        }).handOn
    else if x.order.start = after then
      s.beginOutput { x with start := after, position := after, askSpan := span, askIndex := index + 1 }
    else
      (s.setRender { x with position := after, askIndex := index + 2 }).sendRead .render
        (.renderRecordRead span (index + 1)) (sheetSlotAddress s.setup sp.sheet (sp.first + index + 1))

/-- The oldest place without its record takes it. -/
def fillPlace (data : List Byte) : List RenderPlace → List RenderPlace
  | [] => []
  | p :: rest => if p.data.isNone then { p with data := some data } :: rest else p :: fillPlace data rest

/-- RENDER_RECORD_READ_COMPLETE (R151): SEEK goes on, or the read-ahead takes the record, after which a further
record can be known to begin below E (log 23). -/
def execRenderRecordReadComplete (data : List Byte) (s : State) : Host.Outcome State Fault Refusal :=
  done s (s.onComplete .render
      (fun p => match p with
        | .renderRecordRead .. => true
        | _ => false)
      fun a t =>
    match t.render, a.purpose with
    | some x, .renderRecordRead span index =>
      match x.stage with
      | .seek => t.seekRecord x span index data
      | .output => (t.setRender { x with ahead := fillPlace data x.ahead }).askOn
      | _ => t
    | _, _ => t)

/-! ### Decoding (R46, R152, R153) -/

/-- Reads of the later records of a span, past its end, are given up with their places (R152; log 23). DESIGN CHOICE
(log 53): those still waiting for their grant keep their places in the queue and are granted. -/
def State.dropStale (s : State) (x : RenderContext) (span : Nat) : State × RenderContext :=
  let stale := fun p : RenderPlace => p.span == span
  (s.abandon fun p => match p with
      | .renderRecordRead n _ => n == span
      | _ => false,
    { x with
      ahead := x.ahead.filter fun p => !stale p,
      askSpan := max x.askSpan (span + 1), askIndex := if x.askSpan ≤ span then 0 else x.askIndex })

/-- The record at the front is decoded whole, one operation: its frames within range and span, and the zero
frames left over behind a span's last record, wait in the decode state, and the first is handed over. -/
def State.decodeRecord (s : State) (x : RenderContext) (place : RenderPlace) (data : List Byte) : State :=
  match x.spans[place.span]? with
  | none => s
  | some sp =>
    let first := max x.position (spanStart x.spans place.span)
    let last := spanStart x.spans place.span + sp.frames
    let after := first + framesOf data
    let inRange := min (min after last) x.finish - first
    let tail := if sp.count ≤ place.index + 1 then min last x.finish - after else 0
    let d : Decode :=
      if isPause data then { voice := none, zeros := inRange, tail := tail, inTail := false }
      else { voice := if 0 < inRange then some (toSamples (decodeVoice data)) else none, zeros := 0,
             tail := tail, inTail := false }
    let x := { x with
      ahead := x.ahead.tail, decode := some d,
      position := if sp.count ≤ place.index + 1 then last else min after last }
    let (t, x) := if last ≤ x.position then s.dropStale x place.span else (s, x)
    (({ t with codec := { t.codec with renderLeft := t.codec.renderLeft - 1 } }).setRender x).askOn.handOn

/-- RENDER_OPERATION (R46): in OUTPUT, with share left in this frame, the record before it taken, and the
next record read. -/
def execRenderOperation (s : State) : Host.Outcome State Fault Refusal :=
  done s (match s.render with
    | some x =>
      match x.stage, x.decode, x.ahead with
      | .output, none, place :: _ =>
        match place.data with
        | some data =>
          if s.works && decide (0 < s.codec.renderLeft) then s.decodeRecord x place data else s
        | none => s
      | _, _, _ => s
    | none => s)

/-! ### Buffer writes and the end (R153, R154, R156) -/

def Purpose.isRenderWrite : Purpose → Bool
  | .renderWrite .. => true
  | _ => false

/-- A frame whose last write completes counts as written unless it or a lower frame has failed (R153). -/
def State.frameWritten (s : State) (frame : Nat) : State :=
  match s.render with
  | none => s
  | some x =>
    let counts : Bool := match x.failed with
      | some n => decide (frame < n)
      | none => true
    if counts then s.setRender { x with written := frame + 1 } else s

/-- RENDER_BUFFER_WRITE_COMPLETE (R153). -/
def execRenderBufferWriteComplete (s : State) : Host.Outcome State Fault Refusal :=
  done s (s.onComplete .render Purpose.isRenderWrite fun a t =>
    match a.purpose with
    | .renderWrite frame true => t.frameWritten frame
    | _ => t)

/-- A frame has failed: the lowest is kept, and the render drains (R156). -/
def State.frameFailed (s : State) (frame : Nat) : State :=
  match s.render with
  | none => s
  | some x =>
    let failed := match x.failed with
      | some n => min n frame
      | none => frame
    (s.setRender { x with failed := some failed }).drainRender x.truncated

/-- RENDER_BUFFER_WRITE_FAILED (R156, R174): the bytes of the failed write are not known, but for those that a
later-granted write, complete or in flight, has put there (R170; log 7). -/
def execRenderBufferWriteFailed (s : State) : Host.Outcome State Fault Refusal :=
  done s (match s.complete .render Purpose.isRenderWrite with
    | none => s
    | some (a, t) =>
      let t := { t with written := forgetFlight t.written [a.under (grantedAfter .render s.engine.flight)] }
      match t.regs.part, a.purpose with
      | .faulted, _ => t
      | _, .renderWrite frame _ => t.frameFailed frame
      | _, _ => t)

/-- The answer of a drained render (R154 to R156). -/
def RenderContext.answer (x : RenderContext) : Nat :=
  if x.stop then codeCancelled
  else if x.failed.isSome then codeBufferFault
  else if x.truncated then codeTruncated
  else codeDone

/-- The drained render is answered and leaves the queue (R154). -/
def State.endRender (s : State) (x : RenderContext) : State :=
  let t := { s with render := none, orders := { s.orders with renders := s.orders.renders.tail } }
  t.finish x.slot x.answer x.written (x.written * Config.frameBytes)

/-- RENDER_DRAIN_COMPLETE (R154): in DRAINING, with no buffer write waiting or in flight. -/
def execRenderDrainComplete (s : State) : Host.Outcome State Fault Refusal :=
  done s (match s.render with
    | some x =>
      if x.stage = .draining ∧ s.works ∧ ¬ s.outstanding Purpose.isRenderWrite then s.endRender x else s
    | none => s)

end Sys2Proof.Machine
end

