-- ==== Sys2Proof/Machine/EngineSteps.lean ====
section
/-! DEFINITION. The memory engine's steps (10_the_memory_engine.md): the arbiter's grant, access failures,
and the completions of record writes, header writes and playback reads. -/

namespace Sys2Proof.Machine

open Sys2Proof

/-! ### The arbiter (R169, R170, R173) -/

/-- The class A requesters in their order. -/
def classA : List Requester := (List.finRange 32).map .channel

/-- The class B requesters in the order of the table of R168. -/
def classB : List Requester := [.sheetManager, .cardUnit, .orderUnit, .deskUnit, .render, .startSweep]

/-- The head of a requester's queue, with the accesses handed over before it and after it. -/
def headOf (who : Requester) : List Access → Option (List Access × Access × List Access)
  | [] => none
  | a :: rest =>
    if a.who = who then some ([], a, rest)
    else (headOf who rest).map fun (before, b, after) => (a :: before, b, after)

def Access.isWrite (a : Access) : Bool :=
  match a.action with
  | .write _ => true
  | .read _ => false

/-- The 64-byte line an access lies in (R168). -/
def Access.line (a : Access) : Nat := a.address / 64

/-- A record write of this sheet, by whatever channel (R173, R77). -/
def Access.recordOf (a : Access) (sheet : Nat) : Bool :=
  match a.purpose with
  | .recordWrite _ n _ => n == sheet
  | _ => false

/-- The access is held back: a write to its line was handed over earlier, among `before`, by another requester
and waits (R170), or a record write of its sheet is not complete, waiting among `before` or granted in `flight`
(R173). A record write handed over after the header is of a later giving of the sheet (DEDUCED, log 55). -/
def heldBack (flight before : List Access) (a : Access) : Bool :=
  (a.isWrite && before.any fun b => b.isWrite && b.who != a.who && b.line == a.line) ||
    (match a.purpose with
     | .headerWrite _ sheet => (before ++ flight).any fun b => b.recordOf sheet
     | _ => false)

/-- A requester has an access that counts as waiting (R169). -/
def Engine.offers (e : Engine) (who : Requester) : Bool :=
  match headOf who e.waiting with
  | some (before, a, _) => !heldBack e.flight before a
  | none => false

/-- The first requester of a class from its pointer upward, wrapping, that has an access waiting (R169). -/
def Engine.turn (e : Engine) (members : List Requester) (pointer : Nat) : Option Requester :=
  (members.drop pointer ++ members.take pointer).find? e.offers

/-- The choice by class and turn, and the engine's pointers and run count after it (R169). -/
def Engine.choose (e : Engine) : Option (Requester × Engine) :=
  let a := e.turn classA e.pointerA
  let b := e.turn classB e.pointerB
  let takeA := fun who =>
    (who, { e with pointerA := (classA.idxOf who + 1) % 32, run := min 8 (e.run + 1) })
  let takeB := fun who => (who, { e with pointerB := (classB.idxOf who + 1) % 6, run := 0 })
  match a, b with
  | some who, none => some (takeA who)
  | none, some who => some (takeB who)
  | some whoA, some whoB => some (if e.run < 8 then takeA whoA else takeB whoB)
  | none, none => none

/-- The oldest READY entry of a write queue is WRITING (R171). -/
def beginWriting : List QueueEntry → List QueueEntry
  | [] => []
  | .ready rec card sheet slot :: rest => .writing rec card sheet slot :: rest
  | e :: rest => e :: beginWriting rest

/-- What a grant does beside moving the access: a write reaches host memory (R170), a record's entry is
WRITING (R171), and a frame's last write lets the render hand on (R46). -/
def State.granted (s : State) (a : Access) : State :=
  let t := match a.action with
    | .write bytes => { s with written := Memory.write s.written a.address bytes }
    | .read _ => s
  match a.who, a.purpose with
  | .channel c, .recordWrite .. => t.modRow c fun r => { r with queue := beginWriting r.queue }
  | _, .renderWrite _ true => t.handOn
  | _, _ => t

/-- One grant, if an access counts as waiting; none in FAULTED (R169, R175). -/
def State.grant (s : State) : State :=
  if s.regs.part = .faulted then s
  else
    match s.engine.choose with
    | none => s
    | some (who, e) =>
      match headOf who e.waiting with
      | some (before, a, after) =>
        ({ s with engine := { e with
            waiting := before ++ after, flight := e.flight ++ [a] } }).granted a
      | none => s

/-- ACCESS_GRANT (R169). -/
def execAccessGrant (s : State) : Host.Outcome State Fault Refusal := done s s.grant

/-! ### Failures (R175) -/

/-- The requester's access at a place among its granted ones, and the list without it and without the quiet
accesses before it, which have completed (R170) and are noted as by `nextDue`; none where one before it is not
quiet, or where it is a render buffer write, whose failure is another step. The access is given as its failure meets
it. -/
def nthDue (who : Requester) : Nat → List Access → Option (Access × List Access)
  | _, [] => none
  | n, a :: rest =>
    if a.who = who then
      match n with
      | 0 => if a.purpose.isRenderWrite then none else some (a.under rest, rest)
      | m + 1 => if a.purpose.quiet then nthDue who m rest else none
    else (nthDue who n rest).map fun (b, l) =>
      (b, ((rest.filter fun e => e.who == who).take n).foldl Access.overlaid a :: l)

/-- The failure of an access: in STARTING, RUNNING and QUIESCING the part enters FAULTED with READ or WRITE
and the access's area; else nothing changes (R175, R178; log 34). A failed write's bytes are not known,
but for those that a later-granted write, complete or in flight, has put there (R170; log 7). -/
def State.fail (s : State) (who : Requester) (place : Nat) : State :=
  match nthDue who place s.engine.flight with
  | none => s
  | some (a, rest) =>
    let t := { s with
      engine := { s.engine with flight := rest }, written := forgetFlight s.written [a] }
    if t.active then t.enterFaulted (if a.isWrite then .write else .read) a.purpose.area 0 else t

/-- ACCESS_FAILURE (R175). -/
def execAccessFailure (who : Requester) (place : Nat) (s : State) : Host.Outcome State Fault Refusal :=
  done s (s.fail who place)

/-! ### Completions of a channel's accesses (R171 to R173) -/

/-- The oldest WRITING entry leaves the queue (R171). -/
def dropWriting : List QueueEntry → List QueueEntry
  | [] => []
  | .writing .. :: rest => rest
  | e :: rest => e :: dropWriting rest

/-- RECORD_WRITE_COMPLETE (R171): the entry leaves, and placement goes on into the room. -/
def execRecordWriteComplete (c : Chan) (s : State) : Host.Outcome State Fault Refusal :=
  done s (s.onComplete (.channel c)
      (fun p => match p with
        | .recordWrite .. => true
        | _ => false)
      fun _ t => (t.modRow c fun r => { r with queue := dropWriting r.queue }).settled c)

/-- A header write has completed: the frees that waited for it are made, in order (R173, R86). -/
def State.headerDone (s : State) (sheet : Nat) : State :=
  if s.headerOutstanding sheet then s
  else
    (s.sheets.freeWait.filter fun w => w.sheet == sheet).foldl (fun t w => t.freeSheet w.who sheet)
      { s with sheets := { s.sheets with
          freeWait := s.sheets.freeWait.filter fun w => w.sheet != sheet } }

/-- HEADER_WRITE_COMPLETE (R173). -/
def execHeaderWriteComplete (c : Chan) (s : State) : Host.Outcome State Fault Refusal :=
  done s (s.onComplete (.channel c)
      (fun p => match p with
        | .headerWrite .. => true
        | _ => false)
      fun a t => match a.purpose with
        | .headerWrite _ sheet => t.headerDone sheet
        | _ => t)

/-- The oldest place of a read-ahead without its record takes it (R172). -/
def fillAhead (data : List Byte) : List PlayPlace → List PlayPlace
  | [] => []
  | p :: rest => if p.data.isNone then { p with data := some data } :: rest else p :: fillAhead data rest

/-- A live read fills its place, and output may begin (R172, R20). -/
def ChanRow.takeRecord (data : List Byte) (r : ChanRow) : ChanRow :=
  let r := { r with ahead := fillAhead data r.ahead }
  { r with began := r.began || r.mayBegin }

/-- PLAYBACK_READ_COMPLETE (R172): the data of a read whose read-ahead was emptied are discarded. -/
def execPlaybackReadComplete (c : Chan) (data : List Byte) (s : State) :
    Host.Outcome State Fault Refusal :=
  done s (s.onComplete (.channel c)
      (fun p => match p with
        | .playbackRead _ => true
        | _ => false)
      fun a t => match a.purpose with
        | .playbackRead true => t.modRow c (ChanRow.takeRecord data)
        | _ => t)

end Sys2Proof.Machine
end

