-- ==== Sys2Proof/Machine/Highway.lean ====
section
/-! DEFINITION. The talk highway (06_the_talk_highway_and_station_panels.md): input frames judged and
delivered, keys arriving, panel steps, output frames with playback, and the pacing count. -/

namespace Sys2Proof.Machine

open Sys2Proof

/-! ### Lines (R116) -/

/-- The line state and good-frame count after a judged frame, by the channel's recover count (R116). -/
def lineAfter (recover : Nat) (line : LineState) (good : Nat) (present : Bool) : LineState × Nat :=
  if !present then (.down, 0)
  else
    match line with
    | .up => (.up, good)
    | .down => if recover ≤ 1 then (.up, 1) else (.settling, 1)
    | .settling => if recover ≤ good + 1 then (.up, recover) else (.settling, good + 1)

/-- The line leaves UP (R24): a take ends as on STOP, playback stops, any other state stays. -/
def State.lineLost (s : State) (c : Chan) : State :=
  match s.chanState c with
  | .recording => s.stopTake c .saving
  | .playing => s.stopPlayback c
  | _ => s

/-! ### Delivery (R117, R4, R5, R14) -/

/-- A delivered frame: a recording channel hands it to the codec, one operation, and each record to
placement in turn; any other channel discards it (R4, R14, R45). -/
def State.hearFrame (s : State) (c : Chan) (samples : List Sample) : State :=
  if s.chanState c = .recording then
    let r := s.row c
    let (run, records) := encodeFrame r.ctx.gain r.ctx.threshold r.ctx.hangover r.ctx.maxPause r.codec
      (samples.map BitVec.toInt)
    let t := s.modRow c fun r => { r with codec := run }
    let t := { t with codec := { t.codec with inputOps := t.codec.inputOps + 1 } }
    t.offerAll c false records
  else s

/-- Keys arriving are discarded under quiesce, in CLOSING and at an unbound channel (R27, R25). -/
def State.takesKeys (s : State) (c : Chan) : Bool :=
  s.regs.part == .running && s.chanState c != .unbound && s.chanState c != .busy .closing

/-- A key arrives: it joins the tail of the queue, or is discarded with REFUSED when 8 stand there (R5). -/
def State.keyArrives (s : State) (c : Chan) (key : Key) : State :=
  if s.takesKeys c then
    if (s.row c).ctx.keys.length < Config.keyLimit then
      s.modCtx c fun x => { x with keys := x.keys ++ [key] }
    else s.raise c .refused
  else s

/-- The frame of a line that was UP and is UP reaches the channel, and its key if it carries one (R117).
The samples are taken before a key of the same frame can act (log 42). -/
def State.deliver (s : State) (c : Chan) (samples : List Sample) (word : Option Word) : State :=
  let t := s.hearFrame c samples
  match word with
  | some w => if wordType w = 1 then t.keyArrives c { code := wordCode w, arg := wordArg w } else t
  | none => t

/-- An owned timeslot's frame is judged, its line changes, and it is delivered or discarded (R115 to R117).
-/
def State.judge (s : State) (t : Timeslot) (samples : List Sample) (word : Option Word) : State :=
  let slot := s.inputs[t]
  match slot.owner, slot.line with
  | some c, some line =>
    let present := framePresent word
    let (line', good') := lineAfter (s.row c).ctx.recover line slot.good present
    let u := { s with inputs := s.inputs.set t { slot with line := some line', good := good' } }
    if line = .up then (if present then u.deliver c samples word else u.lineLost c) else u
  | _, _ => s

/-- The frame of an input timeslot completes: kept in its assembly until the boundary, and judged unless the
part is FAULTED (R114). A second frame before the boundary finds the assembly full and is no frame of the
highway (log 14). -/
def State.inputComplete (s : State) (t : Timeslot) (samples : List Sample) (word : Option Word) : State :=
  if s.inputs[t].assembly.isSome then s
  else
    let u := { s with inputs := s.inputs.set t { s.inputs[t] with
      assembly := some { samples := samples, word := word } } }
    if s.regs.part = .faulted then u else u.judge t samples word

/-- INPUT_FRAME (R114). -/
def execInputFrame (t : Timeslot) (samples : List Sample) (word : Option Word) (s : State) :
    Host.Outcome State Fault Refusal :=
  done s (s.inputComplete t samples word)

/-! ### Panel steps (R118, R8) -/

/-- The fall of a held notice by one frame; at 0 it is cleared (R8). -/
def Context.lowerNotice (x : Context) : Context :=
  match x.transient with
  | some (n, k) => { x with transient := if k ≤ 1 then none else some (n, k - 1) }
  | none => x

/-- The lamps of a context advanced by their modes (R121, R122). -/
def Context.advanceLamps (x : Context) (hold : Bool) : Context :=
  { x with
    lampRecord := x.lampRecord.advance (recordLampMode x),
    lampReady := x.lampReady.advance (readyLampMode x),
    lampAttention := x.lampAttention.advance (attentionLampMode x hold) }

/-- The panel step of a bound channel: lamps, content, and the fall of the notice, in that order (R118). -/
def ChanRow.panelStep (hold : Bool) (r : ChanRow) : ChanRow :=
  if r.ctx.state = .unbound then r
  else
    let r := { r with ctx := r.ctx.advanceLamps hold }
    { r with ctx := { r.ctx with panel := panelWord r hold }.lowerNotice }

/-! ### Output frames (R119, R20, R21) -/

/-- The record at the front has given its last frame: the cursor moves to the play position, the place is
given up, and a further record is asked for; at L playback ends (R20, R21). -/
def State.endRecord (s : State) (c : Chan) : State :=
  let t := s.modRow c fun r => { r with
    ahead := r.ahead.tail, ctx := { r.ctx with cursor := r.ctx.playPos.getD r.ctx.cursor } }
  if (t.row c).ctx.playPos = some (t.row c).length then t.endPlayback c
  else State.askPlayback c Config.readAheadLimit t

/-- A playing channel's answer for one frame (R20, R21): zeros until output has begun or while the record is
late; else the record's samples, with the play position one further. A voice record is one codec operation
(R44, R45). The record table gives a record's frames, its bytes their content (log 33). -/
def State.playFrame (s : State) (c : Chan) : List Sample × State :=
  let r := s.row c
  match r.began, r.ahead, r.ctx.playPos with
  | true, place :: _, some p =>
    match place.data with
    | none => (zeroSamples, s)
    | some data =>
      let (samples, t) :=
        if isPause data then (zeroSamples, s)
        else (toSamples (decodeVoice data),
          { s with codec := { s.codec with inputOps := s.codec.inputOps + 1 } })
      let t := t.modCtx c fun x => { x with playPos := some (p + 1) }
      (samples, if place.start + place.frames ≤ p + 1 then t.endRecord c else t)
  | _, _, _ => (zeroSamples, s)

/-- What an output timeslot carries in the frame that begins, by its owner and the owner's line (R119). -/
def State.composeOutput (s : State) (t : Timeslot) : State :=
  let put := fun (s : State) (samples : List Sample) (word : List Byte) =>
    { s with outputs := s.outputs.set t { s.outputs[t] with samples := samples, word := word } }
  match s.outputs[t].owner with
  | none => put s zeroSamples allOffWord
  | some c =>
    if s.lineOf c = some .up then
      let word := (s.row c).ctx.panel
      match s.chanState c with
      | .playing => let (samples, u) := s.playFrame c; put u samples word
      | _ => put s zeroSamples word
    else put s zeroSamples blankWord

/-! ### The frame boundary (R112) -/

/-- An owned timeslot that no frame reached in this frame is judged absent (R114, R115; log 14). -/
def State.judgeMissing (s : State) (t : Timeslot) : State :=
  if s.inputs[t].assembly.isNone then s.judge t zeroSamples none else s

/-- The assemblies empty for the next frame (R114). -/
def State.emptyAssemblies (s : State) : State :=
  { s with inputs := s.inputs.map fun i => { i with assembly := none } }

/-- Every output timeslot silent and all off (R120). -/
def State.silence (s : State) : State :=
  { s with outputs := s.outputs.map fun o => { o with samples := zeroSamples, word := allOffWord } }

/-- The pacing count rises, or the timer expires (R164; log 31). -/
def State.pace (s : State) : State :=
  if s.regs.part = .running ∨ s.regs.part = .quiescing then
    if s.setup.pacing ≤ s.desk.pacing + 1 then { s with desk := { s.desk with pacing := 0, expired := true } }
    else { s with desk := { s.desk with pacing := s.desk.pacing + 1 } }
  else s

/-- The codec's capacity for the frame that begins: what channel work left of 40 operations (R45, R46;
log 15). -/
def State.shareCodec (s : State) : State :=
  { s with codec := { inputOps := 0, renderLeft := Config.codecOperations - s.codec.inputOps } }

/-- The frame boundary: missing frames judged, from timeslot 0 up (DESIGN CHOICE, log 46), panel steps, output
frames, codec share, pacing (R112, R119).
In FAULTED the assemblies empty and every output is silent (R114, R120). -/
def State.boundary (s : State) : State :=
  if s.regs.part = .faulted then s.emptyAssemblies.silence
  else
    let t := (List.finRange 64).foldl State.judgeMissing s
    let t := t.emptyAssemblies
    let t := { t with chans := t.chans.map (ChanRow.panelStep t.sheets.hold) }
    let t := (List.finRange 64).foldl State.composeOutput t
    t.shareCodec.pace

/-- FRAME_BOUNDARY (R112). -/
def execFrameBoundary (s : State) : Host.Outcome State Fault Refusal := done s s.boundary

/-- A pacing expiry acts in each block: a sweep, a claim scan, and a desk write if changed is set (R164,
R131, R80, R163). -/
def State.expire (s : State) : State :=
  if s.desk.expired then
    let t := { s with desk := { s.desk with expired := false } }
    if s.regs.part = .running ∨ s.regs.part = .quiescing then
      let t := t.requestSweep.scanEvent false
      if t.desk.changed then t.requestDesk else t
    else t
  else s

/-- PACING_EXPIRY (R164). -/
def execPacingExpiry (s : State) : Host.Outcome State Fault Refusal := done s s.expire

/-- TRANSIENT_NOTICE_EXPIRY (R8): a notice whose count has reached 0 is cleared. The panel step clears it in the
same indivisible step that lowers the count (R118), so a notice with frames left is never cut short (log 32). -/
def execTransientNoticeExpiry (c : Chan) (s : State) : Host.Outcome State Fault Refusal :=
  done s (match (s.row c).ctx.transient with
    | some (_, 0) =>
      if s.regs.part = .faulted then s else s.modCtx c fun x => { x with transient := none }
    | _ => s)

end Sys2Proof.Machine
end

