-- ==== Sys2Proof/Machine/Keys.lean ====
section
/-! DEFINITION. The keys (01_dictation_channels.md, R6, R7, R9 to R13, R18 to R23). A key command takes the
key at the head of its channel's queue; the key's argument stands in the queue (log 5). -/

namespace Sys2Proof.Machine

open Sys2Proof

/-! ### Taking a key (R6, R7) -/

/-- The channel takes keys: RUNNING, in IDLE, READY, RECORDING or PLAYING, no open request outstanding (R6,
R27). -/
def State.mayTake (s : State) (c : Chan) : Bool :=
  let x := (s.row c).ctx
  s.regs.part == .running && x.openRequest.isNone &&
    (match x.state with
     | .idle | .ready | .recording | .playing => true
     | _ => false)

/-- The key at the head leaves the queue. -/
def State.popKey (s : State) (c : Chan) : State := s.modCtx c fun x => { x with keys := x.keys.tail }

/-- A key is discarded with REFUSED (R7). -/
def State.refuseKey (s : State) (c : Chan) : State := (s.popKey c).raise c .refused

/-- The key at the head is taken if it is of the command's kind; else nothing happens (R6, log 2). -/
def State.takeKey (s : State) (c : Chan) (code : Nat → Bool) (body : Key → State) : State :=
  match (s.row c).ctx.keys with
  | key :: _ => if s.mayTake c && code key.code then body key else s
  | [] => s

/-- A key that needs an open letter and ends a take (R7, R18): refused in IDLE, the take ended and the key
left at the head in RECORDING, else removed and acted on. -/
def State.letterKey (s : State) (c : Chan) (act : State → State) : State :=
  match s.chanState c with
  | .idle => s.refuseKey c
  | .recording => s.stopTake c .saving
  | _ => act (s.popKey c)

/-! ### Letters (R9 to R13) -/

/-- NEW with a letter open, hold clear: the letter is filed, or discarded where L is 0, and an opening
follows (R10, R11). -/
def State.fileThenOpen (s : State) (c : Chan) : State :=
  let t := if s.chanState c = .playing then s.stopPlayback c else s
  if (t.row c).length = 0 then (t.fileNow c false).openLetter c .new
  else (t.fileNow c false).modCtx c fun x => { x with openAfter := true }

/-- NEW by state (R9, R10, R18). -/
def State.actNew (s : State) (c : Chan) : State :=
  match s.chanState c with
  | .idle => (s.popKey c).openLetter c .new
  | .recording => s.stopTake c .saving
  | _ => if s.sheets.hold then (s.popKey c).raise c .storageHold else (s.popKey c).fileThenOpen c

/-- NEW (R10). -/
def execKeyNew (c : Chan) (s : State) : Host.Outcome State Fault Refusal :=
  done s (s.takeKey c (· == 1) fun _ => s.actNew c)

/-- RECORD by state (R13, R9): ignored in RECORDING; from PLAYING playback stops first. -/
def State.actRecord (s : State) (c : Chan) : State :=
  let t := s.popKey c
  match s.chanState c with
  | .idle => t.openLetter c .record
  | .ready => t.startTake c
  | .playing => (t.stopPlayback c).startTake c
  | _ => t

/-- RECORD (R13). -/
def execKeyRecord (c : Chan) (s : State) : Host.Outcome State Fault Refusal :=
  done s (s.takeKey c (· == 2) fun _ => s.actRecord c)

/-- STOP by state (R19). -/
def State.actStop (s : State) (c : Chan) : State :=
  let t := s.popKey c
  match s.chanState c with
  | .recording => t.stopTake c .saving
  | .playing => t.stopPlayback c
  | _ => t

/-- STOP (R19). -/
def execKeyStop (c : Chan) (s : State) : Host.Outcome State Fault Refusal :=
  done s (s.takeKey c (· == 3) fun _ => s.actStop c)

/-! ### Playback and moves (R20, R22) -/

/-- PLAY in READY with the cursor below L begins playback; else it has no effect (R20). -/
def State.actPlay (s : State) (c : Chan) : State :=
  let r := s.row c
  if r.ctx.state = .ready ∧ r.ctx.cursor < r.length then s.playFrom c r.ctx.cursor else s

/-- PLAY (R20). -/
def execKeyPlay (c : Chan) (s : State) : Host.Outcome State Fault Refusal :=
  done s (s.takeKey c (· == 4) fun _ => s.letterKey c fun t => t.actPlay c)

/-- The base of a move: the play position in PLAYING, else the cursor (R22). -/
def ChanRow.moveBase (r : ChanRow) : Nat :=
  if r.ctx.state = .playing then r.ctx.playPos.getD r.ctx.cursor else r.ctx.cursor

/-- Frames a REWIND or FORWARD moves (R22). -/
def moveFrames (arg : Nat) : Nat := arg * 200 / 3

/-- The cursor goes to the snapped target; playback begins again there, or ends at L (R22). -/
def State.moveTo (s : State) (c : Chan) (target : Nat) : State :=
  let r := s.row c
  let p := snap s.letters.records r.spanList target
  match r.ctx.state with
  | .playing => if p < r.length then s.playFrom c p else s.endPlayback c
  | _ => s.modCtx c fun x => { x with cursor := p }

/-- REWIND (R22, R7). -/
def execKeyRewind (c : Chan) (s : State) : Host.Outcome State Fault Refusal :=
  done s (s.takeKey c (· == 5) fun key =>
    if key.arg = 0 then s.refuseKey c
    else s.letterKey c fun t => t.moveTo c ((t.row c).moveBase - moveFrames key.arg))

/-- FORWARD (R22, R7). -/
def execKeyForward (c : Chan) (s : State) : Host.Outcome State Fault Refusal :=
  done s (s.takeKey c (· == 6) fun key =>
    if key.arg = 0 then s.refuseKey c
    else s.letterKey c fun t =>
      t.moveTo c (min (t.row c).length ((t.row c).moveBase + moveFrames key.arg)))

/-- START (R22). -/
def execKeyStart (c : Chan) (s : State) : Host.Outcome State Fault Refusal :=
  done s (s.takeKey c (· == 7) fun _ => s.letterKey c fun t => t.moveTo c 0)

/-- END (R22). -/
def execKeyEnd (c : Chan) (s : State) : Host.Outcome State Fault Refusal :=
  done s (s.takeKey c (· == 8) fun _ => s.letterKey c fun t => t.moveTo c (t.row c).length)

/-! ### Mode keys (R23) -/

/-- INSERT (R23): refused in RECORDING, else it sets the insert flag. -/
def execKeyInsert (c : Chan) (s : State) : Host.Outcome State Fault Refusal :=
  done s (s.takeKey c (· == 9) fun key =>
    match s.chanState c with
    | .recording => s.refuseKey c
    | _ => (s.popKey c).modCtx c fun x => { x with insert := key.arg != 0 })

/-- INSTRUCT (R23, R66): sets the instruct flag; a change during a take ends the current span. -/
def execKeyInstruct (c : Chan) (s : State) : Host.Outcome State Fault Refusal :=
  done s (s.takeKey c (· == 10) fun key =>
    let flag : Bool := key.arg != 0
    (s.popKey c).modRow c fun r =>
      let ends : Bool := r.ctx.state = .recording && r.ctx.instruct != flag
      { r with
        ctx := { r.ctx with instruct := flag },
        placement := r.placement.map fun p => { p with spanOpen := p.spanOpen && !ends } })

/-- URGENT (R23, R7): sets the letter priority; refused in IDLE. -/
def execKeyUrgent (c : Chan) (s : State) : Host.Outcome State Fault Refusal :=
  done s (s.takeKey c (· == 11) fun key =>
    match s.chanState c with
    | .idle => s.refuseKey c
    | _ => (s.popKey c).modCtx c fun x => { x with
        letter := x.letter.map fun l => { l with priority := if key.arg = 0 then .routine else .urgent } })

/-! ### FILE, DISCARD, ACKNOWLEDGE and invalid keys -/

/-- FILE (R11, R18). -/
def execKeyFile (c : Chan) (s : State) : Host.Outcome State Fault Refusal :=
  done s (s.takeKey c (· == 12) fun _ => s.letterKey c fun t =>
    (if t.chanState c = .playing then t.stopPlayback c else t).fileNow c false)

/-- DISCARD (R12): it ends a take or playback itself. -/
def execKeyDiscard (c : Chan) (s : State) : Host.Outcome State Fault Refusal :=
  done s (s.takeKey c (· == 13) fun _ =>
    match s.chanState c with
    | .idle => s.refuseKey c
    | _ => (s.popKey c).discardLetter c)

/-- ACKNOWLEDGE (R23): clears the host notice. -/
def execKeyAcknowledge (c : Chan) (s : State) : Host.Outcome State Fault Refusal :=
  done s (s.takeKey c (· == 14) fun _ => (s.popKey c).modCtx c fun x => { x with host := none })

/-- INVALID_KEY (R7): a code outside 1 to 14 is refused in every state in which keys are taken. -/
def execInvalidKey (c : Chan) (s : State) : Host.Outcome State Fault Refusal :=
  done s (s.takeKey c (fun code => code == 0 || 14 < code) fun _ => s.refuseKey c)

end Sys2Proof.Machine
end

