-- ==== Sys2Proof/Machine/StartSweep.lean ====
section
/-! DEFINITION. The start sweep's passes over setup record, card file, sheet map and order book (R179 to
R182). Each pass reads one item at a time and begins when the one before has completed (log 22). -/

namespace Sys2Proof.Machine

open Sys2Proof

/-! ### Reads of the passes -/

def State.setPhase (s : State) (phase : StartPhase) : State :=
  { s with sweep := { s.sweep with phase := phase } }

/-- The card file pass asks for the first line of a card (R180). -/
def State.readStartCard (s : State) (card : Nat) : State :=
  (s.setPhase (.cards card)).sendRead .startSweep .startCardRead (cardLineAddress s.setup card 0)

/-- The map pass asks for a line (R181). -/
def State.readStartMap (s : State) (line : Nat) : State :=
  (s.setPhase (.map line)).sendRead .startSweep .startMapRead (mapLineAddress s.setup line)

/-- The order book pass asks for a slot (R182). -/
def State.readStartSlot (s : State) (slot : Nat) : State :=
  (s.setPhase (.slots slot)).sendRead .startSweep .startSlotRead
    (hostAddress s.base (0x800 + 64 * slot))

/-! ### Setup record (R179) -/

/-- The four setup lines have been read: the first field that fails faults the part; else the values are
kept for the run and the card file pass begins (R179). -/
def State.takeSetup (s : State) (data : List Byte) : State :=
  let p := setupOf data
  match setupFailure p with
  | some n => s.enterFaulted .setupInvalid .setup n
  | none => ({ s with setup := p }).readStartCard 0

/-- SETUP_READ_COMPLETE (R179). -/
def execSetupReadComplete (data : List Byte) (s : State) : Host.Outcome State Fault Refusal :=
  done s (s.onComplete .startSweep (· == .setupRead true) fun _ t => t.takeSetup data)

/-! ### Card file (R180) -/

/-- The state the pass leaves a card in: OPEN becomes SUSPENDED, any other stays (R180). -/
def keptState (state : Nat) : Nat := if state = cardOpen then cardSuspended else state

/-- The first line written to an OPEN card: SUSPENDED, DAMAGED set where the checkpoint state reads WRITING
(log 26), the other bytes as read (R180). DEDUCED (log 69): bytes 0x09 and 0x0C to 0x3F too, for R180 is
the rule of this one write, and R185 speaks of the part's writes at large. -/
def suspendedLine (data : List Byte) : List Byte :=
  let line := data.set 0 (BitVec.ofNat 8 cardSuspended)
  if byteAt data 1 = 0 then line else line.set 2 1#8

/-- A card's first line is decided, and the pass goes on to the next card or to the map (R180). -/
def State.decideCard (s : State) (card : Nat) (data : List Byte) : State :=
  let largest := max s.sweep.largest (fieldAt data 0x04 4)
  let t := { s with sweep := { s.sweep with
    kept := s.sweep.kept ++ [keptState (byteAt data 0)], largest := largest } }
  let t := if byteAt data 0 = cardOpen then
      t.sendWrite .startSweep .startCardWrite (cardLineAddress s.setup card 0) (suspendedLine data)
    else t
  if card + 1 < s.setup.cardCount then t.readStartCard (card + 1)
  else ({ t with cards := { t.cards with sequence := largest } }).readStartMap 0

/-- START_CARD_READ_COMPLETE (R180). -/
def execStartCardReadComplete (data : List Byte) (s : State) : Host.Outcome State Fault Refusal :=
  done s (s.onComplete .startSweep (· == .startCardRead) fun _ t =>
    match t.sweep.phase with
    | .cards card => t.decideCard card data
    | _ => t)

/-! ### Sheet map (R181) -/

/-- What the pass writes to an entry, as state and card byte, or none (R181). -/
def mapDecision (p : Setup) (kept : List Nat) (state card : Nat) : Option (Nat × Nat) :=
  if state = mapClaimed then some (mapFree, 0)
  else if state = mapAudio ∨ state = mapIndex then
    if card < p.cardCount ∧ kept.getD card cardVacant = cardSuspended then some (mapFiled, card)
    else some (mapFree, 0)
  else none

/-- One entry decided: its write handed over, and counted where it is left FREE (R181). -/
def State.decideEntry (s : State) (sheet state card : Nat) : State :=
  let decision := mapDecision s.setup s.sweep.kept state card
  let left := (decision.map Prod.fst).getD state
  let t := if left = mapFree then { s with sweep := { s.sweep with free := s.sweep.free + 1 } } else s
  match decision with
  | some (newState, newCard) => t.sendMapEntry .startSweep .mapWrite sheet newState newCard
  | none => t

/-- The entries of a line from sheet number `sheet` on, `n` of them left (R181). -/
def State.decideEntries (line : List Byte) : Nat → Nat → State → State
  | 0, _, s => s
  | n + 1, sheet, s =>
    State.decideEntries line n (sheet + 1)
      (s.decideEntry sheet (mapStateAt line (sheet % 32)) (mapCardAt line (sheet % 32)))

/-- A map line is decided, and the pass goes on to the next line or, the tally set, to the order book
(R181). -/
def State.decideLine (s : State) (k : Nat) (data : List Byte) : State :=
  let t := State.decideEntries data (min 32 (s.setup.sheetCount - 32 * k)) (32 * k) s
  if 32 * (k + 1) < s.setup.sheetCount then t.readStartMap (k + 1)
  else ({ t with sheets := { t.sheets with tally := t.sweep.free } }).readStartSlot 0

/-- START_MAP_READ_COMPLETE (R181). -/
def execStartMapReadComplete (data : List Byte) (s : State) : Host.Outcome State Fault Refusal :=
  done s (s.onComplete .startSweep (· == .startMapRead) fun _ t =>
    match t.sweep.phase with
    | .map line => t.decideLine line data
    | _ => t)

/-! ### Order book (R182) -/

/-- A finishing write of the start sweep is waiting or in flight, either part (R182). -/
def State.answering (s : State) : Bool :=
  (s.engine.waiting ++ s.engine.flight).any fun a => a.who == .startSweep && (match a.purpose with
    | .finishResult _ => true
    | .finishState _ => true
    | _ => false)

/-- All RESET_LOST answers written, the start sweep requests its desk write (R182). -/
def State.endAnswers (s : State) : State :=
  if s.sweep.phase = .answering ∧ ¬ s.answering then (s.setPhase .desk).requestDesk else s

/-- A slot is decided: one that reads ACCEPTED is answered RESET_LOST (R182; log 29). -/
def State.decideSlot (s : State) (k : OrderSlot) (data : List Byte) : State :=
  let t := if slotState data = slotAccepted then s.finishBy .startSweep k codeResetLost 0 0 else s
  if k.val + 1 < 32 then t.readStartSlot (k.val + 1) else (t.setPhase .answering).endAnswers

/-- START_SLOT_READ_COMPLETE (R182). -/
def execStartSlotReadComplete (data : List Byte) (s : State) : Host.Outcome State Fault Refusal :=
  done s (s.onComplete .startSweep (· == .startSlotRead) fun _ t =>
    match t.sweep.phase with
    | .slots k => if h : k < 32 then t.decideSlot ⟨k, h⟩ data else t
    | _ => t)

end Sys2Proof.Machine
end

