-- ==== Sys2Proof/Machine/OrderBook.lean ====
section
/-! DEFINITION. The order book (07_the_order_book.md): sweeps, the nine order kinds as a sweep takes them,
the card reads of REOPEN LETTER and RENDER, and the two parts of a finishing write. -/

namespace Sys2Proof.Machine

open Sys2Proof

/-! ### Sweeps (R131, R132) -/

/-- The reading phase: 32 slot reads in ascending order, the finished set emptied (R132). -/
def State.readSlots (s : State) : State :=
  let t := { s with orders := { s.orders with sweep := .reading, finishedSet := [] } }
  (List.finRange 32).foldl (fun t k =>
    t.sendRead .orderUnit (.slotRead (k.val == 31)) (orderSlotAddress s.base k 0)) t

/-- SWEEP_START (R131): a sweep asked for begins to read. -/
def execSweepStart (s : State) : Host.Outcome State Fault Refusal :=
  done s (if s.regs.part = .running ∧ s.orders.sweep = .requested then s.readSlots else s)

/-- SWEEP_READS_COMPLETE (R132): the data form the image and the acting phase begins. -/
def execSweepReadsComplete (slots : List (List Byte)) (s : State) : Host.Outcome State Fault Refusal :=
  done s (s.onComplete .orderUnit (· == .slotRead true) fun _ t =>
    ({ t with orders := { t.orders with image := some slots } }).sweepOn 0)

/-! ### STATION SETUP (R136, R2) -/

/-- The arguments of a STATION SETUP lie in their ranges (R136). -/
def SetupOrder.inRange (o : SetupOrder) : Bool :=
  o.channel < 32 && o.input < 64 && o.output < 64 && o.threshold ≤ 32767 && o.hangover ≤ 15 &&
    1 ≤ o.maxPause && 1 ≤ o.recover && o.recover ≤ 15 && o.priority ≤ 1

/-- A timeslot owned by another channel than the one named: its owner (R136). -/
def otherOwner (owner : Option Chan) (c : Chan) : Option Chan := owner.filter (· != c)

/-- The context of a newly bound channel (R2). -/
def boundContext (o : SetupOrder) (input output : Timeslot) : Context :=
  { Context.reset with
    inSlot := some input, outSlot := some output, gain := o.gain, threshold := o.threshold,
    hangover := o.hangover, maxPause := o.maxPause, recover := o.recover, author := o.author,
    defaultPriority := priorityOf o.priority, state := .idle }

/-- Binding (R2, R113, R28, R122): an open request is withdrawn, the earlier timeslots released, the new ones
owned with the line DOWN, and the context and codec state set. -/
def State.bind (s : State) (c : Chan) (o : SetupOrder) (input output : Timeslot) : State :=
  let x := (s.row c).ctx
  let t := ((s.withdrawOpen c).releaseInput x.inSlot).releaseOutput x.outSlot
  let t := { t with
    inputs := t.inputs.set input
      { t.inputs[input] with owner := some c, line := some .down, good := 0 },
    outputs := t.outputs.set output { t.outputs[output] with owner := some c } }
  t.modRow c fun r => { r with ctx := boundContext o input output, codec := PauseRun.reset }

/-- A STATION SETUP is checked and performed (R136). -/
def State.stationSetup (s : State) (k : OrderSlot) (o : SetupOrder) : State :=
  if o.inRange then
    let c : Chan := Fin.ofNat 32 o.channel
    let input : Timeslot := Fin.ofNat 64 o.input
    let output : Timeslot := Fin.ofNat 64 o.output
    match s.chanState c with
    | .unbound | .idle =>
      match otherOwner s.inputs[input].owner c, otherOwner s.outputs[output].owner c with
      | some d, _ => s.finish k codeRefusedSlotTaken d.val 0
      | none, some d => s.finish k codeRefusedSlotTaken d.val 0
      | none, none => (s.bind c o input output).finish k codeDone 0 0
    | _ => s.finish k codeRefusedChannelState 0 0
  else s.finish k codeRefusedRange 0 0

/-- STATION_SETUP (R136). -/
def execStationSetup (s : State) : Host.Outcome State Fault Refusal :=
  done s (s.takeOrder (· == 1) fun k data => s.stationSetup k (setupOrderOf data))

/-! ### STATION CLOSE and FILE LETTER (R137, R138) -/

/-- A STATION CLOSE of a channel in range: checked and accepted; it acts at once on a channel that is not
BUSY (R137, R25). -/
def State.stationClose (s : State) (k : OrderSlot) (c : Chan) : State :=
  let x := (s.row c).ctx
  if x.state = .unbound ∨ x.state = .busy .closing ∨ x.pendingClose.isSome then
    s.finish k codeRefusedChannelState 0 0
  else
    ((s.accept k (.close c)).modCtx c fun x => { x with pendingClose := some k }).actClose c

/-- STATION_CLOSE (R137). -/
def execStationClose (s : State) : Host.Outcome State Fault Refusal :=
  done s (s.takeOrder (· == 2) fun k data =>
    if h : orderChannel data < 32 then s.stationClose k ⟨orderChannel data, h⟩
    else s.finish k codeRefusedRange 0 0)

/-- The channel states in which a FILE LETTER may be accepted (R138). -/
def ChanState.mayFile : ChanState → Bool
  | .ready | .recording | .playing | .busy .saving | .busy .filing | .busy .loading => true
  | _ => false

/-- A FILE LETTER of a channel in range: checked and accepted; it acts at once on a channel that is not BUSY
(R138, R26). -/
def State.fileLetter (s : State) (k : OrderSlot) (c : Chan) : State :=
  let x := (s.row c).ctx
  if x.state.mayFile ∧ x.pendingClose = none ∧ x.pendingFile = none then
    ((s.accept k (.file c)).modCtx c fun x => { x with pendingFile := some k }).actFile c
  else s.finish k codeRefusedChannelState 0 0

/-- FILE_LETTER (R138). -/
def execFileLetter (s : State) : Host.Outcome State Fault Refusal :=
  done s (s.takeOrder (· == 3) fun k data =>
    if h : orderChannel data < 32 then s.fileLetter k ⟨orderChannel data, h⟩
    else s.finish k codeRefusedRange 0 0)

/-! ### REOPEN LETTER and RENDER (R139, R143) -/

/-- An accepted REOPEN LETTER names the card (R139, R143). -/
def State.reopenNames (s : State) (card : Nat) : Bool :=
  s.orders.accepted.toList.any fun e => match e with
    | some (.reopen n _) => n == card
    | _ => false

/-- A render of the card stands in the queue (R139). -/
def State.renderNames (s : State) (card : Nat) : Bool :=
  s.orders.accepted.toList.any fun e => match e with
    | some (.render o) => o.card == card
    | _ => false

/-- The card has a holding in the card unit (R96). -/
def State.held (s : State) (card : Nat) : Bool := (Table.get s.cards.holdings card).isSome

/-- The order unit asks for a card's first line, and the sweep waits at the slot (R132, R139, R143). -/
def State.readOrderCard (s : State) (k : OrderSlot) (card : Nat) : State :=
  ({ s with orders := { s.orders with sweep := .awaiting k } }).sendRead .orderUnit .orderCardRead
    (cardLineAddress s.setup card 0)

/-- The checks of a REOPEN LETTER made before its card is read, steps 2 and 3 of R139: a refusal's code, or
none. -/
def State.reopenRefusal (s : State) (card : Nat) (c : Chan) : Option Nat :=
  let x := (s.row c).ctx
  if x.state ≠ .idle ∨ x.openRequest.isSome then some codeRefusedChannelState
  else if s.held card || s.reopenNames card || s.renderNames card then some codeRefusedCardBusy
  else none

/-- A REOPEN LETTER is checked, and its card read where steps 1 to 3 pass (R139). -/
def State.reopenOrder (s : State) (k : OrderSlot) (data : List Byte) : State :=
  let card := reopenCard data
  if h : orderChannel data < 32 then
    if card < s.setup.cardCount then
      match s.reopenRefusal card ⟨orderChannel data, h⟩ with
      | some code => s.finish k code 0 0
      | none => s.readOrderCard k card
    else s.finish k codeRefusedRange 0 0
  else s.finish k codeRefusedRange 0 0

/-- REOPEN_LETTER (R139). -/
def execReopenLetter (s : State) : Host.Outcome State Fault Refusal :=
  done s (s.takeOrder (· == 4) fun k data => s.reopenOrder k data)

/-- The checks of a RENDER made before its card is read, steps 2 to 5 of R143: a refusal's code, or none. -/
def State.renderRefusal (s : State) (o : RenderOrder) : Option Nat :=
  if s.setup.cardCount ≤ o.card ∨ Config.letterLimit < o.start ∨ Config.letterLimit < o.count then
    some codeRefusedRange
  else if o.buffer % 64 ≠ 0 then some codeRefusedAlign
  else if o.length % 2 ≠ 0 ∨ o.length < Config.frameBytes then some codeRefusedRange
  else if s.held o.card || s.reopenNames o.card then some codeRefusedCardState
  else none

/-- A RENDER: left POSTED where the queue holds 4 orders; else checked, and its card read where steps 2 to 5
pass (R143). -/
def State.renderCheck (s : State) (k : OrderSlot) (data : List Byte) : State :=
  if Config.renderLimit ≤ s.orders.renders.length then s
  else
    match selectionOf (byteAt data 0x0A) with
    | none => s.finish k codeRefusedRange 0 0
    | some selection =>
      let o := renderOrderOf data selection
      match s.renderRefusal o with
      | some code => s.finish k code 0 0
      | none => s.readOrderCard k o.card

/-- RENDER (R143). -/
def execRenderOrder (s : State) : Host.Outcome State Fault Refusal :=
  done s (s.takeOrder (· == 5) fun k data => s.renderCheck k data)

/-- The state check on a card's first line (step 4 of R139, step 6 of R143). -/
def cardRefusal (line : List Byte) : Option Nat :=
  if byteAt line 0 ≠ cardFiled ∧ byteAt line 0 ≠ cardSuspended then some codeRefusedCardState
  else if byteAt line 2 ≠ 0 then some codeRefusedDamaged
  else none

/-- A REOPEN LETTER is accepted: the channel enters LOADING at once and the card unit reads the whole card
(R140, R108). -/
def State.acceptReopen (s : State) (k : OrderSlot) (card : Nat) (c : Chan) : State :=
  let t := (s.accept k (.reopen card c)).modRow c fun r => { r with
    ctx := { r.ctx with state := .busy .loading }, op := some (.reopening (.card card)) }
  let read := fun (t : State) (line : Nat) (last : Bool) =>
    t.sendRead .cardUnit (.reopenCardRead c last) (cardLineAddress s.setup card line)
  read (read (read (read t 0 false) 1 false) 2 false) 3 true

/-- The card read of a REOPEN LETTER decides it. Its checks 2 and 3 are made again, since the channel may
have moved while the sweep waited (log 21). -/
def State.decideReopen (s : State) (k : OrderSlot) (data line : List Byte) : State :=
  if h : orderChannel data < 32 then
    match cardRefusal line, s.reopenRefusal (reopenCard data) ⟨orderChannel data, h⟩ with
    | some code, _ => s.finish k code 0 0
    | none, some code => s.finish k code 0 0
    | none, none => s.acceptReopen k (reopenCard data) ⟨orderChannel data, h⟩
  else s

/-- The card read of a RENDER decides it: accepted, it joins the tail of the render queue (R143). -/
def State.decideRender (s : State) (k : OrderSlot) (data line : List Byte) : State :=
  match cardRefusal line, selectionOf (byteAt data 0x0A) with
  | some code, _ => s.finish k code 0 0
  | none, some selection =>
    let t := s.accept k (.render (renderOrderOf data selection))
    { t with orders := { t.orders with renders := t.orders.renders ++ [k] } }
  | none, none => s

/-- ORDER_CARD_READ_COMPLETE (R139, R143): the waiting order is decided and the sweep goes on. -/
def execOrderCardReadComplete (line : List Byte) (s : State) : Host.Outcome State Fault Refusal :=
  done s (s.onComplete .orderUnit (· == .orderCardRead) fun _ t =>
    match t.orders.sweep with
    | .awaiting k =>
      let data := t.orders.slotData k
      let u := if slotKind data = 4 then t.decideReopen k data line else t.decideRender k data line
      u.sweepOn (k.val + 1)
    | _ => t)

/-! ### CANCEL (R145, R146) -/

/-- What a CANCEL's target is (R145). -/
inductive CancelTarget where
  | active
  | queued
  | posted
  | answered
  | notRender
  deriving DecidableEq, Repr

/-- The target from the accepted table, the finished-in-this-sweep set and the image, in this order; another
CANCEL of this sweep is no render, answered or not (R145; DESIGN CHOICE, log 51). -/
def State.cancelTarget (s : State) (target : OrderSlot) : CancelTarget :=
  let data := s.orders.slotData target
  match s.orders.accepted[target] with
  | some (.render _) => if s.orders.renders.head? = some target then .active else .queued
  | some _ => .notRender
  | none =>
    if slotKind data = 6 ∧ slotState data = slotPosted then .notRender
    else if s.orders.finishedSet.contains target then .answered
    else if slotKind data = 5 then
      if slotState data = slotPosted then .posted
      else if slotState data = slotAccepted ∨ slotState data = slotFinished then .answered
      else .notRender
    else .notRender

/-- CANCEL is performed by what its target is; the target's finishing write goes before its own (R146). -/
def State.cancel (s : State) (k target : OrderSlot) : State :=
  match s.cancelTarget target with
  | .active => s.stopRender.finish k codeDone 0 0
  | .queued =>
    let t := { s with orders := { s.orders with renders := s.orders.renders.filter (· != target) } }
    (t.finish target codeCancelled 0 0).finish k codeDone 0 0
  | .posted => (s.finish target codeCancelled 0 0).finish k codeDone 0 0
  | .answered => s.finish k codeTooLate 0 0
  | .notRender => s.finish k codeRefusedRange 0 0

/-- CANCEL (R146, R145). -/
def execCancelOrder (s : State) : Host.Outcome State Fault Refusal :=
  done s (s.takeOrder (· == 6) fun k data =>
    if h : orderChannel data < 32 then s.cancel k ⟨orderChannel data, h⟩
    else s.finish k codeRefusedRange 0 0)

/-! ### NOTICE and RETURN (R141, R142) -/

/-- A NOTICE of a channel and value in range (R141, R8). -/
def State.notice (s : State) (k : OrderSlot) (c : Chan) (value : Nat) : State :=
  let x := (s.row c).ctx
  if x.state = .unbound then s.finish k codeRefusedChannelState 0 0
  else
    (s.modCtx c fun x => { x with host := if value = 0 then none else some value }).finish k codeDone
      (x.host.getD 0) 0

/-- NOTICE (R141). -/
def execNoticeOrder (s : State) : Host.Outcome State Fault Refusal :=
  done s (s.takeOrder (· == 7) fun k data =>
    if h : orderChannel data < 32 then
      if noticeValue data ≤ 15 then s.notice k ⟨orderChannel data, h⟩ (noticeValue data)
      else s.finish k codeRefusedRange 0 0
    else s.finish k codeRefusedRange 0 0)

/-- A RETURN of a count in range: the tally rises, the hold is evaluated, a scan starts or scan again is set
(R142, R88). -/
def State.returnSheets (s : State) (k : OrderSlot) (count : Nat) : State :=
  let t := (s.raiseTally count).scanEvent true
  t.finish k codeDone t.sheets.tally t.sheets.stack.length

/-- RETURN (R142). -/
def execReturnOrder (s : State) : Host.Outcome State Fault Refusal :=
  done s (s.takeOrder (· == 8) fun k data =>
    if 1 ≤ returnCount data ∧ returnCount data ≤ 32768 then s.returnSheets k (returnCount data)
    else s.finish k codeRefusedRange 0 0)

/-- UNKNOWN_ORDER_KIND (R133): a kind of 0 or of 9 to 255 is refused. -/
def execUnknownOrderKind (s : State) : Host.Outcome State Fault Refusal :=
  done s (s.takeOrder (fun kind => kind == 0 || 9 ≤ kind) fun k _ => s.finish k codeRefusedKind 0 0)

/-! ### The finishing write (R128, R134) -/

/-- The requester whose due access is of this kind: the order unit, or the start sweep (log 29). -/
def State.finisher (s : State) (kind : Purpose → Bool) : Requester :=
  if (s.complete .orderUnit kind).isSome then .orderUnit else .startSweep

/-- FINISH_RESULT_WRITTEN (R128): the first part has completed and the second is handed over. -/
def execFinishResultWritten (k : OrderSlot) (s : State) : Host.Outcome State Fault Refusal :=
  let who := s.finisher (· == .finishResult k)
  done s (s.onComplete who (· == .finishResult k) fun _ t =>
    t.sendWrite who (.finishState k) (orderSlotAddress t.base k 0) (bytesOf 1 slotFinished))

/-- ORDER_FINISHED (R134): the finished count rises and the desk unit is told; in the start sweep, the last
answer lets the desk write be requested (R182). Quiesce has waited for the answers of the run before (log 28). -/
def execOrderFinished (k : OrderSlot) (s : State) : Host.Outcome State Fault Refusal :=
  let who := s.finisher (· == .finishState k)
  done s (s.onComplete who (· == .finishState k) fun _ t =>
    (({ t with orders := { t.orders with
        finishedCount := t.orders.finishedCount + 1#32 } }).reportFinish).endAnswers)

end Sys2Proof.Machine
end

