-- ==== Sys2Proof/Machine/Registers.lean ====
section
/-! DEFINITION. The resets and the register writes (R177, R178, R184, R131, R167). -/

namespace Sys2Proof.Machine

open Sys2Proof

/-- COLD_RESET (R184). -/
def execColdReset (s : State) : Host.Outcome State Fault Refusal := .next s.coldReset

/-- SOFT_RESET (R184): a CONTROL write with SOFT_RESET 1. -/
def execSoftReset (value : Word) (s : State) : Host.Outcome State Fault Refusal :=
  .next (s.writeControl value)

/-- FUNCTION_LEVEL_RESET (R184): a soft reset. -/
def execFunctionLevelReset (s : State) : Host.Outcome State Fault Refusal := .next s.softReset

/-- ENABLE_SET (R178): a CONTROL write with ENABLE 1. -/
def execEnableSet (value : Word) (s : State) : Host.Outcome State Fault Refusal :=
  .next (s.writeControl value)

/-- ENABLE_CLEAR (R178, R183): a CONTROL write with ENABLE 0. -/
def execEnableClear (value : Word) (s : State) : Host.Outcome State Fault Refusal :=
  .next (s.writeControl value)

/-- INT_ENABLE_WRITE (R177): a CONTROL write; INT_ENABLE changes in every state. -/
def execIntEnableWrite (value : Word) (s : State) : Host.Outcome State Fault Refusal :=
  .next (s.writeControl value)

/-- EXCHANGE_LO_WRITE (R177): taken in DISABLED, bits 11 to 0 dropped. -/
def execExchangeLoWrite (value : Word) (s : State) : Host.Outcome State Fault Refusal :=
  .next (if s.regs.part = .disabled
    then { s with regs := { s.regs with exchangeLo := value &&& 0xFFFFF000#32 } } else s)

/-- EXCHANGE_HI_WRITE (R177): taken in DISABLED. -/
def execExchangeHiWrite (value : Word) (s : State) : Host.Outcome State Fault Refusal :=
  .next (if s.regs.part = .disabled
    then { s with regs := { s.regs with exchangeHi := value } } else s)

/-- SWEEP_WRITE (R131): any value asks for a sweep. -/
def execSweepWrite (_value : Word) (s : State) : Host.Outcome State Fault Refusal :=
  .next s.requestSweep

/-- What an acknowledgement does in the desk unit (R167). -/
def State.acknowledge (s : State) (value : Word) : State :=
  if ¬ s.active then s
  else if value = s.desk.latest then { s with desk := { s.desk with armed := true } }
  else if s.regs.intEnable then
    { s with desk := { s.desk with armed := false }, msi := s.msi + 1 }
  else { s with desk := { s.desk with armed := true } }

/-- DESK_ACK_WRITE (R167, R177): the register takes the value in every state. -/
def execDeskAckWrite (value : Word) (s : State) : Host.Outcome State Fault Refusal :=
  .next (({ s with regs := { s.regs with deskAck := value } }).acknowledge value)

/-- READ_ONLY_REGISTER_WRITE (R177): ignored. -/
def execReadOnlyRegisterWrite (_register : ReadOnlyRegister) (_value : Word) (s : State) :
    Host.Outcome State Fault Refusal := .next s

end Sys2Proof.Machine
end

