-- ==== Sys2Proof/Machine/Reopen.lean ====
section
/-! DEFINITION. The reopen of a letter (R108 to R111): its card, its index lines, its records, the
reconciliation of the sheet map, and its two ends. -/

namespace Sys2Proof.Machine

open Sys2Proof

/-! ### Ends (R111, R140) -/

/-- The slot of the REOPEN LETTER a channel is loading for, from the accepted table (R140). -/
def State.reopenSlot (s : State) (c : Chan) : Option OrderSlot :=
  (List.finRange 32).find? fun k => match s.orders.accepted[k] with
    | some (.reopen _ d) => d == c
    | _ => false

/-- The order of a reopen is answered (R140). -/
def State.answerReopen (s : State) (c : Chan) (code first second : Nat) : State :=
  match s.reopenSlot c with
  | some k => s.finish k code first second
  | none => s

/-- A failed reopen: the channel is IDLE, the order finished with the code, and what waits for the channel
acts (R111, R6). -/
def State.failReopen (s : State) (c : Chan) (code : Nat) : State :=
  (((s.modRow c fun r => { r with op := none, ctx := { r.ctx with state := .idle } }).answerReopen c
    code 0 0)).leaveBusy c

/-- The lists, counts and record entries of a reopen undone: those of the spans taken and of the entry being
read, where a record of it has been kept (R109, R111). -/
def State.undoReopen (s : State) (c : Chan) (partly : List Span) : State :=
  let sheets := sheetList ((s.row c).spanList ++ partly)
  ({ s with letters := {
      live := sheets.foldl (fun table n => Count.set table n 0) s.letters.live,
      records := s.letters.records.filter fun e => !sheets.contains (e.1 / 128) } }).modRow c fun r =>
    { r with spans := none }

/-- A reopen that fails after its OPEN write: the store undone, the card written back as read with VALID and
DAMAGED, its holding ended, REFUSED_DAMAGED (R111). DESIGN CHOICE (log 60): the holding ends and the order is
answered at once, before the write-back's first line, which follows its body (R97). -/
def State.damageReopen (s : State) (c : Chan) (card : Nat) (old : Card) (partly : List Span) : State :=
  let t := s.undoReopen c partly
  ((t.writeCard card { old with writing := false, damaged := true } .plain).endHolding card).failReopen c
    codeRefusedDamaged

/-- The card a channel holds by a reopen. -/
def State.reopenCardOf (s : State) (c : Chan) : Option Nat :=
  (s.cards.holdings.find? fun e => e.2 == .held c).map Prod.fst

/-! ### The sheet map (R110) -/

/-- A reconciliation line is asked for (R110). -/
def State.readReopenMap (s : State) (c : Chan) (old : Card) (line : Nat) (noted : List Nat) : State :=
  (s.setOp c (some (.reopening (.map old line noted)))).sendRead .cardUnit (.reopenMapRead c)
    (mapLineAddress s.setup line)

/-- The entries of a map line that are FILED and name the card, as sheet numbers (R110). -/
def notedIn (data : List Byte) (line sheetCount card : Nat) : List Nat :=
  ((List.range (min 32 (sheetCount - 32 * line))).filter fun i =>
    mapStateAt data i == mapFiled && mapCardAt data i == card).map fun i => 32 * line + i

/-- A noted entry is written INDEX, AUDIO or FREE, a FREE after its sheet's header write if one is waiting (R110,
R173; log 50). -/
def State.reconcile (s : State) (card index sheet : Nat) : State :=
  if sheet = index then s.sendMapEntry .cardUnit .mapWrite sheet mapIndex card
  else if 0 < s.live sheet then s.sendMapEntry .cardUnit .mapWrite sheet mapAudio card
  else s.freeClosed .cardUnit sheet

/-- The reopen completes: the channel holds the letter READY with the cursor at L, the order is DONE, and
what waits for the channel acts (R111, R26). -/
def State.completeReopen (s : State) (c : Chan) (card : Nat) (image : Card) : State :=
  let l := (s.row c).length
  let t := s.modRow c fun r => { r with
    op := none,
    ctx := { r.ctx with
      letter := some { card := card, priority := image.priority, takes := image.takes },
      cursor := l, state := .ready } }
  (t.answerReopen c codeDone (s.row c).spanList.length l).leaveBusy c

/-- Every map line read: the index sheet and every sheet of the letter must be among those noted; then the
noted entries are written in ascending order and the reopen completes (R110, R111). -/
def State.endMap (s : State) (c : Chan) (card : Nat) (old : Card) (noted : List Nat) : State :=
  if noted.contains old.index && (sheetList (s.row c).spanList).all noted.contains then
    (noted.foldl (fun t n => t.reconcile card old.index n) s).completeReopen c card
      ((s.image card).getD old)
  else s.damageReopen c card old []

/-- A map line is noted, and the next read or the map ended (R110). -/
def State.noteLine (s : State) (c : Chan) (card : Nat) (old : Card) (line : Nat) (noted : List Nat)
    (data : List Byte) : State :=
  let noted := noted ++ notedIn data line s.setup.sheetCount card
  if 32 * (line + 1) < s.setup.sheetCount then s.readReopenMap c old (line + 1) noted
  else s.endMap c card old noted

/-- REOPEN_MAP_READ_COMPLETE (R110). -/
def execReopenMapReadComplete (c : Chan) (data : List Byte) (s : State) :
    Host.Outcome State Fault Refusal :=
  done s (s.onComplete .cardUnit (· == .reopenMapRead c) fun _ t =>
    match (t.row c).op, t.reopenCardOf c with
    | some (.reopening (.map old line noted)), some card => t.noteLine c card old line noted data
    | _, _ => t)

/-! ### The records (R109) -/

/-- An entry may be read: its sheet, first slot and record count, and no slot named by an entry before it
(R109). -/
def entryReadable (sheetCount index : Nat) (before : List Span) (sp : Span) : Bool :=
  sp.sheet < sheetCount && sp.sheet != index && 1 ≤ sp.first && sp.first ≤ 127 && 1 ≤ sp.count &&
    sp.count ≤ 127 && sp.first + sp.count - 1 ≤ 127 &&
    before.all fun q => q.sheet != sp.sheet || q.first + q.count ≤ sp.first || sp.first + sp.count ≤ q.first

/-- The reopen goes on to the next entry, the spans so far in the store: after the last, the lengths are
compared and the map read; else the entry is tested and its first record read (R109, R110). -/
def State.nextEntry (s : State) (c : Chan) (card : Nat) (old : Card) (entries : List Span) : State :=
  let spans := (s.row c).spanList
  if Config.letterLimit < lengthOf spans then s.damageReopen c card old []
  else
    match entries[spans.length]? with
    | none =>
      if lengthOf spans = old.length then s.readReopenMap c old 0 [] else s.damageReopen c card old []
    | some sp =>
      if entryReadable s.setup.sheetCount old.index spans sp then
        (s.setOp c (some (.reopening (.records old entries 0 0)))).sendRead .cardUnit
          (.reopenRecordRead c) (sheetSlotAddress s.setup sp.sheet sp.first)
      else s.damageReopen c card old []

/-- A record read: a pause of 0 frames fails; its entry and live count are kept; after the last of its span
entry the frame counts are compared (R109). -/
def State.keepRecord (s : State) (c : Chan) (card : Nat) (old : Card) (entries : List Span)
    (slot sum : Nat) (data : List Byte) : State :=
  match entries[(s.row c).spanList.length]? with
  | none => s
  | some sp =>
    let e := recordEntryOf data
    let sum := sum + e.frames
    if e.frames = 0 then s.damageReopen c card old (if slot = 0 then [] else [sp])
    else
      let t := { s with letters := {
        live := Count.set s.letters.live sp.sheet (s.live sp.sheet + 1),
        records := Table.put s.letters.records (recordKey sp.sheet (sp.first + slot)) e } }
      if slot + 1 < sp.count then
        (t.setOp c (some (.reopening (.records old entries (slot + 1) sum)))).sendRead .cardUnit
          (.reopenRecordRead c) (sheetSlotAddress s.setup sp.sheet (sp.first + slot + 1))
      else if sum ≠ sp.frames then t.damageReopen c card old [sp]
      else (t.modRow c fun r => { r with spans := some (r.spanList ++ [sp]) }).nextEntry c card old entries

/-- REOPEN_RECORD_READ_COMPLETE (R109). -/
def execReopenRecordReadComplete (c : Chan) (data : List Byte) (s : State) :
    Host.Outcome State Fault Refusal :=
  done s (s.onComplete .cardUnit (· == .reopenRecordRead c) fun _ t =>
    match (t.row c).op, t.reopenCardOf c with
    | some (.reopening (.records old entries slot sum)), some card =>
      t.keepRecord c card old entries slot sum data
    | _, _ => t)

/-! ### The index lines (R109; log 22) -/

/-- An index line is asked for, or the entries are complete. -/
def State.readReopenIndex (s : State) (c : Chan) (card : Nat) (old : Card) (line : Nat)
    (entries : List Span) : State :=
  if line < indexLineCount old.spanCount then
    (s.setOp c (some (.reopening (.index old line entries)))).sendRead .cardUnit (.reopenIndexRead c)
      (sheetSlotAddress s.setup old.index line)
  else s.nextEntry c card old entries

/-- REOPEN_INDEX_READ_COMPLETE (R109). -/
def execReopenIndexReadComplete (c : Chan) (data : List Byte) (s : State) :
    Host.Outcome State Fault Refusal :=
  done s (s.onComplete .cardUnit (· == .reopenIndexRead c) fun _ t =>
    match (t.row c).op, t.reopenCardOf c with
    | some (.reopening (.index old line entries)), some card =>
      let more := (List.range (min 8 (old.spanCount - 8 * line))).map (spanAt data)
      t.readReopenIndex c card old (line + 1) (entries ++ more)
    | _, _ => t)

/-! ### The card (R108) -/

/-- The card image of a reopened letter (R108). -/
def reopenedImage (old : Card) (c : Chan) : Card :=
  { old with state := cardOpen, channel := c.val, writing := false, damaged := false }

/-- The card as it now stands is tested; it is written OPEN and held, and the letter read back (R108, R109). DESIGN
CHOICE (log 74): the first read of R109 is handed over right behind the three body lines of the OPEN write, before its
first line. -/
def State.reopenCardRead (s : State) (c : Chan) (card : Nat) (data : List Byte) : State :=
  let old := cardOf data
  if old.state ≠ cardFiled ∧ old.state ≠ cardSuspended then s.failReopen c codeRefusedCardState
  else if old.damaged then s.failReopen c codeRefusedDamaged
  else
    let image := reopenedImage old c
    let t := ((s.setImage card image).setHolding card (.held c)).writeCard card image .plain
    let t := t.modRow c fun r => { r with spans := some [] }
    if Config.spanLimit < old.spanCount ∨ s.setup.sheetCount ≤ old.index then
      t.damageReopen c card old []
    else t.readReopenIndex c card old 0 []

/-- REOPEN_CARD_READ_COMPLETE (R108). -/
def execReopenCardReadComplete (c : Chan) (data : List Byte) (s : State) :
    Host.Outcome State Fault Refusal :=
  done s (s.onComplete .cardUnit (· == .reopenCardRead c true) fun _ t =>
    match (t.row c).op with
    | some (.reopening (.card card)) => t.reopenCardRead c card data
    | _ => t)

end Sys2Proof.Machine
end

