-- ==== Sys2Proof/Machine/Dispatch.lean ====
section
/-! DEFINITION. The meaning of every command: one arm per constructor of Instr. -/

namespace Sys2Proof.Machine

open Sys2Proof

def exec (i : Instr) (s : State) : Host.Outcome State Fault Refusal :=
  match i with
  | .coldReset => Sys2Proof.Machine.execColdReset s
  | .softReset value => Sys2Proof.Machine.execSoftReset value s
  | .functionLevelReset => Sys2Proof.Machine.execFunctionLevelReset s
  | .enableSet value => Sys2Proof.Machine.execEnableSet value s
  | .enableClear value => Sys2Proof.Machine.execEnableClear value s
  | .intEnableWrite value => Sys2Proof.Machine.execIntEnableWrite value s
  | .exchangeLoWrite value => Sys2Proof.Machine.execExchangeLoWrite value s
  | .exchangeHiWrite value => Sys2Proof.Machine.execExchangeHiWrite value s
  | .sweepWrite value => Sys2Proof.Machine.execSweepWrite value s
  | .deskAckWrite value => Sys2Proof.Machine.execDeskAckWrite value s
  | .readOnlyRegisterWrite register value => Sys2Proof.Machine.execReadOnlyRegisterWrite register value s
  | .setupReadComplete data => Sys2Proof.Machine.execSetupReadComplete data s
  | .startCardReadComplete data => Sys2Proof.Machine.execStartCardReadComplete data s
  | .startMapReadComplete data => Sys2Proof.Machine.execStartMapReadComplete data s
  | .startSlotReadComplete data => Sys2Proof.Machine.execStartSlotReadComplete data s
  | .frameBoundary => Sys2Proof.Machine.execFrameBoundary s
  | .inputFrame timeslot samples word => Sys2Proof.Machine.execInputFrame timeslot samples word s
  | .pacingExpiry => Sys2Proof.Machine.execPacingExpiry s
  | .transientNoticeExpiry channel => Sys2Proof.Machine.execTransientNoticeExpiry channel s
  | .keyNew channel => Sys2Proof.Machine.execKeyNew channel s
  | .keyRecord channel => Sys2Proof.Machine.execKeyRecord channel s
  | .keyStop channel => Sys2Proof.Machine.execKeyStop channel s
  | .keyPlay channel => Sys2Proof.Machine.execKeyPlay channel s
  | .keyRewind channel => Sys2Proof.Machine.execKeyRewind channel s
  | .keyForward channel => Sys2Proof.Machine.execKeyForward channel s
  | .keyStart channel => Sys2Proof.Machine.execKeyStart channel s
  | .keyEnd channel => Sys2Proof.Machine.execKeyEnd channel s
  | .keyInsert channel => Sys2Proof.Machine.execKeyInsert channel s
  | .keyInstruct channel => Sys2Proof.Machine.execKeyInstruct channel s
  | .keyUrgent channel => Sys2Proof.Machine.execKeyUrgent channel s
  | .keyFile channel => Sys2Proof.Machine.execKeyFile channel s
  | .keyDiscard channel => Sys2Proof.Machine.execKeyDiscard channel s
  | .keyAcknowledge channel => Sys2Proof.Machine.execKeyAcknowledge channel s
  | .invalidKey channel => Sys2Proof.Machine.execInvalidKey channel s
  | .sweepStart => Sys2Proof.Machine.execSweepStart s
  | .sweepReadsComplete slots => Sys2Proof.Machine.execSweepReadsComplete slots s
  | .stationSetup => Sys2Proof.Machine.execStationSetup s
  | .stationClose => Sys2Proof.Machine.execStationClose s
  | .fileLetter => Sys2Proof.Machine.execFileLetter s
  | .reopenLetter => Sys2Proof.Machine.execReopenLetter s
  | .renderOrder => Sys2Proof.Machine.execRenderOrder s
  | .cancelOrder => Sys2Proof.Machine.execCancelOrder s
  | .noticeOrder => Sys2Proof.Machine.execNoticeOrder s
  | .returnOrder => Sys2Proof.Machine.execReturnOrder s
  | .unknownOrderKind => Sys2Proof.Machine.execUnknownOrderKind s
  | .orderCardReadComplete data => Sys2Proof.Machine.execOrderCardReadComplete data s
  | .finishResultWritten slot => Sys2Proof.Machine.execFinishResultWritten slot s
  | .orderFinished slot => Sys2Proof.Machine.execOrderFinished slot s
  | .accessGrant => Sys2Proof.Machine.execAccessGrant s
  | .accessFailure requester place => Sys2Proof.Machine.execAccessFailure requester place s
  | .recordWriteComplete channel => Sys2Proof.Machine.execRecordWriteComplete channel s
  | .headerWriteComplete channel => Sys2Proof.Machine.execHeaderWriteComplete channel s
  | .playbackReadComplete channel data => Sys2Proof.Machine.execPlaybackReadComplete channel data s
  | .claimScanStart => Sys2Proof.Machine.execClaimScanStart s
  | .mapLineReadComplete data => Sys2Proof.Machine.execMapLineReadComplete data s
  | .stackReturn => Sys2Proof.Machine.execStackReturn s
  | .cardSearchStart => Sys2Proof.Machine.execCardSearchStart s
  | .cardSearchReadComplete data => Sys2Proof.Machine.execCardSearchReadComplete data s
  | .checkpointBegin channel => Sys2Proof.Machine.execCheckpointBegin channel s
  | .checkpointWritingWritten channel => Sys2Proof.Machine.execCheckpointWritingWritten channel s
  | .indexLinesWritten channel => Sys2Proof.Machine.execIndexLinesWritten channel s
  | .cardBodyWritten => Sys2Proof.Machine.execCardBodyWritten s
  | .checkpointComplete channel => Sys2Proof.Machine.execCheckpointComplete channel s
  | .filedWritesComplete channel => Sys2Proof.Machine.execFiledWritesComplete channel s
  | .filingComplete channel => Sys2Proof.Machine.execFilingComplete channel s
  | .suspensionComplete channel => Sys2Proof.Machine.execSuspensionComplete channel s
  | .discardPerform channel => Sys2Proof.Machine.execDiscardPerform channel s
  | .reopenCardReadComplete channel data => Sys2Proof.Machine.execReopenCardReadComplete channel data s
  | .reopenIndexReadComplete channel data => Sys2Proof.Machine.execReopenIndexReadComplete channel data s
  | .reopenRecordReadComplete channel data => Sys2Proof.Machine.execReopenRecordReadComplete channel data s
  | .reopenMapReadComplete channel data => Sys2Proof.Machine.execReopenMapReadComplete channel data s
  | .renderActivate => Sys2Proof.Machine.execRenderActivate s
  | .renderCardReadComplete data => Sys2Proof.Machine.execRenderCardReadComplete data s
  | .renderIndexReadComplete data => Sys2Proof.Machine.execRenderIndexReadComplete data s
  | .renderRecordReadComplete data => Sys2Proof.Machine.execRenderRecordReadComplete data s
  | .renderOperation => Sys2Proof.Machine.execRenderOperation s
  | .renderBufferWriteComplete => Sys2Proof.Machine.execRenderBufferWriteComplete s
  | .renderBufferWriteFailed => Sys2Proof.Machine.execRenderBufferWriteFailed s
  | .renderDrainComplete => Sys2Proof.Machine.execRenderDrainComplete s
  | .deskWriteBegin => Sys2Proof.Machine.execDeskWriteBegin s
  | .deskOpeningWritten => Sys2Proof.Machine.execDeskOpeningWritten s
  | .deskBodyWritten => Sys2Proof.Machine.execDeskBodyWritten s
  | .deskWriteComplete => Sys2Proof.Machine.execDeskWriteComplete s
  | .quiesceWorkDone => Sys2Proof.Machine.execQuiesceWorkDone s

end Sys2Proof.Machine
end

