-- ==== Sys2Proof/Safety.lean ====
section
/-! DEFINITION. The terms claims use: the laws that every step keeps, the hypotheses under which a command
has its own effect (a key at the head of a queue that takes keys, an order the sweep stands at, a completion
that is due), and the frames of the commands. -/

namespace Sys2Proof.Machine

open Sys2Proof

/-! ### Laws that every step keeps -/

/-- The lists kept in one canonical form: host memory, live counts, record table, holdings, images. -/
structure Canonical (s : State) : Prop where
  memory : Memory.wf s.written
  live : Table.wf s.letters.live
  counted : ∀ e ∈ s.letters.live, 0 < e.2
  records : Table.wf s.letters.records
  holdings : Table.wf s.cards.holdings
  images : Table.wf s.cards.images

/-- The exchange base is a multiple of 4 KiB (R177). -/
def ExchangeAligned (s : State) : Prop := s.regs.exchangeLo &&& 0xFFF#32 = 0#32

/-- No key queue holds more than 8 keys (R1, R5). -/
def KeysBounded (s : State) : Prop := ∀ c : Chan, (s.row c).ctx.keys.length ≤ Config.keyLimit

/-- No record write queue holds more than 4 records (R171). -/
def QueuesBounded (s : State) : Prop := ∀ c : Chan, (s.row c).queue.length ≤ Config.writeQueueLimit

/-- A timeslot's owner is the channel bound to it, in both directions (R113). -/
structure OwnersAgree (s : State) : Prop where
  input : ∀ (c : Chan) (t : Timeslot), (s.row c).ctx.inSlot = some t ↔ s.inputs[t].owner = some c
  output : ∀ (c : Chan) (t : Timeslot), (s.row c).ctx.outSlot = some t ↔ s.outputs[t].owner = some c

/-- The three resets (R184). -/
def Instr.isReset : Instr → Bool
  | .coldReset | .functionLevelReset => true
  | .softReset value | .enableSet value | .enableClear value | .intEnableWrite value => softResetBit value
  | _ => false

/-! ### When a command has its own effect -/

/-- A key of this code and argument stands at the head of a channel that takes keys in this state (R6). -/
structure KeyAtHead (s : State) (c : Chan) (state : ChanState) (code arg : Nat) (rest : List Key) :
    Prop where
  running : s.regs.part = .running
  idleRequest : (s.row c).ctx.openRequest = none
  state : (s.row c).ctx.state = state
  keys : (s.row c).ctx.keys = { code := code, arg := arg } :: rest

/-- The running sweep stands at slot k, and the order there is of this kind (R132, R133). -/
structure OrderAt (s : State) (k : OrderSlot) (kind : Nat) : Prop where
  running : s.regs.part = .running
  acting : s.orders.sweep = .acting k
  kind : slotKind (s.orders.slotData k) = kind

/-- The requester's next completion to report is of this access, and `rest` is in flight after it (R170). -/
structure Due (s : State) (who : Requester) (a : Access) (rest : List Access) : Prop where
  next : nextDue who s.engine.flight = some (a, rest)
  unfaulted : s.regs.part ≠ .faulted

/-- The state once a completed access has left the flight. -/
def State.landed (s : State) (rest : List Access) : State :=
  { s with engine := { s.engine with flight := rest } }

/-! ### Frames -/

/-- Every row but the channel's own is unchanged. -/
def OtherRows (c : Chan) (s t : State) : Prop := ∀ d : Chan, d ≠ c → t.row d = s.row d

/-- The desk unit is unchanged but for changed, which is set where a reported item differs (R163). -/
def DeskReported (s t : State) : Prop :=
  t.desk = { s.desk with changed := s.desk.changed || decide (t.reports ≠ s.reports) }

/-- The bytes an access writes. -/
def Access.covers (a : Access) (address : Nat) : Prop :=
  ∃ bytes, a.action = .write bytes ∧ a.address ≤ address ∧ address < a.address + bytes.length

/-- What a reset leaves beside the registers (R184, R176): every field at its reset value; outside the part,
the waiting commands and the MSIs raised; the frames being sent; and host memory, where the bytes of writes
in flight are not known, but for those a later-granted write, complete by then, has put there (R170). -/
structure AfterReset (s t : State) : Prop where
  fields : t = { State.reset with
    pending := s.pending, regs := t.regs, outputs := t.outputs, written := t.written, msi := s.msi }
  outputs : ∀ k : Timeslot, t.outputs[k] = { s.outputs[k] with owner := none }
  kept : ∀ n, (∀ a ∈ s.engine.flight, a.covers n → a.settledAt n = true) →
    Memory.read t.written n = Memory.read s.written n
  lost : ∀ n, ∀ a ∈ s.engine.flight, a.covers n → a.settledAt n = false → Memory.read t.written n = none

/-- The valid values of the ten setup fields by their numbers (R179). -/
def FieldValid (p : Setup) (n : Nat) : Prop :=
  match n with
  | 1 => 8192 ∣ p.poolBase
  | 2 => 64 ∣ p.mapBase
  | 3 => 256 ∣ p.cardBase
  | 4 => 64 ≤ p.sheetCount ∧ p.sheetCount ≤ 32768
  | 5 => 16 ≤ p.cardCount ∧ p.cardCount ≤ 256
  | 6 => 1 ≤ p.low ∧ p.low ≤ p.sheetCount - 1
  | 7 => p.low + 1 ≤ p.high ∧ p.high ≤ p.sheetCount
  | 8 => 1 ≤ p.pacing ∧ p.pacing ≤ 64
  | 9 => 1 ≤ p.orderMark ∧ p.orderMark ≤ 32
  | 10 => 1 ≤ p.filingMark ∧ p.filingMark ≤ 16
  | _ => True

/-- A read of a line for a requester. -/
def readOf (who : Requester) (purpose : Purpose) (address : Nat) : Access :=
  { who := who, purpose := purpose, address := address, action := .read 64 }

/-- A write of bytes for a requester. -/
def writeOf (who : Requester) (purpose : Purpose) (address : Nat) (bytes : List Byte) : Access :=
  { who := who, purpose := purpose, address := address, action := .write bytes }

/-- Accesses handed over since, behind those that waited. -/
def HandedOver (s t : State) (more : List Access) : Prop :=
  t.engine = { s.engine with waiting := s.engine.waiting ++ more }

/-- The row of a channel has become r; the desk unit is told, and nothing else has changed. -/
structure RowBecomes (s t : State) (c : Chan) (r : ChanRow) : Prop where
  row : t.row c = r
  others : OtherRows c s t
  desk : DeskReported s t
  rest : t = { s with chans := t.chans, desk := t.desk }

/-- The context of a channel has become x, and nothing else of its row has changed. -/
def ContextBecomes (s t : State) (c : Chan) (x : Context) : Prop :=
  RowBecomes s t c { s.row c with ctx := x }

/-- What an answered order's finishing write leaves in the order unit and hands over (R128, R134). -/
structure Answered (s t : State) (k : OrderSlot) (code first second : Nat) : Prop where
  counter : t.orders.finishCounter = s.orders.finishCounter + 1#32
  accepted : t.orders.accepted = s.orders.accepted.set k none
  finished : t.orders.finishedSet = s.orders.finishedSet ++ [k]
  renders : t.orders.renders = s.orders.renders
  count : t.orders.finishedCount = s.orders.finishedCount
  write : HandedOver s t [writeOf .orderUnit (.finishResult k)
    ((s.base + (0x800 + 64 * k.val + 0x30)) % 2 ^ 64)
    (bytesOf 4 code ++ bytesOf 4 first ++ bytesOf 4 second ++
      bytesOf 4 (s.orders.finishCounter + 1#32).toNat)]

/-- The sweep has gone on from slot k to the next slot whose order is taken, or has ended (R132, R131). -/
structure SweptOn (s t : State) (k : OrderSlot) : Prop where
  next : ∀ j : OrderSlot, k < j →
    (t.orders.accepted[j] = none ∧ j ∉ t.orders.finishedSet ∧ byteAt (s.orders.slotData j) 0 = 1) →
    (∀ i : OrderSlot, k < i → i < j → ¬ (t.orders.accepted[i] = none ∧ i ∉ t.orders.finishedSet ∧
      byteAt (s.orders.slotData i) 0 = 1)) →
    t.orders.sweep = .acting j ∧ t.orders.image = s.orders.image ∧ t.orders.again = s.orders.again
  ended : (∀ i : OrderSlot, k < i → ¬ (t.orders.accepted[i] = none ∧ i ∉ t.orders.finishedSet ∧
      byteAt (s.orders.slotData i) 0 = 1)) →
    t.orders.sweep = (if s.orders.again then .requested else .idle) ∧ t.orders.image = none ∧
      t.orders.again = false

/-- An order of the running sweep is answered and changes nothing but the order unit. -/
def AnsweredOnly (s t : State) (k : OrderSlot) (code first second : Nat) : Prop :=
  Answered s t k code first second ∧ SweptOn s t k ∧ t = { s with orders := t.orders, engine := t.engine }

/-- What an accepted order leaves in the order unit and hands over, `more` handed over behind its accepting
write (R128, R133). -/
structure TakenOn (s t : State) (k : OrderSlot) (entry : Accepted) (more : List Access) : Prop where
  accepted : t.orders.accepted = s.orders.accepted.set k (some entry)
  counter : t.orders.finishCounter = s.orders.finishCounter
  finished : t.orders.finishedSet = s.orders.finishedSet
  count : t.orders.finishedCount = s.orders.finishedCount
  write : HandedOver s t (writeOf .orderUnit .acceptWrite ((s.base + (0x800 + 64 * k.val + 0)) % 2 ^ 64)
    [2#8] :: more)

/-- A timeslot's input side as its owner's unbinding leaves it (R113). -/
def InputReleased (i : InputSlot) : InputSlot := { i with owner := none, line := none, good := 0 }

/-- The header write of a write sheet whose records used are `used` (R173). -/
def headerWriteOf (p : Setup) (c : Chan) (w : WriteSheet) (used : Nat) : Access :=
  writeOf (.channel c) (.headerWrite w.card w.sheet) ((p.poolBase + (8192 * w.sheet + 64 * 0)) % 2 ^ 64)
    (bytesOf 2 used ++ bytesOf 2 w.card ++ bytesOf 1 w.take ++ zeroBytes 59)

/-- The three lines of a whole-card write, the first line to follow them (R97). -/
def bodyWrites (p : Setup) (card : Nat) (k : Card) (ends : CardWrite) : List Access :=
  [writeOf .cardUnit (.cardBody card (cardFirstLine k) ends false) ((p.cardBase + (256 * card + 64 * 1)) % 2 ^ 64)
      (cardSecondLine k),
    writeOf .cardUnit (.cardBody card (cardFirstLine k) ends false) ((p.cardBase + (256 * card + 64 * 2)) % 2 ^ 64)
      (List.replicate 64 0#8),
    writeOf .cardUnit (.cardBody card (cardFirstLine k) ends true) ((p.cardBase + (256 * card + 64 * 3)) % 2 ^ 64)
      (List.replicate 64 0#8)]

/-- A write of a map entry (R74, R75). -/
def mapWriteOf (p : Setup) (who : Requester) (purpose : Purpose) (sheet state card : Nat) : Access :=
  writeOf who purpose ((p.mapBase + 2 * sheet) % 2 ^ 64) [BitVec.ofNat 8 state, BitVec.ofNat 8 card]

/-- An access is offered by its requester: it is the requester's oldest waiting one; no write to its line was
handed over earlier by another requester and waits, if it is a write; and no record write of its sheet, by
whatever channel, is waiting before it or in flight, if it is a header write (R169, R170, R173; log 55). -/
structure Offered (s : State) (who : Requester) (before : List Access) (a : Access) (after : List Access) :
    Prop where
  place : s.engine.waiting = before ++ a :: after
  asked : a.who = who
  oldest : ∀ b ∈ before, b.who ≠ who
  line : (∃ bytes, a.action = .write bytes) → ∀ b ∈ before, (∃ bytes, b.action = .write bytes) →
    b.address / 64 ≠ a.address / 64
  header : ∀ card sheet, a.purpose = .headerWrite card sheet → ∀ b ∈ before ++ s.engine.flight,
    ∀ card' slot, b.purpose ≠ .recordWrite card' sheet slot

/-- A requester has an access that counts as waiting (R169). -/
def Offers (s : State) (who : Requester) : Prop := ∃ before a after, Offered s who before a after

/-- The letter store without the sheets of a span list (R55). -/
structure SheetsLeave (s t : State) (spans : List Span) : Prop where
  live : ∀ n, t.live n = if (spans.any fun sp => sp.sheet == n) then 0 else s.live n
  records : ∀ n slot, slot < 128 → Table.get t.letters.records (128 * n + slot) =
    if (spans.any fun sp => sp.sheet == n) then none else Table.get s.letters.records (128 * n + slot)

/-- The sheets a span list names, each once, in order of first reference (R55). -/
structure FirstReferences (spans : List Span) (sheets : List Nat) : Prop where
  all : ∀ n, n ∈ sheets ↔ ∃ sp ∈ spans, sp.sheet = n
  order : (sheets.map fun n => (spans.map Span.sheet).idxOf n).Pairwise (· < ·)

/-- A card's holding and image have ended; every other holding and image stands (R95, R96). -/
structure HoldingEnds (s t : State) (card : Nat) : Prop where
  holding : Table.get t.cards.holdings card = none
  image : Table.get t.cards.images card = none
  holdings : ∀ n, n ≠ card → Table.get t.cards.holdings n = Table.get s.cards.holdings n
  images : ∀ n, n ≠ card → Table.get t.cards.images n = Table.get s.cards.images n

/-! ### Letters -/

/-- `q` names the record that contains position p: a slot of the span that holds p, the record table's frame
count, and the start that its place in the letter gives it (R50, R51). -/
structure RecordHolds (table : List (Nat × RecordEntry)) (spans : List Span) (p : Nat) (q : PlayPlace) : Prop where
  place : ∃ before sp after j, spans = before ++ sp :: after ∧ lengthOf before ≤ p ∧
    p < lengthOf before + sp.frames ∧ j < sp.count ∧ q.sheet = sp.sheet ∧ q.slot = sp.first + j ∧
    q.start = lengthOf before + ((List.range j).map fun i => slotFrames table sp.sheet (sp.first + i)).sum
  frames : q.frames = slotFrames table q.sheet q.slot
  holds : q.start ≤ p ∧ p < q.start + q.frames

/-- The position after the last of some places that follow one another from p. -/
def placesEnd (p : Nat) (places : List PlayPlace) : Nat :=
  match places.getLast? with
  | some q => q.start + q.frames
  | none => p

/-- The places name records that follow one another in letter order, the first the record at p (R20). -/
def PlacesFollow (table : List (Nat × RecordEntry)) (spans : List Span) : Nat → List PlayPlace → Prop
  | _, [] => True
  | p, q :: more => RecordHolds table spans p q ∧ PlacesFollow table spans (q.start + q.frames) more

/-- The places behind `front` in a read-ahead, asked for from position p on: their records follow in letter
order, none of them read yet, until the read-ahead holds 4, or L is reached or no record holds the next position
(R20). -/
structure AsksFrom (table : List (Nat × RecordEntry)) (spans : List Span) (p : Nat)
    (front asked : List PlayPlace) : Prop where
  follow : PlacesFollow table spans p asked
  unread : ∀ q ∈ asked, q.data = none
  most : asked ≠ [] → (front ++ asked).length ≤ 4
  all : (front ++ asked).length < 4 → placesEnd p asked < lengthOf spans →
    ∀ q, ¬ RecordHolds table spans (placesEnd p asked) q

/-- The reads of the records that places name (R50, R172). -/
def playReads (p : Setup) (c : Chan) (places : List PlayPlace) : List Access :=
  places.map fun q => readOf (.channel c) (.playbackRead true)
    ((p.poolBase + (8192 * q.sheet + 64 * q.slot)) % 2 ^ 64)

/-- A playback read of the channel. -/
def Access.plays (c : Chan) (a : Access) : Bool :=
  a.who == .channel c && (match a.purpose with
    | .playbackRead _ => true
    | _ => false)

/-- The state once a read-ahead's reads are given up: those waiting removed, those granted completing into
nothing (R21, R172). -/
def State.readsGone (s : State) (c : Chan) : State :=
  { s with engine := { s.engine with
      waiting := s.engine.waiting.filter fun a => !a.plays c,
      flight := s.engine.flight.map fun a =>
        if a.plays c then { a with purpose := .playbackRead false } else a } }

/-- The spans on the two sides of the cursor, which stands on a span boundary in a take (R49, R58). -/
structure AtCursor (r : ChanRow) (before after : List Span) : Prop where
  list : r.spans = some (before ++ after)
  cursor : lengthOf before = r.ctx.cursor
  frames : ∀ sp ∈ before, 0 < sp.frames

/-- The four conditions of R60, for a record going to the next slot of a write sheet. -/
def Extends (before : List Span) (spanOpen instruct : Bool) (w : WriteSheet) : Prop :=
  spanOpen = true ∧ ∃ sp, before.getLast? = some sp ∧ sp.sheet = w.sheet ∧ sp.first + sp.count = w.next ∧
    sp.instruction = instruct

/-- The span list after `count` records of so many frames in all joined it at the cursor, from the next slot of
a write sheet on: the span before the cursor extended, or a new span (R59, R60). -/
structure Joined (before after : List Span) (spanOpen instruct : Bool) (w : WriteSheet) (count frames : Nat)
    (spans : List Span) : Prop where
  extended : ∀ first sp, before = first ++ [sp] → Extends before spanOpen instruct w →
    spans = first ++ { sp with count := sp.count + count, frames := sp.frames + frames } :: after
  started : ¬ Extends before spanOpen instruct w → spans = before ++
    { sheet := w.sheet, first := w.next, count := count, frames := frames, instruction := instruct } :: after

/-- The letter store's tables after a record was placed in a slot of a sheet (R52, R72). -/
structure RecordEntered (s t : State) (sheet slot : Nat) (rec : Rec) : Prop where
  live : t.live sheet = s.live sheet + 1
  otherLive : ∀ n, n ≠ sheet → t.live n = s.live n
  entry : Table.get t.letters.records (128 * sheet + slot) = some rec.entry
  otherEntries : ∀ n, n ≠ 128 * sheet + slot → Table.get t.letters.records n = Table.get s.letters.records n

/-- The write of a placed record, and behind it, in slot 127, the header of its sheet (R171, R173). -/
def placedWrites (p : Setup) (c : Chan) (w : WriteSheet) (rec : Rec) : List Access :=
  writeOf (.channel c) (.recordWrite w.card w.sheet w.next)
      ((p.poolBase + (8192 * w.sheet + 64 * w.next)) % 2 ^ 64) rec.bytes ::
    (if w.next = 127 then [headerWriteOf p c w 127] else [])

/-- A present frame without a key reaches a channel in RECORDING whose line is UP (R117, R14). -/
structure HeardInTake (s : State) (k : Timeslot) (c : Chan) (word : Option Word) (p : Placement) : Prop where
  unfaulted : s.regs.part ≠ .faulted
  assembly : s.inputs[k].assembly = none
  owner : s.inputs[k].owner = some c
  line : s.inputs[k].line = some .up
  present : framePresent word = true
  keyless : ∀ v, word = some v → v.toNat % 256 = 0
  recording : (s.row c).ctx.state = .recording
  op : (s.row c).op = none
  placement : (s.row c).placement = some p

/-- A lamp's mode and phase count after a panel step that gives it a mode (R122). -/
def lampAfter (l : Lamp) (mode : LampMode) : Lamp :=
  { mode := mode,
    count := if l.mode ≠ mode then 0
      else if mode = .blink then (l.count + 1) % 32 else if mode = .wink then (l.count + 1) % 8 else 0 }

/-- The lamp's level, 1 for on (R122). -/
def lampBit (l : Lamp) : Nat :=
  if l.mode = .on ∨ (l.mode = .blink ∧ l.count ≤ 15) ∨ (l.mode = .wink ∧ l.count ≤ 3) then 1 else 0

/-- The mode flags of 12.2 and 12.7: INSERT, INSTRUCT, and URGENT of a letter held. -/
def flagBits (x : Context) : Nat :=
  (if x.insert then 1 else 0) + (if x.instruct then 2 else 0) +
    (if x.letter.map OpenLetter.priority = some .urgent then 4 else 0)

/-- The notice shown: the host notice with bit 7, or the transient notice's code, or 0 (R123). -/
def noticeShown (x : Context) : Nat :=
  match x.host, x.transient with
  | some h, _ => 0x80 + h
  | none, some (.refused, _) => 1
  | none, some (.storageHold, _) => 2
  | none, some (.storageOut, _) => 3
  | none, some (.noCard, _) => 4
  | none, some (.spanFull, _) => 5
  | none, some (.letterFull, _) => 6
  | none, some (.filed, _) => 7
  | none, some (.discarded, _) => 8
  | none, some (.lostAudio, _) => 9
  | none, none => 0

end Sys2Proof.Machine
end

