-- ==== Sys2Proof/Certificates/Slice0/Obligations.lean ====
section
/-! DEFINITION. The statements about the DX-32, family by family. Each docstring names the commands whose own
effect it gives and the sections of spec/ it rests on. -/

open Sys2Proof Sys2Proof.Machine

/-! ### The queue of commands, reset and registers -/

/-- A step runs the command at the front of the queue on the state with the queue's rest; on an empty queue
the part idles (the model's choice, log 4). -/
def Obligations.StepRunsFrontCommand : Prop :=
  (∀ (s : State) (c : Instr) (rest : List Instr), s.pending = c :: rest →
    step s = exec c { s with pending := rest }) ∧
  ∀ s : State, s.pending = [] → step s = .next s

/-- The state after a cold reset keeps every law of Safety.lean and has, field by field, the values the chapters
state (11.1, 11.5, 1.1, 2.1, 3.1, 4.2, 5.2, 6.1, 7.2, 8.1, 9.1, 10.2). The kept setup values and exchange base are 0
(the model's choice, log 11), the codec has its 40 operations (DEDUCED, the model's choice, log 15), what is asked
for and not yet begun is clear (the model's choice, logs 3 and 31), no command waits, and no byte of host memory is
listed (the model's choice, log 7). -/
def Obligations.ResetStateValues : Prop :=
  Canonical State.reset ∧ ExchangeAligned State.reset ∧ KeysBounded State.reset ∧
  QueuesBounded State.reset ∧ OwnersAgree State.reset ∧
  State.reset.regs = {
    enable := false, intEnable := false, part := .disabled,
    fault := { kind := .none, area := .none, field := 0 }, exchangeLo := 0#32, exchangeHi := 0#32,
    deskAck := 0#32 } ∧
  (∀ c : Chan, State.reset.row c = {
    ctx := {
      inSlot := none, outSlot := none, gain := 0, threshold := 0, hangover := 0, maxPause := 0, recover := 0,
      author := 0, defaultPriority := .routine, state := .unbound, insert := false, instruct := false,
      letter := none, cursor := 0, playPos := none, keys := [], transient := none, host := none,
      openRequest := none, pendingClose := none, pendingFile := none,
      lampRecord := { mode := .off, count := 0 }, lampReady := { mode := .off, count := 0 },
      lampAttention := { mode := .off, count := 0 }, openAfter := false, panel := List.replicate 8 0#8 },
    codec := { silent := 0, pending := 0, lost := 0 }, flush := none, spans := none, placement := none,
    sheet := none, queue := [], ahead := [], began := false, op := none, discards := [] }) ∧
  (∀ k : Timeslot,
    State.reset.inputs[k] = { owner := none, line := none, good := 0, assembly := none } ∧
    State.reset.outputs[k] =
      { owner := none, samples := List.replicate 120 0#16, word := List.replicate 8 0#8 }) ∧
  State.reset.letters = { live := [], records := [] } ∧
  State.reset.sheets = {
    stack := [], cursor := 0, scan := .idle, scanAgain := false, examined := 0, waiting := [], tally := 0,
    hold := false, storageOut := false, freeWait := [] } ∧
  State.reset.cards = {
    cursor := 0, search := none, openQueue := [], sequence := 0, roll := [], holdings := [], images := [] } ∧
  State.reset.orders = {
    sweep := .idle, again := false, image := none, finishedSet := [], accepted := Vector.replicate 32 none,
    renders := [], finishCounter := 0#32, finishedCount := 0#32 } ∧
  State.reset.render = none ∧
  State.reset.desk = {
    generation := 0#32, latest := 0#32, writing := false, again := false, changed := false, finishes := 0#32,
    filings := 0#32, pacing := 0, armed := true, requested := false, expired := false, finalAsked := false,
    finalRunning := false, lines := [] } ∧
  State.reset.engine = { waiting := [], flight := [], pointerA := 0, pointerB := 0, run := 0 } ∧
  State.reset.setup = {
    poolBase := 0, mapBase := 0, cardBase := 0, sheetCount := 0, cardCount := 0, low := 0, high := 0,
    pacing := 0, orderMark := 0, filingMark := 0 } ∧
  State.reset.base = 0 ∧ State.reset.sweep = { phase := .idle, kept := [], largest := 0, free := 0 } ∧
  State.reset.codec = { inputOps := 0, renderLeft := 40 } ∧ State.reset.stackReturned = false ∧
  State.reset.pending = [] ∧ State.reset.written = [] ∧ State.reset.msi = 0

/-- COLD_RESET, SOFT_RESET, FUNCTION_LEVEL_RESET (11.5, 10.5, 6.5): every register and all state take their reset
values; a soft reset keeps EXCHANGE_LO and EXCHANGE_HI; no MSI is raised; nothing but the bytes of writes in flight
changes in host memory, and those read as no value, but for those that a later-granted write, complete by then, has
put there (the model's choice, log 7); the frames being sent stand, without owners, until the next boundary (DEDUCED,
the model's choice, log 12). -/
def Obligations.ResetsRestoreEveryValue : Prop :=
  ∀ s : State,
    (∃ t, exec .coldReset s = .next t ∧ AfterReset s t ∧ t.regs = Registers.reset) ∧
    (∃ t, exec .functionLevelReset s = .next t ∧ AfterReset s t ∧
      t.regs = { Registers.reset with
        exchangeLo := s.regs.exchangeLo, exchangeHi := s.regs.exchangeHi }) ∧
    ∀ v : Word, softResetBit v = true →
      ∀ i ∈ [Instr.softReset v, .enableSet v, .enableClear v, .intEnableWrite v],
        ∃ t, exec i s = .next t ∧ AfterReset s t ∧
          t.regs = { Registers.reset with
            exchangeLo := s.regs.exchangeLo, exchangeHi := s.regs.exchangeHi }

/-- ENABLE_SET, ENABLE_CLEAR, INT_ENABLE_WRITE (11.1, 11.2): a write of CONTROL that neither resets, nor
starts a DISABLED part, nor begins the quiesce of a RUNNING one, stores its two bits and changes nothing
else; INT_ENABLE takes effect in every state. -/
def Obligations.ControlWriteStoresItsBits : Prop :=
  ∀ (s : State) (v : Word), softResetBit v = false →
    ¬ (s.regs.part = .disabled ∧ s.regs.enable = false ∧ enableBit v = true) →
    ¬ (s.regs.part = .running ∧ s.regs.enable = true ∧ enableBit v = false) →
    ∀ i ∈ [Instr.enableSet v, .enableClear v, .intEnableWrite v],
      exec i s = .next { s with regs := { s.regs with
        enable := enableBit v, intEnable := intEnableBit v } }

/-- ENABLE_SET (11.2, 11.3): in DISABLED it begins the start sweep: STARTING, the exchange base read, the
counters of the start sweep reset, and the four line reads of the setup record handed over. -/
def Obligations.EnableBeginsStartSweep : Prop :=
  ∀ (s : State) (v : Word), s.regs.part = .disabled → s.regs.enable = false → softResetBit v = false →
    enableBit v = true →
    ∃ t, exec (.enableSet v) s = .next t ∧
      t.regs = { s.regs with enable := true, intEnable := intEnableBit v, part := .starting } ∧
      t.base = s.regs.exchangeHi.toNat * 2 ^ 32 + s.regs.exchangeLo.toNat ∧
      t.sweep = { phase := .setup, kept := [], largest := 0, free := 0 } ∧
      t.desk = {
        generation := 0#32, latest := 0#32, writing := false, again := false, changed := false,
        finishes := 0#32, filings := 0#32, pacing := s.desk.pacing, armed := true, requested := false,
        expired := false, finalAsked := false, finalRunning := false, lines := [] } ∧
      t.orders = { s.orders with finishCounter := 0#32, finishedCount := 0#32 } ∧
      t.sheets = { s.sheets with cursor := 0, tally := 0, hold := false, storageOut := false } ∧
      t.cards = { s.cards with roll := [], cursor := 0 } ∧
      HandedOver s t ((List.range 4).map fun line =>
        readOf .startSweep (.setupRead (line == 3)) ((t.base + 64 * line) % 2 ^ 64)) ∧
      t = { s with
        regs := t.regs, base := t.base, sweep := t.sweep, desk := t.desk, orders := t.orders,
        sheets := t.sheets, cards := t.cards, stackReturned := false, engine := t.engine }

/-- ENABLE_CLEAR (11.4, 1.7, 5.3, 7.3, 7.10, 8.5): in RUNNING it begins the quiesce: the sweep ends, one that stands
at a slot too (the model's choice, log 41), and its reads complete into nothing; the renders in waiting leave the
queue, answered CANCELLED in its order (the model's choice, log 62); its head is stopped by its stage, one not yet
activated drained (DEDUCED, the model's choice, log 25); and every channel that is not BUSY winds down, an IDLE one to
UNBOUND, its open request withdrawn from open queue and search with its card and its sheet request, the search's read
to complete into nothing, one not yet granted too (the model's choice, log 71), one with a letter
to CLOSING. -/
def Obligations.EnableClearBeginsQuiesce : Prop :=
  ∀ (s : State) (v : Word), s.regs.part = .running → s.regs.enable = true → softResetBit v = false →
    enableBit v = false →
    let withdrawn := fun c : Chan => decide (s.chanState c = .idle) && (s.row c).ctx.openRequest.isSome
    ∃ t, exec (.enableClear v) s = .next t ∧
      t.regs = { s.regs with enable := false, intEnable := intEnableBit v, part := .quiescing } ∧
      t.orders.sweep = .idle ∧ t.orders.again = false ∧ t.orders.image = none ∧
      (∀ a ∈ t.engine.waiting ++ t.engine.flight,
        a.purpose ≠ .orderCardRead ∧ ∀ last, a.purpose ≠ .slotRead last) ∧
      t.orders.renders = s.orders.renders.take 1 ∧
      (∀ k ∈ s.orders.renders.drop 1, t.orders.accepted[k] = none) ∧
      (∀ i k, (s.orders.renders.drop 1)[i]? = some k →
        writeOf .orderUnit (.finishResult k) ((s.base + (0x800 + 64 * k.val + 0x30)) % 2 ^ 64)
          (bytesOf 4 2 ++ bytesOf 4 0 ++ bytesOf 4 0 ++
            bytesOf 4 (s.orders.finishCounter + BitVec.ofNat 32 (i + 1)).toNat) ∈ t.engine.waiting) ∧
      (∀ x, s.orders.renders ≠ [] → s.render = some x →
        (∃ y, t.render = some y ∧ y.stop = true ∧ y.ahead = [] ∧ y.slot = x.slot ∧ y.order = x.order ∧
          y.handed = x.handed ∧ y.written = x.written ∧ y.failed = x.failed ∧ y.truncated = x.truncated ∧
          (x.stage ≠ .output ∨ x.decode = none → y.stage = .draining ∧ y.decode = none) ∧
          ∀ d, x.stage = .output → x.decode = some d → y.stage = .output ∧
            y.decode = some { d with tail := if d.inTail then d.tail else 0 }) ∧
        ∀ a ∈ t.engine.waiting ++ t.engine.flight, a.purpose ≠ .renderIndexRead ∧
          (∀ last, a.purpose ≠ .renderCardRead last) ∧ ∀ n i, a.purpose ≠ .renderRecordRead n i) ∧
      (∀ k more o, s.orders.renders = k :: more → k ∉ more → s.render = none →
        s.orders.accepted[k] = some (.render o) →
        ∃ y, t.render = some y ∧ y.slot = k ∧ y.order = o ∧ y.stage = .draining ∧ y.stop = true ∧
          y.failed = none ∧ y.handed = 0 ∧ y.written = 0) ∧
      t.cards.openQueue = s.cards.openQueue.filter (fun c => !withdrawn c) ∧
      (∀ q, s.cards.search = some q → t.cards.search = if withdrawn q.channel then none else some q) ∧
      (∀ q, s.cards.search = some q → withdrawn q.channel = true →
        ∀ a ∈ t.engine.waiting ++ t.engine.flight, a.purpose ≠ .searchRead) ∧
      (∀ c, withdrawn c = true → .index c ∉ t.sheets.waiting ∧
        ∀ card, (s.row c).op = some (.opening (some card)) → Table.get t.cards.holdings card = none) ∧
      t.written = s.written ∧ t.msi = s.msi ∧ t.outputs.map OutputSlot.word = s.outputs.map OutputSlot.word ∧
      ∀ c : Chan,
        (s.chanState c = .unbound → t.chanState c = .unbound) ∧
        (s.chanState c = .idle → (t.row c).ctx = Context.reset) ∧
        (s.chanState c = .ready → t.chanState c = .busy .closing) ∧
        (s.chanState c = .recording → t.chanState c = .busy .closing) ∧
        (s.chanState c = .playing → t.chanState c = .busy .closing) ∧
        ∀ sub, s.chanState c = .busy sub → t.row c = s.row c

/-- EXCHANGE_LO_WRITE, EXCHANGE_HI_WRITE, READ_ONLY_REGISTER_WRITE (11.1): the exchange base is taken in
DISABLED alone, its low 12 bits dropped; writes to IDENT, STATE and FAULT are ignored; and what a read of each
register returns: IDENT, the two bits of CONTROL, the part state, the three fields of FAULT, the exchange base,
and 0 for SWEEP and DESK_ACK. -/
def Obligations.ExchangeAndReadOnlyWrites : Prop :=
  (∀ (s : State) (v : Word),
    (s.regs.part = .disabled →
      exec (.exchangeLoWrite v) s = .next { s with regs := { s.regs with
        exchangeLo := BitVec.ofNat 32 (v.toNat / 4096 * 4096) } } ∧
      exec (.exchangeHiWrite v) s = .next { s with regs := { s.regs with exchangeHi := v } }) ∧
    (s.regs.part ≠ .disabled →
      exec (.exchangeLoWrite v) s = .next s ∧ exec (.exchangeHiWrite v) s = .next s) ∧
    ∀ r, exec (.readOnlyRegisterWrite r v) s = .next s) ∧
  ∀ s : State,
    s.readRegister 0x00 = 0x0D320001#32 ∧
    s.readRegister 0x04 =
      (if s.regs.enable then 1#32 else 0#32) ||| (if s.regs.intEnable then 2#32 else 0#32) ∧
    s.readRegister 0x08 = (match s.regs.part with
      | .disabled => 0#32 | .starting => 1#32 | .running => 2#32 | .quiescing => 3#32 | .faulted => 4#32) ∧
    (s.readRegister 0x0C).toNat % 256 = (match s.regs.fault.kind with
      | .none => 0 | .read => 1 | .write => 2 | .setupInvalid => 3) ∧
    (s.readRegister 0x0C).toNat / 256 % 256 = (match s.regs.fault.area with
      | .none => 0 | .setup => 1 | .desk => 2 | .orders => 3 | .map => 4 | .cards => 5 | .sheets => 6) ∧
    (s.regs.fault.field < 256 → (s.readRegister 0x0C).toNat / 65536 = s.regs.fault.field) ∧
    s.readRegister 0x10 = s.regs.exchangeLo ∧ s.readRegister 0x14 = s.regs.exchangeHi ∧
    s.readRegister 0x18 = 0#32 ∧ s.readRegister 0x1C = 0#32

/-- SWEEP_WRITE, SWEEP_START (7.3): a sweep is asked for while RUNNING; in SWEEPING sweep again is set; in
every other part state nothing is set. A sweep that starts empties the finished set and reads the 32 slots in
ascending order. -/
def Obligations.SweepIsAskedAndReads : Prop :=
  ∀ (s : State) (v : Word),
    (s.regs.part = .running → s.orders.sweep = .idle →
      exec (.sweepWrite v) s = .next { s with orders := { s.orders with sweep := .requested } }) ∧
    (s.regs.part = .running → s.orders.sweep ≠ .idle →
      exec (.sweepWrite v) s = .next { s with orders := { s.orders with again := true } }) ∧
    (s.regs.part ≠ .running → exec (.sweepWrite v) s = .next s) ∧
    (s.regs.part = .running → s.orders.sweep = .requested →
      ∃ t, exec .sweepStart s = .next t ∧
        HandedOver s t ((List.range 32).map fun k =>
          readOf .orderUnit (.slotRead (k == 31)) ((s.base + (0x800 + 64 * k)) % 2 ^ 64)) ∧
        t = { s with
          orders := { s.orders with sweep := .reading, finishedSet := [] }, engine := t.engine })

/-- DESK_ACK_WRITE (R167). -/
def Obligations.DeskAckComparesLatest : Prop :=
  ∀ (s : State) (v : Word),
    let written := { s with regs := { s.regs with deskAck := v } }
    let acts := s.regs.part = .starting ∨ s.regs.part = .running ∨ s.regs.part = .quiescing
    (acts → v = s.desk.latest →
      exec (.deskAckWrite v) s = .next { written with desk := { s.desk with armed := true } }) ∧
    (acts → v ≠ s.desk.latest → s.regs.intEnable = true →
      exec (.deskAckWrite v) s =
        .next { written with desk := { s.desk with armed := false }, msi := s.msi + 1 }) ∧
    (acts → v ≠ s.desk.latest → s.regs.intEnable = false →
      exec (.deskAckWrite v) s = .next { written with desk := { s.desk with armed := true } }) ∧
    (¬ acts → exec (.deskAckWrite v) s = .next written)

/-! ### The start sweep -/

/-- The tests of the setup record (11.3): the first field, in the order of the field numbers, whose value is
not valid is the one that fails. -/
def Obligations.SetupFieldsAreTestedInOrder : Prop :=
  ∀ p : Setup,
    (∀ n, setupFailure p = some n ↔
      1 ≤ n ∧ n ≤ 10 ∧ ¬ FieldValid p n ∧ ∀ m, m < n → FieldValid p m) ∧
    (setupFailure p = none ↔ ∀ n, FieldValid p n)

/-- SETUP_READ_COMPLETE (11.3, 9.1, 10.5): at a field that fails the part is FAULTED with SETUP_INVALID, SETUP and
the field's number, one MSI is raised if INT_ENABLE is set, and no host memory is written; with every field
valid the values are kept and the first card's line is asked for, one read at a time (the model's choice, log 22). -/
def Obligations.SetupReadStartsOrFaults : Prop :=
  ∀ (s : State) (a : Access) (rest : List Access) (data : List Byte),
    Due s .startSweep a rest → a.purpose = .setupRead true →
    (∀ n, setupFailure (setupOf data) = some n →
      ∃ t, exec (.setupReadComplete data) s = .next t ∧
        t.regs = { s.regs with
          part := .faulted, fault := { kind := .setupInvalid, area := .setup, field := n } } ∧
        t.msi = s.msi + (if s.regs.intEnable then 1 else 0) ∧
        t.desk = { s.desk with armed := s.desk.armed && !s.regs.intEnable } ∧
        t.engine = { s.engine with waiting := [], flight := rest } ∧
        t = { s with regs := t.regs, msi := t.msi, desk := t.desk, engine := t.engine, chans := t.chans } ∧
        ∀ c, t.row c = { s.row c with queue := [], ahead := [] }) ∧
    (setupFailure (setupOf data) = none →
      ∃ t, exec (.setupReadComplete data) s = .next t ∧ t.setup = setupOf data ∧
        HandedOver (s.landed rest) t
          [readOf .startSweep .startCardRead ((fieldAt data 0x10 8) % 2 ^ 64)] ∧
        t = { s with setup := t.setup, sweep := { s.sweep with phase := .cards 0 }, engine := t.engine })

/-- START_CARD_READ_COMPLETE (11.3): an OPEN card is written SUSPENDED, its DAMAGED flag set where the checkpoint
state reads WRITING, any byte other than 0 taken so (the model's choice, log 26), the line's other bytes as read,
those that no field names too (DEDUCED, the model's choice, log 69); the state it leaves the card in and the largest
filing sequence are kept; the next card is read, one at a time (the model's choice, log 22), or, after the last, the
filing sequence counter set and map line 0 read. -/
def Obligations.StartSweepDecidesEachCard : Prop :=
  ∀ (s : State) (a : Access) (rest : List Access) (data : List Byte) (n : Nat),
    Due s .startSweep a rest → a.purpose = .startCardRead → s.sweep.phase = .cards n → data.length = 64 →
    ∃ t writes next, exec (.startCardReadComplete data) s = .next t ∧
      t.sweep.kept = s.sweep.kept ++ [if byteAt data 0 = 1 then 3 else byteAt data 0] ∧
      t.sweep.largest = max s.sweep.largest (fieldAt data 4 4) ∧ t.sweep.free = s.sweep.free ∧
      (byteAt data 0 ≠ 1 → writes = []) ∧
      (byteAt data 0 = 1 → ∃ line, writes = [writeOf .startSweep .startCardWrite
          ((s.setup.cardBase + (256 * n + 64 * 0)) % 2 ^ 64) line] ∧ line.length = 64 ∧
        byteAt line 0 = 3 ∧ byteAt line 2 = (if byteAt data 1 = 0 then byteAt data 2 else 1) ∧
        ∀ i, i ≠ 0 → i ≠ 2 → byteAt line i = byteAt data i) ∧
      (n + 1 < s.setup.cardCount → t.sweep.phase = .cards (n + 1) ∧ t.cards = s.cards ∧
        next = readOf .startSweep .startCardRead
          ((s.setup.cardBase + (256 * (n + 1) + 64 * 0)) % 2 ^ 64)) ∧
      (s.setup.cardCount ≤ n + 1 → t.sweep.phase = .map 0 ∧
        t.cards = { s.cards with sequence := t.sweep.largest } ∧
        next = readOf .startSweep .startMapRead ((s.setup.mapBase + 64 * 0) % 2 ^ 64)) ∧
      HandedOver (s.landed rest) t (writes ++ [next]) ∧
      t = { s with sweep := t.sweep, cards := t.cards, engine := t.engine }

/-- START_MAP_READ_COMPLETE (11.3): CLAIMED becomes FREE; AUDIO and INDEX become FILED where the card byte
names a card kept SUSPENDED, else FREE; no other entry is written; the entries left FREE are counted; the
next line is read, one at a time (the model's choice, log 22), or, after the last, the free tally set, which leaves the
storage hold as it was (DEDUCED, the model's choice, log 27), and order slot 0 read. -/
def Obligations.StartSweepDecidesEachMapLine : Prop :=
  ∀ (s : State) (a : Access) (rest : List Access) (data : List Byte) (k : Nat),
    Due s .startSweep a rest → a.purpose = .startMapRead → s.sweep.phase = .map k →
    32 * k < s.setup.sheetCount →
    let entries := (List.range (min 32 (s.setup.sheetCount - 32 * k))).map fun i =>
      (32 * k + i, byteAt data (2 * i), byteAt data (2 * i + 1))
    let suspended := fun card : Nat => decide (card < s.setup.cardCount) && s.sweep.kept[card]? == some 3
    let result := fun (st card : Nat) =>
      if st = 1 then some (0, 0)
      else if st = 2 ∨ st = 3 then some (if suspended card then (4, card) else (0, 0))
      else none
    let writes := entries.filterMap fun (n, st, card) => (result st card).map fun (st', card') =>
      writeOf .startSweep .mapWrite ((s.setup.mapBase + 2 * n) % 2 ^ 64)
        [BitVec.ofNat 8 st', BitVec.ofNat 8 card']
    let free := s.sweep.free + entries.countP fun (_, st, card) =>
      match result st card with
      | some (st', _) => st' == 0
      | none => st == 0
    ∃ t next, exec (.startMapReadComplete data) s = .next t ∧
      HandedOver (s.landed rest) t (writes ++ [next]) ∧ t.sweep.free = free ∧
      t.sweep.kept = s.sweep.kept ∧ t.sweep.largest = s.sweep.largest ∧
      (32 * (k + 1) < s.setup.sheetCount → t.sweep.phase = .map (k + 1) ∧ t.sheets = s.sheets ∧
        next = readOf .startSweep .startMapRead ((s.setup.mapBase + 64 * (k + 1)) % 2 ^ 64)) ∧
      (s.setup.sheetCount ≤ 32 * (k + 1) → t.sweep.phase = .slots 0 ∧
        t.sheets = { s.sheets with tally := free } ∧
        next = readOf .startSweep .startSlotRead ((s.base + (0x800 + 64 * 0)) % 2 ^ 64)) ∧
      t = { s with sweep := t.sweep, sheets := t.sheets, engine := t.engine }

/-- START_SLOT_READ_COMPLETE (11.3, 7.2, 7.4): a slot that reads ACCEPTED is given a finishing write with
RESET_LOST, result values 0 and the next finish number, by the start sweep's own requester (the model's choice,
log 29); any other slot is not written; the next slot is read, one at a time (the model's choice, log 22); after
slot 31 the start sweep waits for its finishing writes, or, where none is under way, has its desk write requested.
-/
def Obligations.StartSweepAnswersAcceptedSlots : Prop :=
  ∀ (s : State) (a : Access) (rest : List Access) (data : List Byte) (k : OrderSlot),
    Due s .startSweep a rest → a.purpose = .startSlotRead → s.sweep.phase = .slots k.val →
    let next := if k.val < 31 then
      [readOf .startSweep .startSlotRead ((s.base + (0x800 + 64 * (k.val + 1))) % 2 ^ 64)] else []
    let number := s.orders.finishCounter + 1#32
    let answering := byteAt data 0 = 2 ∨ ∃ b ∈ s.engine.waiting ++ rest, b.who = .startSweep ∧
      ((∃ j, b.purpose = .finishResult j) ∨ ∃ j, b.purpose = .finishState j)
    ∃ t, exec (.startSlotReadComplete data) s = .next t ∧
      t = { s with sweep := t.sweep, orders := t.orders, engine := t.engine, desk := t.desk } ∧
      (k.val < 31 → t.sweep = { s.sweep with phase := .slots (k.val + 1) } ∧ t.desk = s.desk) ∧
      (k.val = 31 → answering → t.sweep = { s.sweep with phase := .answering } ∧ t.desk = s.desk) ∧
      (k.val = 31 → ¬ answering → t.sweep = { s.sweep with phase := .desk } ∧
        (s.regs.part = .starting → s.desk.writing = false →
          t.desk = { s.desk with requested := true })) ∧
      (byteAt data 0 ≠ 2 → t.orders = s.orders ∧ HandedOver (s.landed rest) t next) ∧
      (byteAt data 0 = 2 → t.orders.finishCounter = number ∧ t.orders.accepted[k] = none ∧
        (∀ j : OrderSlot, j ≠ k → t.orders.accepted[j] = s.orders.accepted[j]) ∧
        HandedOver (s.landed rest) t
          (writeOf .startSweep (.finishResult k) ((s.base + (0x800 + 64 * k.val + 0x30)) % 2 ^ 64)
            (bytesOf 4 6 ++ bytesOf 4 0 ++ bytesOf 4 0 ++ bytesOf 4 number.toNat) :: next))

/-! ### The talk highway -/

/-- INPUT_FRAME (6.2, 6.3, 1.7): a frame is present when its word arrived, its type is IDLE or KEY and its check
byte holds; the line of an owned timeslot goes DOWN on an absent frame, rises to UP by the recover count of
present ones and then stays UP, and its fall from UP ends a take or playback. The frame stays in the assembly to
the boundary, and one that finds the assembly full is no frame and has no effect in any part state (the model's
choices, logs 14 and 16). In FAULTED, and on a timeslot without an owner, as every one is in STARTING, a frame fills
the assembly and moves no line. -/
def Obligations.InputFramesMoveTheLine : Prop :=
  (framePresent none = false ∧ ∀ w : Word, framePresent (some w) = true ↔
    w.toNat % 256 ≤ 1 ∧
      w.toNat / 2 ^ 24 = (w.toNat % 256) ^^^ (w.toNat / 2 ^ 8 % 256) ^^^ (w.toNat / 2 ^ 16 % 256)) ∧
  (∀ (s : State) (k : Timeslot) (samples : List Sample) (word : Option Word),
    (s.inputs[k].assembly ≠ none → exec (.inputFrame k samples word) s = .next s) ∧
    (s.inputs[k].assembly = none → s.regs.part = .faulted ∨ s.inputs[k].owner = none →
      exec (.inputFrame k samples word) s = .next { s with
        inputs := s.inputs.set k { s.inputs[k] with
          assembly := some { samples := samples, word := word } } })) ∧
  ∀ (s : State) (k : Timeslot) (c : Chan) (samples : List Sample) (word : Option Word) (old : LineState),
    s.regs.part ≠ .faulted → s.regs.part ≠ .starting → s.inputs[k].assembly = none →
    s.inputs[k].owner = some c → s.inputs[k].line = some old →
    let count := (s.row c).ctx.recover
    let good := s.inputs[k].good
    ∃ t line' good', exec (.inputFrame k samples word) s = .next t ∧
      t.inputs = s.inputs.set k {
        owner := some c, line := some line', good := good',
        assembly := some { samples := samples, word := word } } ∧
      (framePresent word = false → line' = .down ∧ good' = 0) ∧
      (framePresent word = true → old = .up → line' = .up ∧ good' = good) ∧
      (framePresent word = true → old = .down → count ≤ 1 → line' = .up ∧ good' = 1) ∧
      (framePresent word = true → old = .down → 1 < count → line' = .settling ∧ good' = 1) ∧
      (framePresent word = true → old = .settling → good + 1 < count →
        line' = .settling ∧ good' = good + 1) ∧
      (framePresent word = true → old = .settling → count ≤ good + 1 → line' = .up ∧ good' = count) ∧
      (old ≠ .up ∨ (framePresent word = false ∧ s.chanState c ≠ .recording ∧ s.chanState c ≠ .playing) →
        t = { s with inputs := t.inputs, desk := t.desk } ∧ DeskReported s t) ∧
      (old = .up → framePresent word = false → s.chanState c = .recording →
        t.chanState c = .busy .saving) ∧
      (old = .up → framePresent word = false → s.chanState c = .playing → t.chanState c = .ready) ∧
      OtherRows c s t

/-- INPUT_FRAME (6.3, 1.3, 1.7): a key of a present frame on a line that is UP joins the tail of its channel's
queue; the ninth is discarded with REFUSED; an UNBOUND channel and one in CLOSING discard it, and in QUIESCING every
channel does; in RECORDING the frame's samples are heard first and the key then joins, or is refused, as elsewhere
(the model's choice of the order, log 42). The frame stays in the assembly to the boundary (the model's choice,
log 16). -/
def Obligations.KeysJoinTheQueue : Prop :=
  ∀ (s : State) (k : Timeslot) (c : Chan) (samples : List Sample) (w : Word),
    s.inputs[k].assembly = none → s.inputs[k].owner = some c →
    s.inputs[k].line = some .up → framePresent (some w) = true → w.toNat % 256 = 1 →
    let x := (s.row c).ctx
    let key : Key := { code := w.toNat / 2 ^ 8 % 256, arg := w.toNat / 2 ^ 16 % 256 }
    let heard : State := { s with
      inputs := s.inputs.set k { s.inputs[k] with
        assembly := some { samples := samples, word := some w } } }
    (s.regs.part = .quiescing →
      ∃ t, exec (.inputFrame k samples (some w)) s = .next t ∧ OtherRows c s t ∧
        (s.chanState c ≠ .recording → t = heard) ∧ (t.row c).ctx.keys = x.keys) ∧
    (s.regs.part = .running → ∃ t, exec (.inputFrame k samples (some w)) s = .next t ∧ OtherRows c s t ∧
      (s.chanState c = .unbound ∨ s.chanState c = .busy .closing → t = heard) ∧
      (s.chanState c ≠ .recording → s.chanState c ≠ .unbound → s.chanState c ≠ .busy .closing →
        x.keys.length < 8 → ContextBecomes heard t c { x with keys := x.keys ++ [key] }) ∧
      (s.chanState c ≠ .recording → s.chanState c ≠ .unbound → s.chanState c ≠ .busy .closing →
        8 ≤ x.keys.length → ContextBecomes heard t c { x with transient := some (.refused, 32) }) ∧
      (s.chanState c = .recording → x.keys.length < 8 → (t.row c).ctx.keys = x.keys ++ [key]) ∧
      (s.chanState c = .recording → 8 ≤ x.keys.length →
        (t.row c).ctx.keys = x.keys ∧ (t.row c).ctx.transient = some (.refused, 32)))

/-- INPUT_FRAME (1.5, 2.2, 2.4, 2.5, 3.4, 3.5, 3.7, 4.4, 10.2, 10.3): the frame of a channel in RECORDING
becomes no record, one or two. A record placed goes to the next slot of the write sheet, a new sheet given where
there is none; it extends the span before the cursor or starts a span, its sheet gains a live count, its write is
handed over, and cursor and length move on; in OVERWRITE old records are removed behind it, and a sheet left
without records is freed. A record that finds the write queue full joins the lost frames. A delivered frame counts
as one codec operation (the model's choice, log 15). -/
def Obligations.VoiceFrameIsPlaced : Prop :=
  (∀ (s : State) (k : Timeslot) (c : Chan) (samples : List Sample) (word : Option Word) (w : WriteSheet)
      (p : Placement),
    let r := s.row c
    let xs := samples.map BitVec.toInt
    let record := voiceRecord r.ctx.gain xs
    s.regs.part ≠ .faulted → s.inputs[k].assembly = none → s.inputs[k].owner = some c →
    s.inputs[k].line = some .up → framePresent word = true → (∀ v, word = some v → v.toNat % 256 = 0) →
    r.ctx.state = .recording → r.op = none → r.queue = [] → r.codec.pending = 0 → r.codec.lost = 0 →
    r.placement = some p → p.mode ≠ .overwrite → p.spanOpen = false → r.spanList.length < 1024 →
    r.sheet = some w → w.next ≤ 127 → r.length < 120000 →
    r.ctx.threshold ≤ ((xs.map (gainSample r.ctx.gain)).map Int.natAbs).sum / 128 →
    ∃ t, exec (.inputFrame k samples word) s = .next t ∧
      (t.row c).ctx = { r.ctx with cursor := r.ctx.cursor + 1 } ∧
      (t.row c).length = r.length + 1 ∧
      (t.row c).spans = some ((cutAt r.spanList r.ctx.cursor).1 ++
        { sheet := w.sheet, first := w.next, count := 1, frames := 1, instruction := r.ctx.instruct } ::
          (cutAt r.spanList r.ctx.cursor).2) ∧
      (t.row c).sheet = some { w with next := w.next + 1 } ∧
      (t.row c).queue = [.ready record w.card w.sheet w.next] ∧
      t.live w.sheet = s.live w.sheet + 1 ∧ (∀ n, n ≠ w.sheet → t.live n = s.live n) ∧
      (∀ n, n ≠ 128 * w.sheet + w.next →
        Table.get t.letters.records n = Table.get s.letters.records n) ∧
      Table.get t.letters.records (128 * w.sheet + w.next) = some {
        frames := 1, kind := if clipCount r.ctx.gain xs = 0 then .voice else .clipped } ∧
      HandedOver s t (writeOf (.channel c) (.recordWrite w.card w.sheet w.next)
          ((s.setup.poolBase + (8192 * w.sheet + 64 * w.next)) % 2 ^ 64) record.bytes ::
        (if w.next = 127 then [headerWriteOf s.setup c w 127] else [])) ∧
      t.codec = { s.codec with inputOps := s.codec.inputOps + 1 } ∧ OtherRows c s t ∧
      t = { s with
        inputs := t.inputs, chans := t.chans, letters := t.letters, engine := t.engine, codec := t.codec,
        desk := t.desk }) ∧
  ∀ (s : State) (k : Timeslot) (c : Chan) (samples : List Sample) (word : Option Word) (p : Placement)
      (run : PauseRun) (records : List Rec),
    HeardInTake s k c word p →
    let r := s.row c
    encodeFrame r.ctx.gain r.ctx.threshold r.ctx.hangover r.ctx.maxPause r.codec
      (samples.map BitVec.toInt) = (run, records) →
    (records = [] → ∃ t, exec (.inputFrame k samples word) s = .next t ∧
      t.row c = { r with codec := run } ∧ OtherRows c s t ∧
      t = { s with
        inputs := t.inputs, chans := t.chans,
        codec := { s.codec with inputOps := s.codec.inputOps + 1 } }) ∧
    (∀ rec, records = [rec] → firstWaiting r.queue = none → 4 ≤ r.queue.length →
      ∃ t, exec (.inputFrame k samples word) s = .next t ∧
        t.row c = { r with codec := { run with lost := min (r.codec.lost + rec.frames) 120000 } } ∧
        OtherRows c s t ∧ t.engine = s.engine ∧ t.letters = s.letters) ∧
    (firstWaiting r.queue = none → r.codec.lost = 0 →
      (∀ rec w before after, records = [rec] → r.queue.length < 4 → r.length + rec.frames ≤ 120000 →
        AtCursor r before after → r.sheet = some w → w.next ≤ 127 → p.mode ≠ .overwrite →
        Extends before p.spanOpen r.ctx.instruct w ∨ (before ++ after).length < 1024 →
        ∃ t spans, exec (.inputFrame k samples word) s = .next t ∧
          Joined before after p.spanOpen r.ctx.instruct w 1 rec.frames spans ∧
          t.row c = { r with
            spans := some spans, codec := run, ctx := { r.ctx with cursor := r.ctx.cursor + rec.frames },
            placement := some { p with recorded := p.recorded + rec.frames, spanOpen := true },
            sheet := some { w with next := w.next + 1 },
            queue := r.queue ++ [.ready rec w.card w.sheet w.next] } ∧
          RecordEntered s t w.sheet w.next rec ∧ HandedOver s t (placedWrites s.setup c w rec) ∧
          OtherRows c s t) ∧
      (∀ rec top more l before after, records = [rec] → r.queue.length < 4 →
        r.length + rec.frames ≤ 120000 → AtCursor r before after → (before ++ after).length < 1024 →
        (r.sheet = none ∨ ∃ w, r.sheet = some w ∧ 127 < w.next) → p.mode ≠ .overwrite →
        s.sheets.waiting = [] → s.sheets.stack = top :: more → r.ctx.letter = some l →
        let w : WriteSheet := { sheet := top, next := 1, card := l.card, take := l.takes % 256 }
        ∃ t, exec (.inputFrame k samples word) s = .next t ∧
          t.row c = { r with
            spans := some (before ++ {
              sheet := top, first := 1, count := 1, frames := rec.frames,
              instruction := r.ctx.instruct } :: after),
            codec := run, ctx := { r.ctx with cursor := r.ctx.cursor + rec.frames },
            placement := some { p with recorded := p.recorded + rec.frames, spanOpen := true },
            sheet := some { w with next := 2 }, queue := r.queue ++ [.ready rec l.card top 1] } ∧
          t.sheets.stack = more ∧ t.sheets.tally = s.sheets.tally ∧ RecordEntered s t top 1 rec ∧
          HandedOver s t (mapWriteOf s.setup .sheetManager .mapWrite top 2 l.card ::
            placedWrites s.setup c w rec) ∧ OtherRows c s t) ∧
      (∀ pause voice w before after, records = [pause, voice] → r.queue.length < 3 →
        r.length + pause.frames + voice.frames ≤ 120000 → AtCursor r before after → r.sheet = some w →
        w.next ≤ 126 → p.mode ≠ .overwrite →
        Extends before p.spanOpen r.ctx.instruct w ∨ (before ++ after).length < 1024 →
        ∃ t spans, exec (.inputFrame k samples word) s = .next t ∧
          Joined before after p.spanOpen r.ctx.instruct w 2 (pause.frames + voice.frames) spans ∧
          t.row c = { r with
            spans := some spans, codec := run,
            ctx := { r.ctx with cursor := r.ctx.cursor + pause.frames + voice.frames },
            placement := some { p with
              recorded := p.recorded + pause.frames + voice.frames, spanOpen := true },
            sheet := some { w with next := w.next + 1 + 1 },
            queue := r.queue ++ [.ready pause w.card w.sheet w.next,
              .ready voice w.card w.sheet (w.next + 1)] } ∧
          t.live w.sheet = s.live w.sheet + 2 ∧
          Table.get t.letters.records (128 * w.sheet + w.next) = some pause.entry ∧
          Table.get t.letters.records (128 * w.sheet + (w.next + 1)) = some voice.entry ∧
          HandedOver s t (placedWrites s.setup c w pause ++
            placedWrites s.setup c { w with next := w.next + 1 } voice) ∧ OtherRows c s t) ∧
      ∀ rec w before old more, records = [rec] → r.queue.length < 4 → r.length + rec.frames ≤ 120000 →
        AtCursor r before (old :: more) → 0 < old.frames → old.first ≤ 127 → old.sheet ≠ w.sheet → r.sheet = some w →
        w.next ≤ 127 → p.mode = .overwrite →
        Extends before p.spanOpen r.ctx.instruct w ∨ (before ++ old :: more).length < 1024 →
        let f := slotFrames s.letters.records old.sheet old.first
        let left := if old.count ≤ 1 then more else
          { old with first := old.first + 1, count := old.count - 1, frames := old.frames - f } :: more
        let used := ∃ d v, (s.row d).sheet = some v ∧ v.sheet = old.sheet
        p.removed < p.recorded + rec.frames → p.recorded + rec.frames ≤ p.removed + f →
        ∃ t spans, exec (.inputFrame k samples word) s = .next t ∧
          Joined before left p.spanOpen r.ctx.instruct w 1 rec.frames spans ∧
          t.row c = { r with
            spans := some spans, codec := run, ctx := { r.ctx with cursor := r.ctx.cursor + rec.frames },
            placement := some { p with
              recorded := p.recorded + rec.frames, removed := p.removed + f, spanOpen := true },
            sheet := some { w with next := w.next + 1 },
            queue := r.queue ++ [.ready rec w.card w.sheet w.next] } ∧
          Table.get t.letters.records (128 * old.sheet + old.first) = none ∧
          t.live old.sheet = s.live old.sheet - 1 ∧ t.live w.sheet = s.live w.sheet + 1 ∧
          (1 < s.live old.sheet ∨ used → HandedOver s t (placedWrites s.setup c w rec) ∧
            t.sheets = s.sheets) ∧
          (s.live old.sheet = 1 → ¬ used →
            (∀ b ∈ s.engine.waiting ++ s.engine.flight, ∀ n, b.purpose ≠ .headerWrite n old.sheet) →
            HandedOver s t (placedWrites s.setup c w rec ++
              [mapWriteOf s.setup .sheetManager .mapWrite old.sheet 0 0]) ∧
            t.sheets.tally = min (s.sheets.tally + 1) s.setup.sheetCount) ∧
          OtherRows c s t)

/-- FRAME_BOUNDARY (6.1, 6.5, 1.6, 3.1): every input assembly is empty; an unowned output carries zero samples
and the all-off word, one whose owner's line is not UP zero samples and the blank word, any other its owner's
panel word; a channel that is not PLAYING sends zero samples; one that is PLAYING sends zero samples until its
output has begun and where its record is late, and then stands still, else a frame of the record at the play
position, which moves on; at a record's end the cursor follows and a further record is asked for, and at L
playback ends in READY; in FAULTED every output is silent. -/
def Obligations.FrameBoundaryFillsOutputs : Prop :=
  (∀ s : State, ∃ t, exec .frameBoundary s = .next t ∧
    t.pending = s.pending ∧ t.regs = s.regs ∧ t.setup = s.setup ∧ t.written = s.written ∧ t.msi = s.msi ∧
    t.cards = s.cards ∧ t.orders = s.orders ∧ t.render = s.render ∧
    (∀ k : Timeslot, t.inputs[k].assembly = none ∧ t.inputs[k].owner = s.inputs[k].owner ∧
      t.outputs[k].owner = s.outputs[k].owner) ∧
    (s.regs.part = .faulted → (∀ k : Timeslot, t.outputs[k].samples = List.replicate 120 0#16 ∧
        t.outputs[k].word = List.replicate 8 0#8) ∧
      t = { s with inputs := t.inputs, outputs := t.outputs }) ∧
    (s.regs.part ≠ .faulted → ∀ k : Timeslot,
      (s.outputs[k].owner = none →
        t.outputs[k].samples = List.replicate 120 0#16 ∧ t.outputs[k].word = List.replicate 8 0#8) ∧
      ∀ c, s.outputs[k].owner = some c →
        (t.lineOf c ≠ some .up → t.outputs[k].samples = List.replicate 120 0#16 ∧
          t.outputs[k].word = List.replicate 7 0#8 ++ [0xFF#8]) ∧
        (t.lineOf c = some .up → t.outputs[k].word = (t.row c).ctx.panel) ∧
        (s.chanState c ≠ .playing → t.outputs[k].samples = List.replicate 120 0#16))) ∧
  ∀ (s : State) (c : Chan) (k : Timeslot), s.regs.part ≠ .faulted → s.chanState c = .playing →
    s.lineOf c = some .up → (∀ j : Timeslot, s.outputs[j].owner = some c ↔ j = k) →
    (∀ j : Timeslot, s.inputs[j].owner ≠ none → s.inputs[j].assembly ≠ none) →
    let r := s.row c
    let asks := fun (t : State) (more : List PlayPlace) =>
      t.engine.waiting.filter (fun a => a.who = .channel c) =
        s.engine.waiting.filter (fun a => a.who = .channel c) ++ playReads s.setup c more
    ∃ t, exec .frameBoundary s = .next t ∧ (t.row c).spans = r.spans ∧ (t.row c).queue = r.queue ∧
      (r.began = false ∨ (∀ q, r.ahead.head? = some q → q.data = none) ∨ r.ctx.playPos = none →
        t.outputs[k].samples = List.replicate 120 0#16 ∧ (t.row c).ahead = r.ahead ∧
        (t.row c).began = r.began ∧ t.chanState c = .playing ∧ (t.row c).ctx.playPos = r.ctx.playPos ∧
        (t.row c).ctx.cursor = r.ctx.cursor ∧ asks t []) ∧
      ∀ q tail data p, r.began = true → r.ahead = q :: tail → q.data = some data → r.ctx.playPos = some p →
        t.outputs[k].samples = (if byteAt data 0 % 16 = 15 then List.replicate 120 0#16
          else toSamples (decodeVoice data)) ∧
        (p + 1 < q.start + q.frames → (t.row c).ahead = r.ahead ∧ (t.row c).began = true ∧
          t.chanState c = .playing ∧ (t.row c).ctx.playPos = some (p + 1) ∧
          (t.row c).ctx.cursor = r.ctx.cursor ∧ asks t []) ∧
        (q.start + q.frames ≤ p + 1 → p + 1 ≠ r.length → ∃ more, (t.row c).ahead = tail ++ more ∧
          AsksFrom s.letters.records r.spanList (placesEnd (p + 1) tail) tail more ∧
          (t.row c).began = true ∧ t.chanState c = .playing ∧ (t.row c).ctx.playPos = some (p + 1) ∧
          (t.row c).ctx.cursor = p + 1 ∧ asks t more) ∧
        (q.start + q.frames ≤ p + 1 → p + 1 = r.length → (t.row c).ahead = [] ∧
          t.chanState c = .ready ∧ (t.row c).ctx.playPos = none ∧ (t.row c).ctx.cursor = r.length ∧
          ∀ a ∈ t.engine.waiting, a.plays c = false)

/-- FRAME_BOUNDARY, TRANSIENT_NOTICE_EXPIRY (1.3, 6.4, 6.6, 6.7, 6.8, 12.7): where no frame is missing, the panel
step of every bound channel gives each lamp its mode and phase, the READY lamp OFF in RECORDING (the model's
choice, log 48), and forms eight bytes: the lamp levels, the mode flags with the storage hold, the notice shown,
position and length in seconds, and the exclusive OR of the seven; then it lowers the notice by one frame,
clearing it in its last. The expiry clears a notice with no frame left and touches no other (the model's choice,
log 32). -/
def Obligations.PanelStepShowsAndLowersNotices : Prop :=
  (∀ (s : State) (c : Chan), s.regs.part ≠ .faulted → s.chanState c ≠ .unbound →
    (∀ k : Timeslot, s.inputs[k].owner ≠ none → s.inputs[k].assembly ≠ none) →
    let x := (s.row c).ctx
    let record := lampAfter x.lampRecord (if x.state = .recording then .on else .off)
    let ready := lampAfter x.lampReady (match x.state with
      | .ready => .on | .playing => .blink | .busy _ => .wink | _ => .off)
    let attention := lampAfter x.lampAttention (if x.host ≠ none then .on
      else if x.transient ≠ none then .wink else if s.sheets.hold then .blink else .off)
    let position := if x.letter = none then 0
      else if x.state = .playing then x.playPos.getD x.cursor else x.cursor
    let length := if x.letter = none then 0 else (s.row c).length
    ∃ t, exec .frameBoundary s = .next t ∧ (t.row c).ctx.panel.length = 8 ∧
      (t.row c).ctx.panel.foldl (· ^^^ ·) 0#8 = 0#8 ∧
      (t.row c).ctx.lampRecord = record ∧ (t.row c).ctx.lampReady = ready ∧
      (t.row c).ctx.lampAttention = attention ∧
      byteAt (t.row c).ctx.panel 0 = lampBit record + 2 * lampBit ready + 4 * lampBit attention ∧
      byteAt (t.row c).ctx.panel 1 = flagBits x + (if s.sheets.hold then 8 else 0) ∧
      fieldAt (t.row c).ctx.panel 3 2 = position * 3 / 200 % 2 ^ 16 ∧
      fieldAt (t.row c).ctx.panel 5 2 = length * 3 / 200 % 2 ^ 16 ∧
      (t.row c).ctx.panel[2]? = some (BitVec.ofNat 8 (noticeShown x)) ∧
      (∀ n k, (s.row c).ctx.transient = some (n, k) →
        (t.row c).ctx.transient = if k ≤ 1 then none else some (n, k - 1)) ∧
      ((s.row c).ctx.transient = none → (t.row c).ctx.transient = none)) ∧
  ∀ (s : State) (c : Chan),
    (∀ n, s.regs.part ≠ .faulted → s.regs.part ≠ .starting → (s.row c).ctx.transient = some (n, 0) →
      ∃ t, exec (.transientNoticeExpiry c) s = .next t ∧
        ContextBecomes s t c { (s.row c).ctx with transient := none }) ∧
    ((∀ n, (s.row c).ctx.transient ≠ some (n, 0)) → exec (.transientNoticeExpiry c) s = .next s)

/-- FRAME_BOUNDARY, PACING_EXPIRY (9.4, 7.3, 4.3): the pacing count rises at each boundary while RUNNING or
QUIESCING and is 0 again at an expiry; the expiry asks for a sweep in RUNNING, may start a claim scan, in
QUIESCING while the conditions of the stack return do not hold, and requests a desk write while changed is set;
with none due the command has no effect (the model's choice, log 31). -/
def Obligations.PacingTimerExpires : Prop :=
  (∀ s : State, ∃ t, exec .frameBoundary s = .next t ∧
    (s.regs.part = .running ∨ s.regs.part = .quiescing →
      (s.desk.pacing + 1 < s.setup.pacing →
        t.desk.pacing = s.desk.pacing + 1 ∧ t.desk.expired = s.desk.expired) ∧
      (s.setup.pacing ≤ s.desk.pacing + 1 → t.desk.pacing = 0 ∧ t.desk.expired = true)) ∧
    (s.regs.part ≠ .running → s.regs.part ≠ .quiescing →
      t.desk.pacing = s.desk.pacing ∧ t.desk.expired = s.desk.expired)) ∧
  (∀ s : State, s.regs.part = .running →
    (s.desk.expired = false → exec .pacingExpiry s = .next s) ∧
    (s.desk.expired = true → exec .pacingExpiry s = .next { s with
      orders := if s.orders.sweep = .idle then { s.orders with sweep := .requested }
        else { s.orders with again := true },
      sheets := if s.sheets.scan = .idle ∧ s.sheets.stack.length < 8
        then { s.sheets with scan := .starting, examined := 0, scanAgain := false } else s.sheets,
      desk := { s.desk with
        expired := false,
        requested := s.desk.requested || (s.desk.changed && !s.desk.writing),
        again := s.desk.again || (s.desk.changed && s.desk.writing) } })) ∧
  ∀ s : State, s.regs.part = .quiescing →
    let settled := s.cards.openQueue = [] ∧ s.cards.search = none ∧
      ∀ c : Chan, s.chanState c = .unbound ∧ (s.row c).op = none ∧ (s.row c).discards = []
    (s.desk.expired = false → exec .pacingExpiry s = .next s) ∧
    (s.desk.expired = true → ∃ t, exec .pacingExpiry s = .next t ∧
      (s.sheets.scan = .idle → s.sheets.stack.length < 8 → ¬ settled →
        t.sheets = { s.sheets with scan := .starting, examined := 0, scanAgain := false }) ∧
      (s.sheets.scan ≠ .idle ∨ 8 ≤ s.sheets.stack.length ∨ settled → t.sheets = s.sheets) ∧
      t = { s with
        sheets := t.sheets,
        desk := { s.desk with
          expired := false,
          requested := s.desk.requested || (s.desk.changed && !s.desk.writing),
          again := s.desk.again || (s.desk.changed && s.desk.writing) } })

/-! ### Keys -/

/-- Refused keys (1.3, 1.6, 1.8): in IDLE the keys that need a letter, REWIND and FORWARD with the argument 0, INSERT
in RECORDING, and INVALID_KEY for a code outside 1 to 14: the key goes and REFUSED stands for 32 frames. -/
def Obligations.RefusedKeysLeaveNotice : Prop :=
  ∀ (s : State) (c : Chan) (st : ChanState) (code arg : Nat) (rest : List Key),
    KeyAtHead s c st code arg rest → st ∈ [ChanState.idle, .ready, .recording, .playing] →
    let refused := fun i : Instr => ∃ t, exec i s = .next t ∧
      ContextBecomes s t c { (s.row c).ctx with keys := rest, transient := some (.refused, 32) }
    (∀ i, st = .idle → (code, i) ∈ [(4, Instr.keyPlay c), (7, .keyStart c), (8, .keyEnd c),
      (11, .keyUrgent c), (12, .keyFile c), (13, .keyDiscard c)] → refused i) ∧
    (∀ i, st = .idle ∨ arg = 0 → (code, i) ∈ [(5, Instr.keyRewind c), (6, .keyForward c)] → refused i) ∧
    (st = .recording → code = 9 → refused (.keyInsert c)) ∧
    (code = 0 ∨ 14 < code → refused (.invalidKey c))

/-- NEW, STOP, PLAY, REWIND, FORWARD, START, END, FILE in RECORDING (1.5, 2.4, 3.4, 3.6, 4.4, 10.3): the take ends
into SAVING; STOP goes, any other key waits at the head of the queue; where nothing is pending the write sheet
closes and the checkpoint waits for the write queue; a pending pause is placed first, extending the span before
the cursor or as a new span, or, at a full write queue, joins the lost frames (DEDUCED, the model's choice, log
17). -/
def Obligations.KeysEndATake : Prop :=
  ∀ (s : State) (c : Chan) (code arg : Nat) (rest : List Key) (i : Instr),
    KeyAtHead s c .recording code arg rest →
    (code, i) ∈ [(1, Instr.keyNew c), (3, .keyStop c), (4, .keyPlay c), (7, .keyStart c), (8, .keyEnd c),
      (12, .keyFile c)] ∨ (arg ≠ 0 ∧ (code, i) ∈ [(5, Instr.keyRewind c), (6, .keyForward c)]) →
    let r := s.row c
    ∃ t, exec i s = .next t ∧ OtherRows c s t ∧ t.regs = s.regs ∧ t.written = s.written ∧ t.msi = s.msi ∧
      t.chanState c = .busy .saving ∧ (t.row c).sheet = none ∧
      (t.row c).ctx.keys = (if code = 3 then rest else { code := code, arg := arg } :: rest) ∧
      (t.row c).ctx.letter = (s.row c).ctx.letter ∧
      (t.row c).op ∈ [some (.checkpoint .placing), some (.checkpoint .draining)] ∧
      (∀ w p, (s.row c).sheet = some w → w.next ≤ 127 → (s.row c).placement = some p →
        (s.row c).queue = [] → (s.row c).codec.pending = 0 → (s.row c).codec.lost = 0 →
        s.live w.sheet ≠ 0 →
        (t.row c).op = some (.checkpoint .draining) ∧ (t.row c).queue = [] ∧
        HandedOver s t [headerWriteOf s.setup c w (w.next - 1)] ∧
        t = { s with chans := t.chans, engine := t.engine, desk := t.desk }) ∧
      ∀ w p, r.sheet = some w → r.placement = some p → firstWaiting r.queue = none → r.codec.lost = 0 →
        0 < r.codec.pending → s.live w.sheet ≠ 0 →
        (4 ≤ r.queue.length → (t.row c).op = some (.checkpoint .placing) ∧ (t.row c).queue = r.queue ∧
          (t.row c).spans = r.spans ∧ (t.row c).flush = none ∧ t.engine = s.engine ∧
          (t.row c).codec = { silent := 0, pending := 0, lost := min r.codec.pending 120000 }) ∧
        ∀ before after, r.queue.length < 4 → r.length + r.codec.pending ≤ 120000 → w.next ≤ 127 →
          p.mode ≠ .overwrite → AtCursor r before after →
          Extends before p.spanOpen r.ctx.instruct w ∨ (before ++ after).length < 1024 →
          let pause := Rec.pause r.codec.pending false
          ∃ spans, Joined before after p.spanOpen r.ctx.instruct w 1 r.codec.pending spans ∧
            (t.row c).spans = some spans ∧ (t.row c).op = some (.checkpoint .draining) ∧
            (t.row c).queue = r.queue ++ [.ready pause w.card w.sheet w.next] ∧
            (t.row c).ctx.cursor = r.ctx.cursor + r.codec.pending ∧
            (t.row c).codec = { silent := 0, pending := 0, lost := 0 } ∧ (t.row c).flush = none ∧
            RecordEntered s t w.sheet w.next pause ∧
            HandedOver s t [writeOf (.channel c) (.recordWrite w.card w.sheet w.next)
                ((s.setup.poolBase + (8192 * w.sheet + 64 * w.next)) % 2 ^ 64) pause.bytes,
              headerWriteOf s.setup c w w.next]

/-- INSERT, INSTRUCT, URGENT, ACKNOWLEDGE (1.6, 3.4): the flags, the letter's priority and the host notice;
INSTRUCT in a take ends the current span where it changes the flag. -/
def Obligations.ModeKeysSetFlags : Prop :=
  ∀ (s : State) (c : Chan) (st : ChanState) (code arg : Nat) (rest : List Key),
    KeyAtHead s c st code arg rest → st ∈ [ChanState.idle, .ready, .recording, .playing] →
    let x := (s.row c).ctx
    (code = 9 → st ≠ .recording → ∃ t, exec (.keyInsert c) s = .next t ∧
      ContextBecomes s t c { x with keys := rest, insert := decide (arg ≠ 0) }) ∧
    (code = 10 → ∃ t, exec (.keyInstruct c) s = .next t ∧
      RowBecomes s t c { s.row c with
        ctx := { x with keys := rest, instruct := decide (arg ≠ 0) },
        placement := (s.row c).placement.map fun p => { p with
          spanOpen := p.spanOpen && !decide (st = .recording ∧ x.instruct ≠ decide (arg ≠ 0)) } }) ∧
    (code = 11 → st ≠ .idle → ∃ t, exec (.keyUrgent c) s = .next t ∧
      ContextBecomes s t c { x with
        keys := rest,
        letter := x.letter.map fun l => { l with
          priority := if arg = 0 then .routine else .urgent } }) ∧
    (code = 14 → ∃ t, exec (.keyAcknowledge c) s = .next t ∧
      ContextBecomes s t c { x with keys := rest, host := none })

/-- REWIND, FORWARD, START, END in READY (1.6, 3.1): the cursor goes to the start of the record that holds the
target, as span list and record table give it; a target at or beyond the letter's end to its end. -/
def Obligations.MovesInReadySetTheCursor : Prop :=
  ∀ (s : State) (c : Chan) (code arg : Nat) (rest : List Key) (i : Instr) (target : Nat),
    KeyAtHead s c .ready code arg rest →
    let x := (s.row c).ctx
    let l := (s.row c).length
    (i, code, target) ∈ [(Instr.keyRewind c, 5, x.cursor - arg * 200 / 3),
      (.keyForward c, 6, min l (x.cursor + arg * 200 / 3)), (.keyStart c, 7, 0), (.keyEnd c, 8, l)] →
    (code = 5 ∨ code = 6 → arg ≠ 0) →
    ∃ t p, exec i s = .next t ∧ ContextBecomes s t c { x with keys := rest, cursor := p } ∧
      p = snap s.letters.records (s.row c).spanList target ∧ (l ≤ target → p = l) ∧
      (target < l → p ≤ target ∧
        ∀ q, RecordHolds s.letters.records (s.row c).spanList target q → p = q.start) ∧
      (target = 0 → p = 0)

/-- PLAY, STOP, REWIND, FORWARD, START, END at a letter being played or about to be (1.6, 3.1, 10.2): playback
begins at a position with its read-ahead emptied; the records from there on are asked for, each place holding the
sheet, slot, start and frames of the record that follows in letter order, up to four, fewer where the letter ends;
STOP leaves the cursor at the start of the record that was playing; a move to the end of the letter ends
playback. -/
def Obligations.PlaybackBeginsMovesAndStops : Prop :=
  ∀ (s : State) (c : Chan) (st : ChanState) (code arg : Nat) (rest : List Key), KeyAtHead s c st code arg rest →
    let x := (s.row c).ctx
    let spans := (s.row c).spanList
    let l := (s.row c).length
    let base := x.playPos.getD x.cursor
    let plays := fun (t : State) (p : Nat) =>
      (t.row c).ctx = { x with keys := rest, state := .playing, cursor := p, playPos := some p } ∧
      (t.row c).began = false ∧ AsksFrom s.letters.records spans p [] (t.row c).ahead ∧
      HandedOver (s.readsGone c) t (playReads s.setup c (t.row c).ahead) ∧
      t = { s with chans := t.chans, engine := t.engine, desk := t.desk }
    let stops := fun (t : State) (p : Nat) =>
      (t.row c).ctx = { x with keys := rest, state := .ready, cursor := p, playPos := none } ∧
      (t.row c).ahead = [] ∧ (t.row c).began = false ∧ t.engine = (s.readsGone c).engine ∧
      t = { s with chans := t.chans, engine := t.engine, desk := t.desk }
    let moves := fun (i : Instr) (target : Nat) => ∃ t p, exec i s = .next t ∧ OtherRows c s t ∧
      p = snap s.letters.records spans target ∧ (l ≤ target → p = l) ∧
      (target < l → ∀ q, RecordHolds s.letters.records spans target q → p = q.start) ∧
      (p < l → plays t p) ∧ (l ≤ p → stops t l)
    (st = .ready → code = 4 → x.cursor < l →
      ∃ t, exec (.keyPlay c) s = .next t ∧ OtherRows c s t ∧ plays t x.cursor) ∧
    (st = .playing ∨ (st = .ready ∧ l ≤ x.cursor) → code = 4 →
      ∃ t, exec (.keyPlay c) s = .next t ∧ ContextBecomes s t c { x with keys := rest }) ∧
    (st = .playing → code = 3 → ∃ t p, exec (.keyStop c) s = .next t ∧ OtherRows c s t ∧
      p = snap s.letters.records spans base ∧
      (base < l → ∀ q, RecordHolds s.letters.records spans base q → p = q.start) ∧ stops t p) ∧
    (st = .idle ∨ st = .ready → code = 3 →
      ∃ t, exec (.keyStop c) s = .next t ∧ ContextBecomes s t c { x with keys := rest }) ∧
    (st = .playing → code = 5 → arg ≠ 0 → moves (.keyRewind c) (base - arg * 200 / 3)) ∧
    (st = .playing → code = 6 → arg ≠ 0 → moves (.keyForward c) (min l (base + arg * 200 / 3))) ∧
    (st = .playing → code = 7 → moves (.keyStart c) 0) ∧
    (st = .playing → code = 8 → moves (.keyEnd c) l)

/-- RECORD in READY and in PLAYING (1.5, 1.6, 3.3): from PLAYING playback stops first, the cursor at the start of
the record that was playing; a start is refused under the storage hold, at the letter limit and without room for
the spans, the channel READY; else the take begins, its mode told by the cursor and the insert flag, the length
unchanged, and a span with the cursor strictly inside it split there, its records before the cursor in the first
part, the rest in the second (a record without an entry in the record table counted as 1 frame, the model's choice,
log 65). In RECORDING the key is ignored. -/
def Obligations.RecordStartsATake : Prop :=
  ∀ (s : State) (c : Chan) (st : ChanState) (arg : Nat) (rest : List Key),
    (KeyAtHead s c .recording 2 arg rest →
      ∃ t, exec (.keyRecord c) s = .next t ∧ ContextBecomes s t c { (s.row c).ctx with keys := rest }) ∧
    (KeyAtHead s c st 2 arg rest → st = .ready ∨ st = .playing →
      let stopped := fun x : Context => { x with
        keys := rest, state := .ready, playPos := none,
        cursor := snap s.letters.records (s.row c).spanList (x.playPos.getD x.cursor) }
      let r := if st = .playing
        then { s.row c with ctx := stopped (s.row c).ctx, ahead := [], began := false }
        else { s.row c with ctx := { (s.row c).ctx with keys := rest } }
      let x := r.ctx
      ∃ t, exec (.keyRecord c) s = .next t ∧ OtherRows c s t ∧ DeskReported s t ∧
        t.engine = (if st = .playing then (s.readsGone c).engine else s.engine) ∧
        t = { s with chans := t.chans, engine := t.engine, desk := t.desk } ∧
        (s.sheets.hold = true →
          (t.row c) = { r with ctx := { x with transient := some (.storageHold, 32) } }) ∧
        (s.sheets.hold = false → 120000 ≤ r.length →
          (t.row c) = { r with ctx := { x with transient := some (.letterFull, 32) } }) ∧
        (s.sheets.hold = false → r.length < 120000 →
          1024 < r.spanList.length + (if insideSpan r.spanList x.cursor then 2 else 1) →
          (t.row c) = { r with ctx := { x with transient := some (.spanFull, 32) } }) ∧
        (s.sheets.hold = false → r.length < 120000 →
          r.spanList.length + (if insideSpan r.spanList x.cursor then 2 else 1) ≤ 1024 →
          (t.row c).ctx = { x with
            state := .recording,
            letter := x.letter.map fun l => { l with takes := min (l.takes + 1) 65535 } } ∧
          (∃ p, (t.row c).placement = some p ∧ p.recorded = 0 ∧ p.removed = 0 ∧ p.spanOpen = false ∧
            (x.cursor = r.length → p.mode = .append) ∧
            (x.cursor ≠ r.length → x.insert = true → p.mode = .insert) ∧
            (x.cursor ≠ r.length → x.insert = false → p.mode = .overwrite)) ∧
          (t.row c).codec = { silent := 0, pending := 0, lost := 0 } ∧
          (t.row c).length = r.length ∧ insideSpan (t.row c).spanList x.cursor = false ∧
          (insideSpan r.spanList x.cursor = false → (t.row c).spanList = r.spanList) ∧
          ∀ before sp after j, r.spanList = before ++ sp :: after → j < sp.count →
            (∀ i, i < j → 0 < slotFrames s.letters.records sp.sheet (sp.first + i)) →
            let k := ((List.range j).map fun i => slotFrames s.letters.records sp.sheet (sp.first + i)).sum
            x.cursor = lengthOf before + k → 0 < k → k < sp.frames →
            (t.row c).spanList = before ++
              { sp with count := j, frames := k } ::
              { sp with first := sp.first + j, count := sp.count - j, frames := sp.frames - k } :: after))

/-- RECORD and NEW in IDLE (1.4): an open request is made and its channel joins the open queue, or, under the
storage hold, STORAGE_HOLD is raised. -/
def Obligations.IdleKeysOpenALetter : Prop :=
  ∀ (s : State) (c : Chan) (code arg : Nat) (rest : List Key) (i : Instr) (cause : OpenCause),
    KeyAtHead s c .idle code arg rest →
    (code, i, cause) ∈ [(1, Instr.keyNew c, OpenCause.new), (2, .keyRecord c, .record)] →
    let x := (s.row c).ctx
    (s.sheets.hold = true → ∃ t, exec i s = .next t ∧
      ContextBecomes s t c { x with keys := rest, transient := some (.storageHold, 32) }) ∧
    (s.sheets.hold = false → ∃ t, exec i s = .next t ∧ OtherRows c s t ∧ t.desk = s.desk ∧
      t.row c = { s.row c with
        ctx := { x with keys := rest, openRequest := some cause }, op := some (.opening none) } ∧
      t = { s with
        chans := t.chans, cards := { s.cards with openQueue := s.cards.openQueue ++ [c] } })

/-- NEW and FILE with a letter (1.4, 1.6, 3.2, 5.3): from READY, or PLAYING, a letter of some length goes to FILING;
NEW keeps that an opening follows; under the storage hold NEW raises STORAGE_HOLD and files nothing. An empty letter
is handed over for discard, with DISCARDED, and NEW's opening follows at once: its request joins the open queue. -/
def Obligations.FileKeysBeginFiling : Prop :=
  ∀ (s : State) (c : Chan) (code arg : Nat) (rest : List Key) (i : Instr),
    (KeyAtHead s c .ready code arg rest ∨ KeyAtHead s c .playing code arg rest) →
    (code, i) ∈ [(1, Instr.keyNew c), (12, .keyFile c)] →
    let x := (s.row c).ctx
    let stopped := if x.state = .playing then { s.row c with ahead := [], began := false } else s.row c
    (code = 1 → s.sheets.hold = true → ∃ t, exec i s = .next t ∧
      ContextBecomes s t c { x with keys := rest, transient := some (.storageHold, 32) }) ∧
    (code = 12 ∨ s.sheets.hold = false → (s.row c).length ≠ 0 → ∃ t, exec i s = .next t ∧ OtherRows c s t ∧
      (t.row c).ctx = { x with
        keys := rest, state := .busy .filing, openAfter := decide (code = 1) || x.openAfter,
        playPos := if x.state = .playing then none else x.playPos,
        cursor := if x.state = .playing
          then snap s.letters.records (s.row c).spanList (x.playPos.getD x.cursor) else x.cursor } ∧
      (t.row c).op = some (.filing .draining false) ∧ (t.row c).spans = (s.row c).spans ∧
      (x.state = .playing → (t.row c).ahead = []) ∧
      t = { s with chans := t.chans, engine := t.engine, desk := t.desk }) ∧
    ∀ l, code = 12 ∨ s.sheets.hold = false → (s.row c).length = 0 → x.letter = some l →
      ∃ t sheets, exec i s = .next t ∧ FirstReferences (s.row c).spanList sheets ∧ OtherRows c s t ∧
        DeskReported s t ∧ SheetsLeave s t (s.row c).spanList ∧
        t.row c = { stopped with
          spans := none, op := if code = 1 then some (.opening none) else (s.row c).op,
          discards := (s.row c).discards ++
            [{ card := l.card, index := ((s.image l.card).map Card.index).getD 0, sheets := sheets }],
          ctx := { x with
            keys := rest, letter := none, cursor := 0, playPos := none, state := .idle,
            transient := some (.discarded, 32),
            openRequest := if code = 1 then some .new else x.openRequest } } ∧
        t.cards = { s.cards with
          holdings := Table.put s.cards.holdings l.card (.discarding c),
          openQueue := s.cards.openQueue ++ (if code = 1 then [c] else []) } ∧
        t.engine = (if x.state = .playing then (s.readsGone c).engine else s.engine) ∧
        t = { s with
          chans := t.chans, letters := t.letters, cards := t.cards, engine := t.engine, desk := t.desk }

/-- DISCARD in READY, RECORDING and PLAYING, and FILE of an empty letter in READY (1.4, 3.2, 3.6, 5.6): the letter
goes to the card unit's discard list with its sheets in order of first reference, its counts and records leave the
letter store, and the channel is IDLE with DISCARDED. A take ends without closing placements: its write sheet
closes, its waiting records and pending frames are dropped, and the sheet's live count is not tested (the model's
choice, log 45); playback's read-ahead is emptied. -/
def Obligations.DiscardHandsTheLetterOver : Prop :=
  ∀ (s : State) (c : Chan) (st : ChanState) (code arg : Nat) (rest : List Key) (i : Instr) (l : OpenLetter),
    KeyAtHead s c st code arg rest → (s.row c).ctx.letter = some l →
    (code = 13 ∧ i = .keyDiscard c ∧ (st = .ready ∨ st = .recording ∨ st = .playing)) ∨
      (code = 12 ∧ i = .keyFile c ∧ st = .ready ∧ (s.row c).length = 0) →
    let x := (s.row c).ctx
    let row := fun (r : ChanRow) (sheets : List Nat) => { r with
      spans := none,
      discards := r.discards ++
        [{ card := l.card, index := ((s.image l.card).map Card.index).getD 0, sheets := sheets }],
      ctx := { x with
        keys := rest, letter := none, cursor := 0, playPos := none, state := .idle,
        transient := some (.discarded, 32) } }
    ∃ t sheets, exec i s = .next t ∧ FirstReferences (s.row c).spanList sheets ∧
      OtherRows c s t ∧ DeskReported s t ∧
      (∀ n ∈ sheets, t.live n = 0) ∧ (∀ n, n ∉ sheets → t.live n = s.live n) ∧
      (∀ n slot, slot < 128 → Table.get t.letters.records (128 * n + slot) =
        if n ∈ sheets then none else Table.get s.letters.records (128 * n + slot)) ∧
      t.cards = { s.cards with holdings := Table.put s.cards.holdings l.card (.discarding c) } ∧
      t = { s with
        chans := t.chans, letters := t.letters, cards := t.cards, sheets := t.sheets, engine := t.engine,
        desk := t.desk } ∧
      (st = .ready → t.row c = row (s.row c) sheets ∧ t.sheets = s.sheets ∧ t.engine = s.engine) ∧
      (st = .playing → t.row c = row { s.row c with ahead := [], began := false } sheets ∧
        t.sheets = s.sheets ∧ t.engine = (s.readsGone c).engine) ∧
      (st = .recording →
        t.row c = row { s.row c with
          sheet := none, placement := none, flush := none, codec := { silent := 0, pending := 0, lost := 0 },
          queue := (s.row c).queue.filter fun e => match e with | .waiting .. => false | _ => true } sheets ∧
        t.sheets = { s.sheets with waiting := s.sheets.waiting.filter (· ≠ .take c) } ∧
        (∀ w, (s.row c).sheet = some w → w.next ≤ 127 →
          HandedOver s t [headerWriteOf s.setup c w (w.next - 1)]) ∧
        ((s.row c).sheet = none ∨ (∃ w, (s.row c).sheet = some w ∧ 127 < w.next) → t.engine = s.engine))

/-! ### The order book -/

/-- SWEEP_READS_COMPLETE, UNKNOWN_ORDER_KIND (7.3, 7.4): the slots read form the image, and the sweep stands at
the first slot that has no table entry, is not finished in this sweep and reads POSTED, or ends; an order of a
kind outside 1 to 8 is answered REFUSED_KIND. -/
def Obligations.SweepTakesPostedSlots : Prop :=
  (∀ (s : State) (a : Access) (rest : List Access) (slots : List (List Byte)),
    Due s .orderUnit a rest → a.purpose = .slotRead true →
    let taken := fun j : OrderSlot => s.orders.accepted[j] = none ∧ j ∉ s.orders.finishedSet ∧
      byteAt (slots.getD j.val []) 0 = 1
    ∃ t, exec (.sweepReadsComplete slots) s = .next t ∧ t = { s.landed rest with orders := t.orders } ∧
      (∀ j, taken j → (∀ i, i < j → ¬ taken i) →
        t.orders = { s.orders with image := some slots, sweep := .acting j }) ∧
      ((∀ j, ¬ taken j) → t.orders = { s.orders with
        image := none, again := false, sweep := if s.orders.again then .requested else .idle })) ∧
  ∀ (s : State) (k : OrderSlot) (kind : Nat), OrderAt s k kind → kind = 0 ∨ 9 ≤ kind →
    ∃ t, exec .unknownOrderKind s = .next t ∧ AnsweredOnly s t k 16 0 0

/-- STATION_SETUP (7.5, 1.1, 6.1, 5.3): the checks in their order, each with its refusal; an order that passes
binds the channel: its context, its timeslots with the line DOWN, the earlier ones released, DONE; an open request
that was outstanding is withdrawn, with its search and its card, a read of that search that waits for its grant left
in the queue to complete into nothing (the model's choice, log 71). -/
def Obligations.StationSetupBindsOrRefuses : Prop :=
  ∀ (s : State) (k : OrderSlot), OrderAt s k 1 →
    let o := setupOrderOf (s.orders.slotData k)
    let fits := o.channel < 32 ∧ o.input < 64 ∧ o.output < 64 ∧ o.threshold ≤ 32767 ∧ o.hangover ≤ 15 ∧
      1 ≤ o.maxPause ∧ 1 ≤ o.recover ∧ o.recover ≤ 15 ∧ o.priority ≤ 1
    (¬ fits → ∃ t, exec .stationSetup s = .next t ∧ AnsweredOnly s t k 17 0 0) ∧
    ∀ (c : Chan) (input output : Timeslot), fits → c.val = o.channel → input.val = o.input →
      output.val = o.output →
      let state := s.chanState c
      let other := fun owner : Option Chan => owner ≠ none ∧ owner ≠ some c
      let asks := (s.row c).ctx.openRequest ≠ none
      let searched := asks ∧ ∃ n, s.cards.search = some { channel := c, examined := n }
      let given := fun a : Access =>
        if a.purpose = .searchRead then { a with purpose := .abandonedRead .cards } else a
      (state ≠ .unbound → state ≠ .idle →
        ∃ t, exec .stationSetup s = .next t ∧ AnsweredOnly s t k 19 0 0) ∧
      (state = .unbound ∨ state = .idle → ∀ d, d ≠ c →
        s.inputs[input].owner = some d ∨ (¬ other s.inputs[input].owner ∧ s.outputs[output].owner = some d) →
        ∃ t, exec .stationSetup s = .next t ∧ AnsweredOnly s t k 20 d.val 0) ∧
      (state = .unbound ∨ state = .idle → ¬ other s.inputs[input].owner → ¬ other s.outputs[output].owner →
        ∃ t, exec .stationSetup s = .next t ∧ SweptOn s t k ∧ OtherRows c s t ∧ DeskReported s t ∧
          (¬ searched → Answered s t k 0 0 0) ∧
          (searched → Answered { s with engine := { s.engine with
              waiting := s.engine.waiting.map given, flight := s.engine.flight.map given } } t k 0 0 0) ∧
          (¬ asks → t.cards = s.cards ∧ t.sheets = s.sheets) ∧
          (asks → t.cards.openQueue = s.cards.openQueue.filter (· ≠ c) ∧
            t.cards.search = (if s.cards.search.map Search.channel = some c then none else s.cards.search) ∧
            t.sheets = { s.sheets with waiting := s.sheets.waiting.filter (· ≠ .index c) } ∧
            ∀ card, (s.row c).op = some (.opening (some card)) → HoldingEnds s t card) ∧
          t = { s with
            chans := t.chans, inputs := t.inputs, outputs := t.outputs, orders := t.orders, cards := t.cards,
            sheets := t.sheets, engine := t.engine, desk := t.desk } ∧
          (asks → (t.row c).op = none) ∧ (¬ asks → (t.row c).op = (s.row c).op) ∧
          t.row c = { s.row c with
            op := (t.row c).op, codec := { silent := 0, pending := 0, lost := 0 },
            ctx := { Context.reset with
              inSlot := some input, outSlot := some output, gain := o.gain, threshold := o.threshold,
              hangover := o.hangover, maxPause := o.maxPause, recover := o.recover, author := o.author,
              defaultPriority := if o.priority = 0 then .routine else .urgent, state := .idle } } ∧
          t.inputs[input] = { s.inputs[input] with owner := some c, line := some .down, good := 0 } ∧
          t.outputs[output] = { s.outputs[output] with owner := some c } ∧
          (∀ u : Timeslot, u ≠ input → t.inputs[u] =
            if (s.row c).ctx.inSlot = some u then InputReleased s.inputs[u] else s.inputs[u]) ∧
          (∀ u : Timeslot, u ≠ output → t.outputs[u] =
            if (s.row c).ctx.outSlot = some u then { s.outputs[u] with owner := none } else s.outputs[u]))

/-- STATION_CLOSE (7.5, 1.7, 3.6, 5.3): refused for a channel out of range, UNBOUND, in CLOSING or with a pending
close; else accepted: an IDLE channel is unbound at once and DONE, an open request that was outstanding withdrawn
with its search, its sheet request and its card, a read of that search that waits for its grant left in the queue to
complete into nothing (the model's choice, log 71); a letter READY goes to CLOSING; in PLAYING playback stops first, in
RECORDING the take ends with its closing placements, both into CLOSING; a BUSY channel keeps the pending close. -/
def Obligations.StationCloseActsByState : Prop :=
  ∀ (s : State) (k : OrderSlot), OrderAt s k 2 →
    let n := byteAt (s.orders.slotData k) 8
    (32 ≤ n → ∃ t, exec .stationClose s = .next t ∧ AnsweredOnly s t k 17 0 0) ∧
    ∀ c : Chan, c.val = n →
      let x := (s.row c).ctx
      (x.state = .unbound ∨ x.state = .busy .closing ∨ x.pendingClose ≠ none →
        ∃ t, exec .stationClose s = .next t ∧ AnsweredOnly s t k 19 0 0) ∧
      (x.pendingClose = none → x.state = .ready →
        ∃ t, exec .stationClose s = .next t ∧ TakenOn s t k (.close c) [] ∧ SweptOn s t k ∧
          RowBecomes { s with orders := t.orders, engine := t.engine } t c { s.row c with
            op := some (.suspending .draining),
            ctx := { x with state := .busy .closing, keys := [], pendingClose := some k } }) ∧
      (x.pendingClose = none → x.state = .playing →
        ∃ t, exec .stationClose s = .next t ∧ TakenOn (s.readsGone c) t k (.close c) [] ∧ SweptOn s t k ∧
          RowBecomes { s with orders := t.orders, engine := t.engine } t c { s.row c with
            op := some (.suspending .draining), ahead := [], began := false,
            ctx := { x with
              state := .busy .closing, keys := [], pendingClose := some k, playPos := none,
              cursor := snap s.letters.records (s.row c).spanList (x.playPos.getD x.cursor) } }) ∧
      (x.pendingClose = none → x.state = .recording →
        ∃ t more, exec .stationClose s = .next t ∧ TakenOn s t k (.close c) more ∧ SweptOn s t k ∧
          OtherRows c s t ∧ t.chanState c = .busy .closing ∧ (t.row c).ctx.keys = [] ∧
          (t.row c).ctx.pendingClose = some k ∧ (t.row c).ctx.letter = x.letter ∧ (t.row c).sheet = none ∧
          (t.row c).op ∈ [some (.suspending .placing), some (.suspending .draining)] ∧
          ∀ w p, (s.row c).sheet = some w → w.next ≤ 127 → (s.row c).placement = some p →
            (s.row c).queue = [] → (s.row c).codec.pending = 0 → (s.row c).codec.lost = 0 →
            s.live w.sheet ≠ 0 →
            more = [headerWriteOf s.setup c w (w.next - 1)] ∧
            (t.row c).op = some (.suspending .draining) ∧ (t.row c).spans = (s.row c).spans) ∧
      (x.pendingClose = none → (∃ sub, sub ≠ .closing ∧ x.state = .busy sub) →
        ∃ t, exec .stationClose s = .next t ∧ TakenOn s t k (.close c) [] ∧ SweptOn s t k ∧
          RowBecomes { s with orders := t.orders, engine := t.engine } t c { s.row c with
            ctx := { x with pendingClose := some k } }) ∧
      (x.pendingClose = none → x.state = .idle → x.pendingFile = none →
        let asks := x.openRequest ≠ none
        let searched := asks ∧ ∃ n, s.cards.search = some { channel := c, examined := n }
        let given := fun a : Access =>
          if a.purpose = .searchRead then { a with purpose := .abandonedRead .cards } else a
        let answers := [
          writeOf .orderUnit .acceptWrite ((s.base + (0x800 + 64 * k.val + 0)) % 2 ^ 64) [2#8],
          writeOf .orderUnit (.finishResult k) ((s.base + (0x800 + 64 * k.val + 0x30)) % 2 ^ 64)
            (bytesOf 4 0 ++ bytesOf 4 0 ++ bytesOf 4 0 ++ bytesOf 4 (s.orders.finishCounter + 1#32).toNat)]
        ∃ t, exec .stationClose s = .next t ∧ (t.row c).ctx = Context.reset ∧ (t.row c).op = none ∧
          (t.row c).queue = (s.row c).queue ∧ (t.row c).discards = (s.row c).discards ∧
          OtherRows c s t ∧ DeskReported s t ∧ SweptOn s t k ∧ t.orders.accepted = s.orders.accepted.set k none ∧
          t.orders.finishCounter = s.orders.finishCounter + 1#32 ∧
          (¬ searched → HandedOver s t answers) ∧
          (searched → HandedOver { s with engine := { s.engine with
            waiting := s.engine.waiting.map given, flight := s.engine.flight.map given } } t answers) ∧
          (¬ asks → t.cards = s.cards ∧ t.sheets = s.sheets) ∧
          (asks → t.cards.openQueue = s.cards.openQueue.filter (· ≠ c) ∧
            t.cards.search = (if s.cards.search.map Search.channel = some c then none else s.cards.search) ∧
            t.sheets = { s.sheets with waiting := s.sheets.waiting.filter (· ≠ .index c) } ∧
            ∀ card, (s.row c).op = some (.opening (some card)) → HoldingEnds s t card) ∧
          (∀ u : Timeslot, t.inputs[u] =
            if x.inSlot = some u then InputReleased s.inputs[u] else s.inputs[u]) ∧
          (∀ u : Timeslot, t.outputs[u] =
            if x.outSlot = some u then { s.outputs[u] with owner := none } else s.outputs[u]) ∧
          t = { s with
            chans := t.chans, inputs := t.inputs, outputs := t.outputs, orders := t.orders, cards := t.cards,
            sheets := t.sheets, engine := t.engine, desk := t.desk })

/-- FILE_LETTER (7.5, 1.7, 1.4): refused for a channel out of range, without a letter, in CLOSING, or with a
pending close or file; else accepted: a letter of some length, READY or PLAYING, goes to FILING for the order,
which the operation keeps beside the pending file (DEDUCED, the model's choice, log 20); an empty one is
discarded and the order DISCARDED_EMPTY; in RECORDING the take ends into SAVING, and there as in BUSY the pending
file is kept. -/
def Obligations.FileLetterActsByState : Prop :=
  ∀ (s : State) (k : OrderSlot), OrderAt s k 3 →
    let n := byteAt (s.orders.slotData k) 8
    (32 ≤ n → ∃ t, exec .fileLetter s = .next t ∧ AnsweredOnly s t k 17 0 0) ∧
    ∀ c : Chan, c.val = n →
      let x := (s.row c).ctx
      (x.state = .unbound ∨ x.state = .idle ∨ x.state = .busy .closing ∨ x.pendingClose ≠ none ∨
          x.pendingFile ≠ none →
        ∃ t, exec .fileLetter s = .next t ∧ AnsweredOnly s t k 19 0 0) ∧
      (x.pendingClose = none → x.pendingFile = none → x.state = .ready → (s.row c).length ≠ 0 →
        ∃ t, exec .fileLetter s = .next t ∧ TakenOn s t k (.file c) [] ∧ SweptOn s t k ∧
          RowBecomes { s with orders := t.orders, engine := t.engine } t c { s.row c with
            op := some (.filing .draining true),
            ctx := { x with state := .busy .filing, pendingFile := some k } }) ∧
      (x.pendingClose = none → x.pendingFile = none → x.state = .playing → (s.row c).length ≠ 0 →
        ∃ t, exec .fileLetter s = .next t ∧ TakenOn (s.readsGone c) t k (.file c) [] ∧ SweptOn s t k ∧
          RowBecomes { s with orders := t.orders, engine := t.engine } t c { s.row c with
            op := some (.filing .draining true), ahead := [], began := false,
            ctx := { x with
              state := .busy .filing, pendingFile := some k, playPos := none,
              cursor := snap s.letters.records (s.row c).spanList (x.playPos.getD x.cursor) } }) ∧
      (x.pendingClose = none → x.pendingFile = none → x.state = .recording →
        ∃ t more, exec .fileLetter s = .next t ∧ TakenOn s t k (.file c) more ∧ SweptOn s t k ∧
          OtherRows c s t ∧ t.chanState c = .busy .saving ∧ (t.row c).ctx.keys = x.keys ∧
          (t.row c).ctx.pendingFile = some k ∧ (t.row c).ctx.letter = x.letter ∧ (t.row c).sheet = none ∧
          (t.row c).op ∈ [some (.checkpoint .placing), some (.checkpoint .draining)] ∧
          ∀ w p, (s.row c).sheet = some w → w.next ≤ 127 → (s.row c).placement = some p →
            (s.row c).queue = [] → (s.row c).codec.pending = 0 → (s.row c).codec.lost = 0 →
            s.live w.sheet ≠ 0 →
            more = [headerWriteOf s.setup c w (w.next - 1)] ∧
            (t.row c).op = some (.checkpoint .draining) ∧ (t.row c).spans = (s.row c).spans) ∧
      (∀ l, x.pendingClose = none → x.pendingFile = none → x.state = .ready → (s.row c).length = 0 →
        x.letter = some l →
        ∃ t sheets, exec .fileLetter s = .next t ∧ SweptOn s t k ∧ OtherRows c s t ∧
          FirstReferences (s.row c).spanList sheets ∧
          HandedOver s t [writeOf .orderUnit .acceptWrite ((s.base + (0x800 + 64 * k.val + 0)) % 2 ^ 64) [2#8],
            writeOf .orderUnit (.finishResult k) ((s.base + (0x800 + 64 * k.val + 0x30)) % 2 ^ 64)
              (bytesOf 4 4 ++ bytesOf 4 l.card ++ bytesOf 4 0 ++
                bytesOf 4 (s.orders.finishCounter + 1#32).toNat)] ∧
          t.orders.accepted = s.orders.accepted.set k none ∧
          t.orders.finishCounter = s.orders.finishCounter + 1#32 ∧
          t.orders.finishedSet = s.orders.finishedSet ++ [k] ∧
          t.row c = { s.row c with
            spans := none,
            discards := (s.row c).discards ++
              [{ card := l.card, index := ((s.image l.card).map Card.index).getD 0, sheets := sheets }],
            ctx := { x with
              letter := none, cursor := 0, playPos := none, state := .idle,
              transient := some (.discarded, 32) } }) ∧
      (x.pendingClose = none → x.pendingFile = none → (∃ sub, sub ≠ .closing ∧ x.state = .busy sub) →
        ∃ t, exec .fileLetter s = .next t ∧ TakenOn s t k (.file c) [] ∧ SweptOn s t k ∧
          RowBecomes { s with orders := t.orders, engine := t.engine } t c { s.row c with
            ctx := { x with pendingFile := some k } })

/-- REOPEN_LETTER, RENDER (7.6, 7.8): the checks made before the card is read, each with its refusal, in
order; an order that passes them has the card's first line read and the sweep waits at its slot; a RENDER
that finds four orders in the queue is passed by. -/
def Obligations.CardOrdersAreCheckedThenRead : Prop :=
  ∀ (s : State) (k : OrderSlot),
    let data := s.orders.slotData k
    let held := fun card : Nat => Table.get s.cards.holdings card ≠ none
    let reopened := fun card : Nat => ∃ j : OrderSlot, ∃ d, s.orders.accepted[j] = some (.reopen card d)
    let rendered := fun card : Nat => ∃ j : OrderSlot, ∃ o : RenderOrder,
      s.orders.accepted[j] = some (.render o) ∧ o.card = card
    let reads := fun (i : Instr) (card : Nat) => ∃ t, exec i s = .next t ∧
      HandedOver s t [readOf .orderUnit .orderCardRead ((s.setup.cardBase + (256 * card + 64 * 0)) % 2 ^ 64)] ∧
      t = { s with orders := { s.orders with sweep := .awaiting k }, engine := t.engine }
    let refused := fun (i : Instr) (code : Nat) => ∃ t, exec i s = .next t ∧ AnsweredOnly s t k code 0 0
    (OrderAt s k 4 →
      let card := fieldAt data 0x0A 2
      (32 ≤ byteAt data 8 ∨ s.setup.cardCount ≤ card → refused .reopenLetter 17) ∧
      ∀ c : Chan, c.val = byteAt data 8 → card < s.setup.cardCount →
        let free := (s.row c).ctx.state = .idle ∧ (s.row c).ctx.openRequest = none
        let busy := held card ∨ reopened card ∨ rendered card
        (¬ free → refused .reopenLetter 19) ∧ (free → busy → refused .reopenLetter 22) ∧
        (free → ¬ busy → reads .reopenLetter card)) ∧
    (OrderAt s k 5 →
      let card := fieldAt data 0x08 2
      let selection := byteAt data 0x0A
      let inRange := card < s.setup.cardCount ∧ fieldAt data 0x0C 4 ≤ 120000 ∧
        fieldAt data 0x10 4 ≤ 120000 ∧ 1 ≤ selection ∧ selection ≤ 3
      let aligned := 64 ∣ fieldAt data 0x18 8
      let long := 2 ∣ fieldAt data 0x14 4 ∧ 240 ≤ fieldAt data 0x14 4
      let busy := held card ∨ reopened card
      (4 ≤ s.orders.renders.length → ∃ t, exec .renderOrder s = .next t ∧ SweptOn s t k ∧
        t.orders.accepted = s.orders.accepted ∧ t.orders.finishedSet = s.orders.finishedSet ∧
        t = { s with orders := t.orders }) ∧
      (s.orders.renders.length < 4 → ¬ inRange → refused .renderOrder 17) ∧
      (s.orders.renders.length < 4 → inRange → ¬ aligned → refused .renderOrder 18) ∧
      (s.orders.renders.length < 4 → inRange → aligned → ¬ long → refused .renderOrder 17) ∧
      (s.orders.renders.length < 4 → inRange → aligned → long → busy → refused .renderOrder 21) ∧
      (s.orders.renders.length < 4 → inRange → aligned → long → ¬ busy → reads .renderOrder card))

/-- ORDER_CARD_READ_COMPLETE (7.6, 7.8, 5.8): a card that is not FILED or SUSPENDED, or is DAMAGED, a byte other than
0 taken as set (the model's choice, log 26), refuses the waiting order; else a REOPEN LETTER is accepted where its
checks of channel and card still stand (DEDUCED, the model's choice, log 21), its channel in LOADING and the whole
card asked for, and a RENDER is accepted and joins the render queue; the sweep goes on. -/
def Obligations.CardReadDecidesTheOrder : Prop :=
  ∀ (s : State) (a : Access) (rest : List Access) (k : OrderSlot) (line : List Byte),
    Due s .orderUnit a rest → a.purpose = .orderCardRead → s.orders.sweep = .awaiting k →
    s.regs.part = .running →
    let data := s.orders.slotData k
    let u := s.landed rest
    let stored := byteAt line 0 = 2 ∨ byteAt line 0 = 3
    (slotKind data = 4 ∧ byteAt data 8 < 32 ∨ slotKind data = 5 →
      (¬ stored → ∃ t, exec (.orderCardReadComplete line) s = .next t ∧ AnsweredOnly u t k 21 0 0) ∧
      (stored → byteAt line 2 ≠ 0 →
        ∃ t, exec (.orderCardReadComplete line) s = .next t ∧ AnsweredOnly u t k 23 0 0)) ∧
    (∀ c : Chan, slotKind data = 4 → c.val = byteAt data 8 → stored → byteAt line 2 = 0 →
      let card := fieldAt data 0x0A 2
      (s.row c).ctx.state = .idle → (s.row c).ctx.openRequest = none → Table.get s.cards.holdings card = none →
      (∀ (j : OrderSlot) (d : Chan), s.orders.accepted[j] ≠ some (.reopen card d)) →
      (∀ (j : OrderSlot) (o : RenderOrder), s.orders.accepted[j] = some (.render o) → o.card ≠ card) →
      ∃ t, exec (.orderCardReadComplete line) s = .next t ∧ SweptOn u t k ∧
        TakenOn u t k (.reopen card c) ((List.range 4).map fun n =>
          readOf .cardUnit (.reopenCardRead c (n == 3)) ((s.setup.cardBase + (256 * card + 64 * n)) % 2 ^ 64)) ∧
        RowBecomes { u with orders := t.orders, engine := t.engine } t c { s.row c with
          ctx := { (s.row c).ctx with state := .busy .loading }, op := some (.reopening (.card card)) }) ∧
    ∀ selection, slotKind data = 5 → selectionOf (byteAt data 0x0A) = some selection → stored →
      byteAt line 2 = 0 →
      ∃ t, exec (.orderCardReadComplete line) s = .next t ∧ SweptOn u t k ∧
        TakenOn u t k (.render (renderOrderOf data selection)) [] ∧
        t.orders.renders = s.orders.renders ++ [k] ∧ t = { u with orders := t.orders, engine := t.engine }

/-- CANCEL (7.9): out of range REFUSED_RANGE; another CANCEL of this sweep, a target of another kind and an empty
slot are no render, REFUSED_RANGE, and so is another CANCEL already answered (the model's choice, log 51); a render
finished in this sweep, or shown ACCEPTED or FINISHED and no longer in the table, TOO_LATE; a queued or posted
render is answered CANCELLED before the CANCEL's DONE; the active render is asked to stop. -/
def Obligations.CancelActsByTarget : Prop :=
  ∀ (s : State) (k : OrderSlot), OrderAt s k 6 →
    let n := byteAt (s.orders.slotData k) 8
    let answer := fun (j : OrderSlot) (code : Nat) (number : Word) =>
      writeOf .orderUnit (.finishResult j) ((s.base + (0x800 + 64 * j.val + 0x30)) % 2 ^ 64)
        (bytesOf 4 code ++ bytesOf 4 0 ++ bytesOf 4 0 ++ bytesOf 4 number.toNat)
    (32 ≤ n → ∃ t, exec .cancelOrder s = .next t ∧ AnsweredOnly s t k 17 0 0) ∧
    ∀ target : OrderSlot, target.val = n →
      let shown := s.orders.slotData target
      let entry := s.orders.accepted[target]
      let both := fun (t : State) => HandedOver s t [answer target 2 (s.orders.finishCounter + 1#32),
          answer k 0 (s.orders.finishCounter + 1#32 + 1#32)] ∧
        t.orders.accepted = (s.orders.accepted.set target none).set k none ∧
        t.orders.finishedSet = s.orders.finishedSet ++ [target] ++ [k] ∧
        t.orders.finishCounter = s.orders.finishCounter + 1#32 + 1#32 ∧ SweptOn s t k ∧
        t = { s with orders := t.orders, engine := t.engine }
      (entry = none → byteAt shown 1 = 6 → byteAt shown 0 = 1 →
        ∃ t, exec .cancelOrder s = .next t ∧ AnsweredOnly s t k 17 0 0) ∧
      (entry = none → byteAt shown 1 ≠ 6 ∨ byteAt shown 0 ≠ 1 → target ∈ s.orders.finishedSet →
        ∃ t, exec .cancelOrder s = .next t ∧ AnsweredOnly s t k 3 0 0) ∧
      (entry = none → target ∉ s.orders.finishedSet → byteAt shown 1 = 5 →
        byteAt shown 0 = 2 ∨ byteAt shown 0 = 3 →
        ∃ t, exec .cancelOrder s = .next t ∧ AnsweredOnly s t k 3 0 0) ∧
      (entry = none → target ∉ s.orders.finishedSet →
        byteAt shown 1 ≠ 5 ∨ byteAt shown 0 = 0 ∨ 3 < byteAt shown 0 →
        ∃ t, exec .cancelOrder s = .next t ∧ AnsweredOnly s t k 17 0 0) ∧
      (entry ≠ none → (∀ o, entry ≠ some (.render o)) →
        ∃ t, exec .cancelOrder s = .next t ∧ AnsweredOnly s t k 17 0 0) ∧
      (entry = none → target ∉ s.orders.finishedSet → byteAt shown 1 = 5 → byteAt shown 0 = 1 →
        ∃ t, exec .cancelOrder s = .next t ∧ both t ∧ t.orders.renders = s.orders.renders) ∧
      (∀ o, entry = some (.render o) → s.orders.renders.head? ≠ some target →
        ∃ t, exec .cancelOrder s = .next t ∧ both t ∧
          t.orders.renders = s.orders.renders.filter (· ≠ target)) ∧
      ∀ o x, entry = some (.render o) → s.orders.renders.head? = some target → s.render = some x →
        ∃ t y, exec .cancelOrder s = .next t ∧ t.render = some y ∧ y.stop = true ∧ y.ahead = [] ∧
          y.handed = x.handed ∧ y.written = x.written ∧ y.failed = x.failed ∧
          (x.stage ≠ .output ∨ x.decode = none → y.stage = .draining) ∧
          (x.stage = .output → x.decode ≠ none → y.stage = .output) ∧
          t.orders.finishCounter = s.orders.finishCounter + 1#32 ∧ t.orders.renders = s.orders.renders ∧
          t.orders.accepted = s.orders.accepted.set k none ∧ SweptOn s t k ∧
          t = { s with orders := t.orders, engine := t.engine, render := t.render }

/-- NOTICE (7.7, 1.3): refused for a channel or a value out of range and for an UNBOUND channel; else the host notice
takes the value, 0 clearing it, and the answer carries the one before. -/
def Obligations.NoticeSetsTheHostNotice : Prop :=
  ∀ (s : State) (k : OrderSlot), OrderAt s k 7 →
    let n := byteAt (s.orders.slotData k) 8
    let value := byteAt (s.orders.slotData k) 9
    (32 ≤ n ∨ 15 < value → ∃ t, exec .noticeOrder s = .next t ∧ AnsweredOnly s t k 17 0 0) ∧
    ∀ c : Chan, c.val = n → value ≤ 15 →
      (s.chanState c = .unbound → ∃ t, exec .noticeOrder s = .next t ∧ AnsweredOnly s t k 19 0 0) ∧
      (s.chanState c ≠ .unbound → ∃ t, exec .noticeOrder s = .next t ∧
        Answered s t k 0 ((s.row c).ctx.host.getD 0) 0 ∧ SweptOn s t k ∧
        ContextBecomes { s with orders := t.orders, engine := t.engine } t c { (s.row c).ctx with
          host := if value = 0 then none else some value })

/-- RETURN (R142): refused outside 1 to 32768; else the tally rises by the count, to the sheet count at most,
the hold is told from the new total, a scan starts or scan again is set, and the answer carries the tally and
the stack count. -/
def Obligations.ReturnRaisesTheTally : Prop :=
  ∀ (s : State) (k : OrderSlot), OrderAt s k 8 →
    let count := fieldAt (s.orders.slotData k) 8 4
    let tally := min (s.sheets.tally + count) s.setup.sheetCount
    let total := tally + s.sheets.stack.length
    (count = 0 ∨ 32768 < count → ∃ t, exec .returnOrder s = .next t ∧ AnsweredOnly s t k 17 0 0) ∧
    (1 ≤ count → count ≤ 32768 → ∃ t, exec .returnOrder s = .next t ∧
      Answered s t k 0 tally s.sheets.stack.length ∧ SweptOn s t k ∧ DeskReported s t ∧
      t.sheets.tally = tally ∧ t.sheets.stack = s.sheets.stack ∧ t.sheets.waiting = s.sheets.waiting ∧
      (total < s.setup.low → t.sheets.hold = true) ∧
      (s.setup.low ≤ total → s.setup.high < total → t.sheets.hold = false) ∧
      (s.setup.low ≤ total → total ≤ s.setup.high → t.sheets.hold = s.sheets.hold) ∧
      (s.sheets.scan ≠ .idle → t.sheets.scan = s.sheets.scan ∧ t.sheets.scanAgain = true) ∧
      (s.sheets.scan = .idle → s.sheets.stack.length < 8 → t.sheets.scan = .starting) ∧
      (s.sheets.scan = .idle → 8 ≤ s.sheets.stack.length → t.sheets.scan = .idle) ∧
      t = { s with sheets := t.sheets, orders := t.orders, engine := t.engine, desk := t.desk })

/-- FINISH_RESULT_WRITTEN, ORDER_FINISHED (7.1, 7.4, 9.4, 11.3): the first part of a finishing write done, the state
byte FINISHED is handed over; the second done, the finished count and the finishes since sampling rise, changed is
set, and a desk write is requested at the order mark. The same of the start sweep's answers, which it writes by its
own requester (the model's choice, log 29): the last of them done, its desk write is requested. -/
def Obligations.FinishingWriteHasTwoParts : Prop :=
  (∀ (s : State) (a : Access) (rest : List Access) (k : OrderSlot), Due s .orderUnit a rest →
    (a.purpose = .finishResult k → ∃ t, exec (.finishResultWritten k) s = .next t ∧
      HandedOver (s.landed rest) t
        [writeOf .orderUnit (.finishState k) ((s.base + (0x800 + 64 * k.val + 0)) % 2 ^ 64) [3#8]] ∧
      t = { s with engine := t.engine }) ∧
    (a.purpose = .finishState k → s.regs.part = .running ∨ s.regs.part = .quiescing →
      s.sweep.phase ≠ .answering → ∃ t, exec (.orderFinished k) s = .next t ∧
        t.orders = { s.orders with finishedCount := s.orders.finishedCount + 1#32 } ∧
        t.desk.finishes = s.desk.finishes + 1#32 ∧ t.desk.changed = true ∧
        (s.setup.orderMark ≤ (s.desk.finishes + 1#32).toNat → s.desk.writing = false →
          t.desk.requested = true ∧ t.desk.again = s.desk.again) ∧
        (s.setup.orderMark ≤ (s.desk.finishes + 1#32).toNat → s.desk.writing = true →
          t.desk.requested = s.desk.requested ∧ t.desk.again = true) ∧
        ((s.desk.finishes + 1#32).toNat < s.setup.orderMark →
          t.desk.requested = s.desk.requested ∧ t.desk.again = s.desk.again) ∧
        t = { s.landed rest with orders := t.orders, desk := t.desk })) ∧
  ∀ (s : State) (a : Access) (rest : List Access) (k : OrderSlot), Due s .startSweep a rest →
    (∀ b more, nextDue .orderUnit s.engine.flight = some (b, more) → b.purpose ≠ a.purpose) →
    (a.purpose = .finishResult k → ∃ t, exec (.finishResultWritten k) s = .next t ∧
      HandedOver (s.landed rest) t
        [writeOf .startSweep (.finishState k) ((s.base + (0x800 + 64 * k.val + 0)) % 2 ^ 64) [3#8]] ∧
      t = { s with engine := t.engine }) ∧
    (a.purpose = .finishState k → s.regs.part = .starting →
      let left := ∃ b ∈ s.engine.waiting ++ rest, b.who = .startSweep ∧
        ((∃ j, b.purpose = .finishResult j) ∨ ∃ j, b.purpose = .finishState j)
      let desk := { s.desk with finishes := s.desk.finishes + 1#32, changed := true }
      ∃ t, exec (.orderFinished k) s = .next t ∧
        t.orders = { s.orders with finishedCount := s.orders.finishedCount + 1#32 } ∧
        (s.sweep.phase ≠ .answering ∨ left → t.sweep = s.sweep ∧ t.desk = desk) ∧
        (s.sweep.phase = .answering → ¬ left → s.desk.writing = false →
          t.sweep = { s.sweep with phase := .desk } ∧ t.desk = { desk with requested := true }) ∧
        t = { s.landed rest with orders := t.orders, desk := t.desk, sweep := t.sweep })

/-! ### The memory engine -/

/-- ACCESS_GRANT (10.1, 10.3): class A before class B until the run count is 8, in each class the first requester
from its pointer upward that offers an access; the access goes from waiting to flight, the pointer past the
requester, the run count up or to 0 (the grant of a render frame's last write, which also hands the next
frame over, apart); where nothing is offered, or in FAULTED, there is no grant. A header write waits for the record
writes of its sheet handed over before it, by whatever channel (DEDUCED, the model's choice, log 55). -/
def Obligations.ArbiterChoosesByClassAndTurn : Prop :=
  ∀ s : State,
    let classB := [Requester.sheetManager, .cardUnit, .orderUnit, .deskUnit, .render, .startSweep]
    let offersA := ∃ c : Chan, Offers s (.channel c)
    let offersB := ∃ who ∈ classB, Offers s who
    (s.regs.part = .faulted ∨ (¬ offersA ∧ ¬ offersB) → exec .accessGrant s = .next s) ∧
    (s.regs.part ≠ .faulted → offersA → s.engine.run < 8 ∨ ¬ offersB → s.engine.pointerA < 32 →
      ∀ (c : Chan) before a after, Offered s (.channel c) before a after →
        (∀ d : Chan, (d.val + 32 - s.engine.pointerA) % 32 < (c.val + 32 - s.engine.pointerA) % 32 →
          ¬ Offers s (.channel d)) →
        (∀ frame, a.purpose ≠ .renderWrite frame true) →
        ∃ t, exec .accessGrant s = .next t ∧ t.engine = { s.engine with
          waiting := before ++ after, flight := s.engine.flight ++ [a], pointerA := (c.val + 1) % 32,
          run := min 8 (s.engine.run + 1) }) ∧
    (s.regs.part ≠ .faulted → offersB → 8 ≤ s.engine.run ∨ ¬ offersA → s.engine.pointerB < 6 →
      ∀ (j : Fin 6) who before a after, classB[j.val]? = some who → Offered s who before a after →
        (∀ i : Fin 6, (i.val + 6 - s.engine.pointerB) % 6 < (j.val + 6 - s.engine.pointerB) % 6 →
          ∀ other, classB[i.val]? = some other → ¬ Offers s other) →
        (∀ frame, a.purpose ≠ .renderWrite frame true) →
        ∃ t, exec .accessGrant s = .next t ∧ t.engine = { s.engine with
          waiting := before ++ after, flight := s.engine.flight ++ [a], pointerB := (j.val + 1) % 6,
          run := 0 })

/-- ACCESS_GRANT (10.1, 10.2, 10.5): the write granted, the last write of a render frame apart, is performed: its
bytes, and no others, stand in host memory after it; a read changes no byte; a record write's oldest READY
entry is WRITING; nothing else changes but in the engine. Writes to one byte take effect in the order of their grants:
when a requester's next report completes its accesses, a write granted earlier to another, in flight still, has noted
of its own bytes those the completed writes granted after it have put there, which stand though it is cut or fails
(the model's choice, log 7). -/
def Obligations.GrantedWriteReachesMemory : Prop :=
  ∀ (s t : State) (a : Access), s.regs.part ≠ .faulted → exec .accessGrant s = .next t →
    t.engine.flight = s.engine.flight ++ [a] → (∀ frame, a.purpose ≠ .renderWrite frame true) →
    (∀ address, ¬ a.covers address → Memory.read t.written address = Memory.read s.written address) ∧
    (∀ bytes, a.action = .write bytes → ∀ i, i < bytes.length →
      Memory.read t.written (a.address + i) = bytes[i]?) ∧
    (∀ n, a.action = .read n → t.written = s.written) ∧
    (∀ c card sheet slot, a.who = .channel c → a.purpose = .recordWrite card sheet slot →
      OtherRows c s t ∧ t = { s with chans := t.chans, engine := t.engine, written := t.written } ∧
      ∀ before record after, (s.row c).queue = before ++ .ready record card sheet slot :: after →
        (∀ e ∈ before, ∀ x n m p, e ≠ .ready x n m p) →
        t.row c = { s.row c with queue := before ++ .writing record card sheet slot :: after }) ∧
    ((∀ card sheet slot, a.purpose ≠ .recordWrite card sheet slot) →
      t = { s with engine := t.engine, written := t.written }) ∧
  ∀ (s : State) (who : Requester) (before mid after : List Access) (a b : Access),
    s.engine.flight = before ++ a :: (mid ++ b :: after) → a.who ≠ who → b.who = who → b.purpose.quiet = false →
    (∀ e ∈ before ++ mid, e.who = who → e.purpose.quiet = true) →
    ∃ rest later, nextDue who s.engine.flight = some (b, rest) ∧ { a with later := later } ∈ rest ∧
      ∀ n, a.covers n → ((∃ r ∈ later, r.1 ≤ n ∧ n < r.1 + r.2) ↔
        a.settledAt n = true ∨ ∃ e ∈ mid ++ [b], e.who = who ∧ e.covers n)

/-- ACCESS_FAILURE (10.5, 9.1): the failure of a requester's granted access makes the part FAULTED with READ or WRITE
and its area, empties the queues, raises one MSI where INT_ENABLE is set and leaves the part disarmed; a render
buffer write apart. The area is SETUP, DESK, ORDERS, MAP, CARDS or SHEETS by the structure the access is for, and for
a read its block has given up the area it had. The access named is the requester's oldest, or stands behind older
ones that complete without a report of their own (the model's choice, log 8); behind one with a report it cannot fail
yet (the model's choice, log 2). Nothing is known of the bytes of a failed write, but for those that a later-granted
write, complete or in flight, has put there: by the order of grants they stand over it (the model's choice, log 7).
-/
def Obligations.FailureFaultsThePart : Prop :=
  ∀ (s : State) (who : Requester) (before after : List Access) (a : Access),
    s.engine.flight = before ++ a :: after → a.who = who →
    (∀ frame last, a.purpose ≠ .renderWrite frame last) →
    s.regs.part = .starting ∨ s.regs.part = .running ∨ s.regs.part = .quiescing →
    let place := before.countP fun b => b.who = who
    let area : Area := match a.purpose with
      | .setupRead _ => .setup
      | .deskOpening | .deskBody _ | .deskHeader => .desk
      | .startSlotRead | .slotRead _ | .acceptWrite | .finishResult _ | .finishState _ => .orders
      | .startMapRead | .scanRead | .reopenMapRead _ | .mapWrite | .filedWrite .. => .map
      | .startCardRead | .startCardWrite | .searchRead | .cardWriting _ | .cardBody .. | .cardFirst ..
      | .reopenCardRead .. | .orderCardRead | .renderCardRead _ => .cards
      | .recordWrite .. | .headerWrite .. | .playbackRead _ | .indexWrite .. | .reopenIndexRead _
      | .renderIndexRead | .reopenRecordRead _ | .renderRecordRead .. => .sheets
      | .abandonedRead given => given
      | .renderWrite .. => .none
    ((∃ b ∈ before, b.who = who ∧ b.purpose.quiet = false) → exec (.accessFailure who place) s = .next s) ∧
    ((∀ b ∈ before, b.who = who → b.purpose.quiet = true) →
      ∃ t, exec (.accessFailure who place) s = .next t ∧
        t.regs = { s.regs with
          part := .faulted,
          fault := { kind := match a.action with | .write _ => .write | .read _ => .read,
                     area := area, field := 0 } } ∧
        (∃ left, t.engine = { s.engine with waiting := [], flight := left ++ after } ∧
          left.map (fun b => { b with later := [] }) =
            (before.filter fun b => b.who ≠ who).map fun b => { b with later := [] }) ∧
        t.msi = s.msi + (if s.regs.intEnable then 1 else 0) ∧
        t.desk = { s.desk with armed := s.desk.armed && !s.regs.intEnable } ∧
        (∀ c : Chan, t.row c = { s.row c with queue := [], ahead := [] }) ∧
        let stands := fun address => a.settledAt address = true ∨ ∃ b ∈ after, b.covers address
        (∀ address, a.covers address → ¬ stands address → Memory.read t.written address = none) ∧
        (∀ address, ¬ a.covers address ∨ stands address →
          Memory.read t.written address = Memory.read s.written address) ∧
        t = { s with
          regs := t.regs, chans := t.chans, engine := t.engine, desk := t.desk, written := t.written,
          msi := t.msi })

/-- RECORD_WRITE_COMPLETE, HEADER_WRITE_COMPLETE, PLAYBACK_READ_COMPLETE (1.5, 2.5, 3.4, 10.2, 10.3): a record
written leaves its write queue, and into its room frames pending as lost are placed as a LOST record of up to 255,
with LOST_AUDIO; a header written lets the free that waited for it go, by the block that frees; a record read fills
the oldest empty place of the read-ahead, and output begins once two records are ready. -/
def Obligations.ChannelAccessesComplete : Prop :=
  ∀ (s : State) (c : Chan) (a : Access) (rest : List Access), Due s (.channel c) a rest →
    let u := s.landed rest
    let r := s.row c
    (∀ card sheet slot before record after, a.purpose = .recordWrite card sheet slot →
      r.queue = before ++ .writing record card sheet slot :: after →
      (∀ e ∈ before, ∀ x n m p, e ≠ .writing x n m p) → firstWaiting r.queue = none → r.op = none →
      (r.codec.lost = 0 →
        ∃ t, exec (.recordWriteComplete c) s = .next t ∧
          RowBecomes u t c { r with queue := before ++ after }) ∧
      ∀ w p left right, r.queue.length = 4 → r.ctx.state = .recording → 0 < r.codec.lost →
        r.sheet = some w → w.next ≤ 127 → r.placement = some p → p.mode ≠ .overwrite →
        AtCursor r left right →
        Extends left p.spanOpen r.ctx.instruct w ∨ (left ++ right).length < 1024 →
        let f := min r.codec.lost 255
        let lost := Rec.pause f true
        r.length + f ≤ 120000 →
        ∃ t spans, exec (.recordWriteComplete c) s = .next t ∧
          Joined left right p.spanOpen r.ctx.instruct w 1 f spans ∧
          t.row c = { r with
            spans := some spans, codec := { r.codec with lost := r.codec.lost - f },
            ctx := { r.ctx with cursor := r.ctx.cursor + f, transient := some (.lostAudio, 32) },
            placement := some { p with recorded := p.recorded + f, spanOpen := true },
            sheet := some { w with next := w.next + 1 },
            queue := before ++ after ++ [.ready lost w.card w.sheet w.next] } ∧
          RecordEntered s t w.sheet w.next lost ∧ HandedOver u t (placedWrites s.setup c w lost) ∧
          OtherRows c s t) ∧
    (∀ card sheet, a.purpose = .headerWrite card sheet →
      ((∀ w ∈ s.sheets.freeWait, w.sheet ≠ sheet) → exec (.headerWriteComplete c) s = .next u) ∧
      ∀ before who after, s.sheets.freeWait = before ++ { who := who, sheet := sheet } :: after →
        (∀ w ∈ before ++ after, w.sheet ≠ sheet) →
        (∀ b ∈ s.engine.waiting ++ rest, ∀ n, b.purpose ≠ .headerWrite n sheet) →
        ∃ t, exec (.headerWriteComplete c) s = .next t ∧
          HandedOver u t [mapWriteOf s.setup who .mapWrite sheet 0 0] ∧
          t.sheets.freeWait = before ++ after ∧
          t.sheets.tally = min (s.sheets.tally + 1) s.setup.sheetCount ∧
          t.sheets.stack = s.sheets.stack ∧
          t = { u with sheets := t.sheets, engine := t.engine, desk := t.desk }) ∧
    (∀ data before q after, a.purpose = .playbackRead true → r.ahead = before ++ q :: after →
      q.data = none → (∀ e ∈ before, e.data ≠ none) →
      ∃ t, exec (.playbackReadComplete c data) s = .next t ∧
        (t.row c).ahead = before ++ { q with data := some data } :: after ∧
        ((t.row c).began = r.began ∨ (t.row c).began = true) ∧
        (before ≠ [] → (t.row c).began = true) ∧
        t.row c = { r with ahead := (t.row c).ahead, began := (t.row c).began } ∧
        OtherRows c s t ∧ t = { u with chans := t.chans }) ∧
    ∀ data, a.purpose = .playbackRead false → exec (.playbackReadComplete c data) s = .next u

/-! ### The sheet map -/

/-- CLAIM_SCAN_START, MAP_LINE_READ_COMPLETE (4.3, 4.4, 4.6, 4.7): a started scan reads the line of the claim
cursor; of a line read, each FREE entry from the cursor on is claimed, pushed and written CLAIMED, and the next line
read; a sheet claimed while a take waits for one is given to it at once; the scan ends at the entry it meets with 16
in the stack, and reads on where the sixteenth was the line's last entry; it ends where every entry has been examined,
which with an empty stack enters storage out, and each waiting request is then answered so: a take ends into SAVING
with STORAGE_OUT, its waiting records discarded, and an opening with STORAGE_OUT, its card released. -/
def Obligations.ClaimScanWorksThroughTheMap : Prop :=
  (∀ s : State, s.regs.part = .running ∨ s.regs.part = .quiescing → s.sheets.scan = .starting →
    ∃ t, exec .claimScanStart s = .next t ∧
      HandedOver s t [readOf .sheetManager .scanRead
        ((s.setup.mapBase + 64 * (s.sheets.cursor / 32)) % 2 ^ 64)] ∧
      t = { s with sheets := { s.sheets with scan := .reading }, engine := t.engine }) ∧
  ∀ (s : State) (a : Access) (rest : List Access) (data : List Byte),
    Due s .sheetManager a rest → a.purpose = .scanRead → s.regs.part ≠ .starting →
    s.sheets.cursor < s.setup.sheetCount →
    let u := s.landed rest
    let first := s.sheets.cursor
    let last := min (32 * (first / 32 + 1)) s.setup.sheetCount
    let entries := (List.range (last - first)).map (first + ·)
    let claimed := entries.filter fun n => byteAt data (2 * (n % 32)) == 0
    let onward := fun n => if n = s.setup.sheetCount then 0 else n
    let claims := fun l : List Nat => l.map fun n => mapWriteOf s.setup .sheetManager .mapWrite n 1 0
    let nextLine := readOf .sheetManager .scanRead ((s.setup.mapBase + 64 * (onward last / 32)) % 2 ^ 64)
    (s.sheets.waiting = [] → s.sheets.stack.length + claimed.length < 16 →
      s.sheets.examined + entries.length < s.setup.sheetCount →
      ∃ t, exec (.mapLineReadComplete data) s = .next t ∧
        t.sheets.stack = claimed.reverse ++ s.sheets.stack ∧
        t.sheets.tally = s.sheets.tally - claimed.length ∧ t.sheets.cursor = onward last ∧
        t.sheets.scan = .reading ∧ t.sheets.scanAgain = s.sheets.scanAgain ∧ t.sheets.waiting = [] ∧
        (claimed = [] → t.sheets.examined = s.sheets.examined + entries.length ∧
          t.sheets.storageOut = s.sheets.storageOut) ∧
        (claimed ≠ [] → t.sheets.storageOut = false) ∧
        HandedOver u t (claims claimed ++ [nextLine]) ∧
        t = { u with sheets := t.sheets, engine := t.engine, desk := t.desk } ∧ DeskReported u t) ∧
    (s.sheets.waiting = [] → s.sheets.stack.length < 16 → 16 ≤ s.sheets.stack.length + claimed.length →
      s.sheets.examined + entries.length < s.setup.sheetCount →
      let n := 16 - s.sheets.stack.length
      ∃ t final, exec (.mapLineReadComplete data) s = .next t ∧ claimed[n - 1]? = some final ∧
        t.sheets.stack = (claimed.take n).reverse ++ s.sheets.stack ∧
        t.sheets.tally = s.sheets.tally - n ∧ t.sheets.storageOut = false ∧ t.sheets.waiting = [] ∧
        (final + 1 < last → t.sheets.cursor = final + 1 ∧ t.sheets.scan = .idle ∧ t.sheets.scanAgain = false ∧
          HandedOver u t (claims (claimed.take n))) ∧
        (last ≤ final + 1 → t.sheets.cursor = onward last ∧ t.sheets.scan = .reading ∧
          t.sheets.scanAgain = s.sheets.scanAgain ∧ HandedOver u t (claims (claimed.take n) ++ [nextLine])) ∧
        t = { u with sheets := t.sheets, engine := t.engine, desk := t.desk } ∧ DeskReported u t) ∧
    (∀ (c : Chan) more l p before rec tied after left right, s.sheets.waiting = .take c :: more →
      s.sheets.scan ≠ .idle → s.sheets.stack = [] → last = first + 1 → byteAt data (2 * (first % 32)) = 0 →
      let r := s.row c
      let w : WriteSheet := { sheet := first, next := 1, card := l.card, take := l.takes % 256 }
      r.ctx.state = .recording → r.op = none → r.ctx.letter = some l → r.placement = some p →
      p.mode ≠ .overwrite → r.codec.lost = 0 → rec.isLost = false → AtCursor r left right →
      r.queue = before ++ .waiting rec tied :: after → firstWaiting before = none → firstWaiting after = none →
      Extends left p.spanOpen r.ctx.instruct w ∨ (left ++ right).length < 1024 →
      r.length + rec.frames ≤ 120000 →
      ∃ t spans, exec (.mapLineReadComplete data) s = .next t ∧
        Joined left right p.spanOpen r.ctx.instruct w 1 rec.frames spans ∧
        t.row c = { r with
          spans := some spans, ctx := { r.ctx with cursor := r.ctx.cursor + rec.frames },
          placement := some { p with recorded := p.recorded + rec.frames, spanOpen := true },
          sheet := some { w with next := 2 }, queue := before ++ .ready rec l.card first 1 :: after } ∧
        RecordEntered s t first 1 rec ∧ OtherRows c s t ∧ t.sheets.stack = [] ∧ t.sheets.waiting = more ∧
        t.sheets.tally = s.sheets.tally - 1 ∧ t.sheets.cursor = onward last ∧ t.sheets.scan = .reading ∧
        t.sheets.storageOut = false ∧
        HandedOver u t (claims [first] ++ mapWriteOf s.setup .sheetManager .mapWrite first 2 l.card ::
          placedWrites s.setup c w rec ++ [nextLine])) ∧
    (16 ≤ s.sheets.stack.length → exec (.mapLineReadComplete data) s =
      .next { u with sheets := { s.sheets with scan := .idle, scanAgain := false } }) ∧
    (s.sheets.stack = [] → s.sheets.waiting = [] → s.sheets.scanAgain = false →
      byteAt data (2 * (first % 32)) ≠ 0 → s.setup.sheetCount ≤ s.sheets.examined + 1 →
      exec (.mapLineReadComplete data) s = .next { u with sheets := { s.sheets with
        cursor := onward (first + 1), examined := s.sheets.examined + 1, scan := .idle, storageOut := true } }) ∧
    (s.regs.part = .running → s.sheets.stack = [] → s.sheets.scanAgain = false → s.sheets.waiting.Nodup →
      byteAt data (2 * (first % 32)) ≠ 0 → s.setup.sheetCount ≤ s.sheets.examined + 1 →
      (∀ c, .take c ∈ s.sheets.waiting → let r := s.row c
        r.ctx.state = .recording ∧ r.sheet = none ∧ r.codec.pending = 0 ∧ r.codec.lost = 0) →
      (∀ c, .index c ∈ s.sheets.waiting → (s.row c).ctx.state = .idle) →
      ∃ t, exec (.mapLineReadComplete data) s = .next t ∧
        t.sheets = { s.sheets with
          cursor := onward (first + 1), examined := s.sheets.examined + 1, scan := .idle, storageOut := true,
          waiting := [] } ∧
        (∀ c, .take c ∈ s.sheets.waiting → let r := s.row c
          t.row c = { r with
            sheet := none, flush := none, codec := { silent := 0, pending := 0, lost := 0 },
            queue := r.queue.filter fun e => match e with | .waiting .. => false | _ => true,
            placement := r.placement.map fun p => { p with closing := none }, op := some (.checkpoint .draining),
            ctx := { r.ctx with state := .busy .saving, transient := some (.storageOut, 32) } }) ∧
        (∀ c, .index c ∈ s.sheets.waiting → let r := s.row c
          t.row c = { r with
            op := none, ctx := { r.ctx with openRequest := none, transient := some (.storageOut, 32) } } ∧
          ∀ card, r.op = some (.opening (some card)) → Table.get t.cards.holdings card = none) ∧
        (∀ c, .take c ∉ s.sheets.waiting → .index c ∉ s.sheets.waiting → t.row c = s.row c) ∧
        t = { u with chans := t.chans, sheets := t.sheets, cards := t.cards, desk := t.desk } ∧ DeskReported u t)

/-- STACK_RETURN (4.7, 11.4): under quiesce, once no letter, operation or discard is left and no scan runs, the
stack is written FREE from the top down, the tally rises by each sheet, and storage out is cleared; it
happens once; while it is not due the command has no effect (the model's choice, log 2). -/
def Obligations.StackReturnFreesTheStack : Prop :=
  ∀ s : State,
    let settled := s.cards.openQueue = [] ∧ s.cards.search = none ∧ s.sheets.scan = .idle ∧
      ∀ c : Chan, s.chanState c = .unbound ∧ (s.row c).op = none ∧ (s.row c).discards = []
    (s.regs.part = .quiescing → settled → s.stackReturned = false →
      s.sheets.tally ≤ s.setup.sheetCount →
      ∃ t, exec .stackReturn s = .next t ∧ t.sheets.stack = [] ∧ t.sheets.storageOut = false ∧
        t.sheets.tally = min (s.sheets.tally + s.sheets.stack.length) s.setup.sheetCount ∧
        t.sheets.scan = .idle ∧ t.sheets.waiting = s.sheets.waiting ∧
        HandedOver s t (s.sheets.stack.map fun n => mapWriteOf s.setup .sheetManager .mapWrite n 0 0) ∧
        DeskReported s t ∧
        t = { s with sheets := t.sheets, engine := t.engine, desk := t.desk, stackReturned := true }) ∧
    (s.regs.part ≠ .quiescing ∨ ¬ settled ∨ s.stackReturned = true → exec .stackReturn s = .next s)

/-! ### Cards -/

/-- CARD_SEARCH_START, CARD_SEARCH_READ_COMPLETE (5.3, 1.4, 1.5, 4.7): a search serves the oldest open request, card
by card from the claim cursor; a card VACANT and without a holding is taken, and with a sheet in the stack the letter
opens: INDEX and the OPEN card handed over, the channel READY with an empty letter, from where a RECORD goes on to
its take, refused with STORAGE_HOLD where the sheet just taken brought the hold; a card otherwise is passed; the last
one passed gives NO_CARD. -/
def Obligations.CardSearchFindsAVacantCard : Prop :=
  (∀ (s : State) (c : Chan) (others : List Chan), s.regs.part = .running ∨ s.regs.part = .quiescing →
    s.cards.search = none → s.cards.openQueue = c :: others →
    ∃ t, exec .cardSearchStart s = .next t ∧
      HandedOver s t [readOf .cardUnit .searchRead
        ((s.setup.cardBase + (256 * s.cards.cursor + 64 * 0)) % 2 ^ 64)] ∧
      t = { s with
        cards := { s.cards with search := some { channel := c, examined := 0 }, openQueue := others },
        engine := t.engine }) ∧
  ∀ (s : State) (a : Access) (rest : List Access) (c : Chan) (examined : Nat) (line : List Byte),
    Due s .cardUnit a rest → a.purpose = .searchRead →
    s.cards.search = some { channel := c, examined := examined } → s.regs.part = .running →
    let u := s.landed rest
    let card := s.cards.cursor
    let next := if card + 1 < s.setup.cardCount then card + 1 else 0
    let vacant := byteAt line 0 = 0 ∧ Table.get s.cards.holdings card = none
    let x := (s.row c).ctx
    (¬ vacant → examined + 1 < s.setup.cardCount →
      ∃ t, exec (.cardSearchReadComplete line) s = .next t ∧
        HandedOver u t [readOf .cardUnit .searchRead ((s.setup.cardBase + (256 * next + 64 * 0)) % 2 ^ 64)] ∧
        t = { u with
          cards := { s.cards with cursor := next, search := some { channel := c, examined := examined + 1 } },
          engine := t.engine }) ∧
    (¬ vacant → s.setup.cardCount ≤ examined + 1 →
      ∃ t, exec (.cardSearchReadComplete line) s = .next t ∧
        RowBecomes { u with cards := { s.cards with cursor := next, search := none } } t c { s.row c with
          op := none, ctx := { x with openRequest := none, transient := some (.noCard, 32) } }) ∧
    ∀ top more cause, vacant → s.sheets.stack = top :: more → s.sheets.waiting = [] →
      x.openRequest = some cause →
      let letter : OpenLetter := { card := card, priority := x.defaultPriority, takes := 0 }
      let opened := { s.row c with
        op := none, spans := some [],
        ctx := { x with openRequest := none, cursor := 0, state := .ready, letter := some letter } }
      ∃ t image, exec (.cardSearchReadComplete line) s = .next t ∧
        image = { state := 1, writing := false, damaged := false, channel := c.val, author := x.author,
                  priority := x.defaultPriority, index := top, spanCount := 0, length := 0,
                  instructionFrames := 0, lostFrames := 0, clipped := 0, takes := 0, sequence := 0 } ∧
        HandedOver u t (mapWriteOf s.setup .cardUnit .mapWrite top 3 card ::
          bodyWrites s.setup card image .plain) ∧
        (cause = .new → t.row c = opened) ∧
        (cause = .record → t.sheets.hold = true →
          t.row c = { opened with ctx := { opened.ctx with transient := some (.storageHold, 32) } }) ∧
        (cause = .record → t.sheets.hold = false → t.row c = { opened with
          placement := some { mode := .append, recorded := 0, removed := 0, spanOpen := false, closing := none },
          codec := { silent := 0, pending := 0, lost := 0 }, flush := none,
          ctx := { opened.ctx with state := .recording, letter := some { letter with takes := 1 } } }) ∧
        (s.setup.low ≤ s.sheets.tally + more.length → s.sheets.hold = false → t.sheets.hold = false) ∧
        (s.sheets.tally + more.length < s.setup.low → t.sheets.hold = true) ∧
        OtherRows c s t ∧ t.sheets.stack = more ∧ t.sheets.tally = s.sheets.tally ∧
        t.cards.cursor = next ∧ t.cards.search = none ∧ t.cards.openQueue = s.cards.openQueue ∧
        Table.get t.cards.holdings card = some (.held c) ∧ Table.get t.cards.images card = some image ∧
        (∀ n, n ≠ card → Table.get t.cards.holdings n = Table.get s.cards.holdings n ∧
          Table.get t.cards.images n = Table.get s.cards.images n) ∧
        t = { u with
          chans := t.chans, cards := t.cards, sheets := t.sheets, engine := t.engine, desk := t.desk }

/-- CHECKPOINT_BEGIN, CHECKPOINT_WRITING_WRITTEN, INDEX_LINES_WRITTEN, CARD_BODY_WRITTEN (5.1, 5.2, 5.4): WRITING on
the card's first line; then the span entries in lines of eight on the index sheet; then the whole card VALID with the
letter's figures as the record table gives them then (the model's choice, log 70), a slot without an entry there
neither LOST nor CLIPPED (the model's choice, log 73), its first line after the three others. -/
def Obligations.CheckpointRunsInStages : Prop :=
  ∀ (s : State) (c : Chan) (l : OpenLetter) (k : Card) (op : CardOp),
    (s.row c).ctx.letter = some l → Table.get s.cards.images l.card = some k → (s.row c).op = some op →
    let spans := (s.row c).spanList
    let lines := (spans.length + 7) / 8
    let image := { k with
      writing := false, spanCount := spans.length, length := (s.row c).length,
      instructionFrames := instructionFrames spans, lostFrames := lostFrames s.letters.records spans,
      clipped := clippedRecords s.letters.records spans, priority := l.priority, takes := l.takes }
    let moved := fun (u t : State) (stage : OpStage) (written : Card) =>
      t.row c = { s.row c with op := some (op.at stage) } ∧ OtherRows c s t ∧
      t = { u with
        chans := t.chans, cards := { s.cards with images := Table.put s.cards.images l.card written },
        engine := t.engine }
    (s.regs.part = .running ∨ s.regs.part = .quiescing → s.drained c = true → s.cardWriteRunning l.card = false →
      (op = .checkpoint .draining ∨ (∃ b, op = .filing .draining b) ∨ op = .suspending .draining) →
      ∃ t, exec (.checkpointBegin c) s = .next t ∧
        HandedOver s t [writeOf .cardUnit (.cardWriting c)
          ((s.setup.cardBase + (256 * l.card + 64 * 0)) % 2 ^ 64) (cardFirstLine { k with writing := true })] ∧
        moved s t .writing { k with writing := true }) ∧
    ∀ (a : Access) (rest : List Access), Due s .cardUnit a rest →
      (a.purpose = .cardWriting c → spans ≠ [] →
        ∃ t, exec (.checkpointWritingWritten c) s = .next t ∧
          HandedOver (s.landed rest) t ((List.range lines).map fun i =>
            writeOf .cardUnit (.indexWrite c (i + 1 == lines))
              ((s.setup.poolBase + (8192 * k.index + 64 * i)) % 2 ^ 64) (indexLineBytes spans i)) ∧
          t.row c = { s.row c with op := some (op.at .index) } ∧ OtherRows c s t ∧
          t = { s.landed rest with chans := t.chans, engine := t.engine }) ∧
      (a.purpose = .cardWriting c → spans = [] →
        ∃ t, exec (.checkpointWritingWritten c) s = .next t ∧
          HandedOver (s.landed rest) t (bodyWrites s.setup l.card image (.checkpoint c)) ∧
          moved (s.landed rest) t .valid image) ∧
      (a.purpose = .indexWrite c true →
        ∃ t, exec (.indexLinesWritten c) s = .next t ∧
          HandedOver (s.landed rest) t (bodyWrites s.setup l.card image (.checkpoint c)) ∧
          moved (s.landed rest) t .valid image) ∧
      ∀ card first ends, a.purpose = .cardBody card first ends true → (∀ d, ends ≠ .discarded d) →
        ∃ t, exec .cardBodyWritten s = .next t ∧
          HandedOver (s.landed rest) t [writeOf .cardUnit (.cardFirst card ends)
            ((s.setup.cardBase + (256 * card + 64 * 0)) % 2 ^ 64) first] ∧
          t = { s.landed rest with engine := t.engine }

/-- CHECKPOINT_COMPLETE, FILED_WRITES_COMPLETE (5.4, 5.5, 5.6, 5.7, 1.4, 1.5, 1.7, 3.2): SAVING ends in READY, its
placement record removed, and there a pending close, or quiesce, has the letter suspended, and a pending file without
a close has it filed, kept while the filing runs, which is marked as begun by an order (DEDUCED, the model's choice,
log 20), or, where it is empty, discarded and the order answered DISCARDED_EMPTY; a filing or a suspension, which
keeps its placement record until the channel leaves CLOSING, writes FILED for the index sheet and each sheet in order
of first reference, then the whole card, FILED with the next filing sequence or SUSPENDED with the one it had. -/
def Obligations.CheckpointLeadsOn : Prop :=
  ∀ (s : State) (c : Chan) (a : Access) (rest : List Access) (l : OpenLetter) (k : Card) (op : CardOp),
    Due s .cardUnit a rest → (s.row c).ctx.letter = some l → Table.get s.cards.images l.card = some k →
    (s.row c).op = some op → s.regs.part = .running ∨ s.regs.part = .quiescing →
    let u := s.landed rest
    let x := (s.row c).ctx
    let saved := { s.row c with op := none, placement := none, ctx := { x with state := .ready } }
    let filing := ∃ stage b, op = .filing stage b
    let suspending := ∃ stage, op = .suspending stage
    (∀ card stage, a.purpose = .cardFirst card (.checkpoint c) → op = .checkpoint stage →
      (x.pendingClose = none → x.pendingFile = none → s.regs.part = .running →
        ∃ t, exec (.checkpointComplete c) s = .next t ∧ RowBecomes u t c saved) ∧
      (x.pendingClose ≠ none ∨ (x.pendingFile = none ∧ s.regs.part = .quiescing) →
        ∃ t, exec (.checkpointComplete c) s = .next t ∧ RowBecomes u t c { saved with
          op := some (.suspending .draining), ctx := { x with state := .busy .closing, keys := [] } }) ∧
      (x.pendingClose = none → x.pendingFile ≠ none → (s.row c).length ≠ 0 →
        ∃ t, exec (.checkpointComplete c) s = .next t ∧ RowBecomes u t c { saved with
          op := some (.filing .draining true), ctx := { x with state := .busy .filing } }) ∧
      ∀ j, x.pendingClose = none → x.pendingFile = some j → (s.row c).length = 0 → s.regs.part = .running →
        ∃ t sheets, exec (.checkpointComplete c) s = .next t ∧ FirstReferences (s.row c).spanList sheets ∧
          SheetsLeave s t (s.row c).spanList ∧ OtherRows c s t ∧
          t.row c = { saved with
            spans := none,
            discards := (s.row c).discards ++ [{ card := l.card, index := k.index, sheets := sheets }],
            ctx := { x with
              letter := none, cursor := 0, playPos := none, state := .idle, pendingFile := none,
              transient := some (.discarded, 32) } } ∧
          HandedOver u t [writeOf .orderUnit (.finishResult j)
            ((s.base + (0x800 + 64 * j.val + 0x30)) % 2 ^ 64)
            (bytesOf 4 4 ++ bytesOf 4 l.card ++ bytesOf 4 0 ++
              bytesOf 4 (s.orders.finishCounter + 1#32).toNat)] ∧
          t.orders.accepted = s.orders.accepted.set j none ∧
          t.cards = { s.cards with holdings := Table.put s.cards.holdings l.card (.discarding c) } ∧
          t = { u with
            chans := t.chans, letters := t.letters, cards := t.cards, orders := t.orders, engine := t.engine,
            desk := t.desk }) ∧
    (∀ card, a.purpose = .cardFirst card (.checkpoint c) → filing ∨ suspending →
      ∃ t sheets, exec (.checkpointComplete c) s = .next t ∧
        FirstReferences (s.row c).spanList sheets ∧
        (∃ marks : List Bool, marks = List.replicate sheets.length false ++ [true] ∧
          HandedOver u t (((k.index :: sheets).zip marks).map fun (n, last) =>
            mapWriteOf s.setup .cardUnit (.filedWrite c last) n 4 l.card)) ∧
        t.row c = { s.row c with op := some (op.at .filed) } ∧ OtherRows c s t ∧
        t = { u with chans := t.chans, engine := t.engine }) ∧
    (a.purpose = .filedWrite c true → filing →
      let n := if s.cards.sequence = 4294967295 then 1 else s.cards.sequence + 1
      let image := { k with state := 2, sequence := n }
      ∃ t, exec (.filedWritesComplete c) s = .next t ∧
        HandedOver u t (bodyWrites s.setup l.card image (.filed c)) ∧
        t.row c = { s.row c with op := some (op.at .card) } ∧ OtherRows c s t ∧
        t = { u with
          chans := t.chans, engine := t.engine,
          cards := { s.cards with sequence := n, images := Table.put s.cards.images l.card image } }) ∧
    (a.purpose = .filedWrite c true → suspending →
      let image := { k with state := 3 }
      ∃ t, exec (.filedWritesComplete c) s = .next t ∧
        HandedOver u t (bodyWrites s.setup l.card image (.suspended c)) ∧
        t.row c = { s.row c with op := some (op.at .card) } ∧ OtherRows c s t ∧
        t = { u with
          chans := t.chans, engine := t.engine,
          cards := { s.cards with images := Table.put s.cards.images l.card image } })

/-- FILING_COMPLETE (5.5, 1.4, 1.7, 5.3, 9.4): the roll takes the filing, its oldest of sixteen going first; the
letter leaves the letter store and its card's holding ends; the channel is IDLE with FILED; the filing is reported
to the desk unit; an order that caused it is DONE with card and sequence. A pending close then unbinds the channel, its
order DONE, and so does quiesce; else a pending file that came meanwhile is REFUSED_CHANNEL_STATE, and the opening of
a NEW follows, or, under the storage hold, STORAGE_HOLD. -/
def Obligations.FilingEndsInIdle : Prop :=
  ∀ (s : State) (c : Chan) (a : Access) (rest : List Access) (card : Nat) (l : OpenLetter) (k : Card)
      (stage : OpStage) (byOrder : Bool),
    Due s .cardUnit a rest → a.purpose = .cardFirst card (.filed c) →
    s.regs.part = .running ∨ s.regs.part = .quiescing →
    (s.row c).ctx.letter = some l → Table.get s.cards.images l.card = some k →
    (s.row c).op = some (.filing stage byOrder) →
    let u := s.landed rest
    let x := (s.row c).ctx
    let filed := { s.row c with
      op := none, spans := none,
      ctx := { x with
        letter := none, cursor := 0, state := .idle, pendingFile := none, openAfter := false,
        transient := some (.filed, 32) } }
    let answer := fun (j : OrderSlot) (code first second : Nat) =>
      writeOf .orderUnit (.finishResult j) ((s.base + (0x800 + 64 * j.val + 0x30)) % 2 ^ 64)
        (bytesOf 4 code ++ bytesOf 4 first ++ bytesOf 4 second ++
          bytesOf 4 (s.orders.finishCounter + 1#32).toNat)
    let entry := { card := l.card, sequence := k.sequence, priority := l.priority : RollEntry }
    ∃ t, exec (.filingComplete c) s = .next t ∧
      (s.cards.roll.length < 16 → t.cards.roll = s.cards.roll ++ [entry]) ∧
      (16 ≤ s.cards.roll.length → t.cards.roll = s.cards.roll.tail ++ [entry]) ∧
      t.cards.sequence = s.cards.sequence ∧ HoldingEnds s t l.card ∧
      SheetsLeave s t (s.row c).spanList ∧ OtherRows c s t ∧
      t.desk.filings = s.desk.filings + 1#32 ∧ t.desk.changed = true ∧
      (l.priority = .urgent ∨ s.setup.filingMark ≤ (s.desk.filings + 1#32).toNat →
        (s.desk.writing = false → t.desk.requested = true) ∧ (s.desk.writing = true → t.desk.again = true)) ∧
      (l.priority = .routine → (s.desk.filings + 1#32).toNat < s.setup.filingMark →
        t.desk.requested = s.desk.requested ∧ t.desk.again = s.desk.again) ∧
      (s.regs.part = .running → x.pendingClose = none →
        (x.openAfter = false → t.row c = filed ∧ t.cards.openQueue = s.cards.openQueue) ∧
        (x.openAfter = true → s.sheets.hold = false →
          t.row c = { filed with
            op := some (.opening none), ctx := { filed.ctx with openRequest := some .new } } ∧
          t.cards.openQueue = s.cards.openQueue ++ [c]) ∧
        (x.openAfter = true → s.sheets.hold = true →
          t.row c = { filed with ctx := { filed.ctx with transient := some (.storageHold, 32) } } ∧
          t.cards.openQueue = s.cards.openQueue) ∧
        (x.pendingFile = none → t = { u with
          chans := t.chans, letters := t.letters, cards := t.cards, desk := t.desk }) ∧
        ∀ j, x.pendingFile = some j →
          HandedOver u t [if byOrder then answer j 0 l.card k.sequence else answer j 19 0 0] ∧
          t.orders.accepted = s.orders.accepted.set j none) ∧
      (x.pendingFile = none → x.openRequest = none →
        (x.pendingClose ≠ none ∨ s.regs.part = .quiescing → (t.row c).ctx = Context.reset ∧
          (t.row c).op = none ∧ (t.row c).spans = none ∧ t.cards.openQueue = s.cards.openQueue) ∧
        (x.pendingClose = none → s.regs.part = .quiescing → t.orders = s.orders ∧ HandedOver u t []) ∧
        ∀ j, x.pendingClose = some j → HandedOver u t [answer j 0 0 0] ∧
          t.orders.accepted = s.orders.accepted.set j none)

/-- SUSPENSION_COMPLETE, DISCARD_PERFORM, CARD_BODY_WRITTEN (5.1, 5.6, 5.7, 1.7, 10.3): a suspended letter leaves the
store, its card's holding ends, and the channel is unbound, its STATION CLOSE finished with card + 1 and length. A
discarded letter's card is written VACANT once no record or header write of it is left; its first line handed over
after the other three, the index sheet and the sheets are written FREE in order, the holding ends and the letter is
off the list (the model's choice of the command that does each part, and of its place in the list until then, log
49). -/
def Obligations.SuspensionAndDiscardEndLetters : Prop :=
  (∀ (s : State) (c : Chan) (a : Access) (rest : List Access) (card : Nat) (l : OpenLetter),
    Due s .cardUnit a rest → a.purpose = .cardFirst card (.suspended c) →
    s.regs.part = .running ∨ s.regs.part = .quiescing → (s.row c).ctx.letter = some l →
    (s.row c).ctx.openRequest = none → (s.row c).ctx.pendingFile = none →
    let u := s.landed rest
    let x := (s.row c).ctx
    ∃ t, exec (.suspensionComplete c) s = .next t ∧ (t.row c).ctx = Context.reset ∧
      (t.row c).op = none ∧ (t.row c).spans = none ∧ (t.row c).placement = none ∧
      (t.row c).queue = (s.row c).queue ∧
      (t.row c).discards = (s.row c).discards ∧ OtherRows c s t ∧ HoldingEnds s t l.card ∧
      SheetsLeave s t (s.row c).spanList ∧ t.cards.roll = s.cards.roll ∧ t.cards.sequence = s.cards.sequence ∧
      (∀ v : Timeslot, t.inputs[v] = if x.inSlot = some v then InputReleased s.inputs[v] else s.inputs[v]) ∧
      (∀ v : Timeslot,
        t.outputs[v] = if x.outSlot = some v then { s.outputs[v] with owner := none } else s.outputs[v]) ∧
      (x.pendingClose = none → t = { u with
        chans := t.chans, inputs := t.inputs, outputs := t.outputs, letters := t.letters, cards := t.cards,
        desk := t.desk }) ∧
      ∀ j, x.pendingClose = some j →
        HandedOver u t [writeOf .orderUnit (.finishResult j)
          ((s.base + (0x800 + 64 * j.val + 0x30)) % 2 ^ 64)
          (bytesOf 4 0 ++ bytesOf 4 (l.card + 1) ++ bytesOf 4 (s.row c).length ++
            bytesOf 4 (s.orders.finishCounter + 1#32).toNat)] ∧
        t.orders.accepted = s.orders.accepted.set j none) ∧
  (∀ (s : State) (c : Chan) (d : Discard) (more : List Discard) (k : Card),
    s.regs.part = .running ∨ s.regs.part = .quiescing → (s.row c).discards = d :: more →
    Table.get s.cards.images d.card = some k →
    (∀ e ∈ (s.row c).queue, ∀ record n slot,
      e ≠ .ready record d.card n slot ∧ e ≠ .writing record d.card n slot) →
    (∀ b ∈ s.engine.waiting ++ s.engine.flight,
      (b.who = .channel c → ∀ n slot,
        b.purpose ≠ .headerWrite d.card n ∧ b.purpose ≠ .recordWrite d.card n slot) ∧
      (∀ card n, b.purpose = .headerWrite card n → n ∉ d.index :: d.sheets) ∧
      ∀ line e last, b.purpose ≠ .cardBody d.card line (.discarded e) last) →
    ∃ t, exec (.discardPerform c) s = .next t ∧
      HandedOver s t (bodyWrites s.setup d.card { k with state := 0 } (.discarded c)) ∧
      t = { s with
        cards := { s.cards with images := Table.put s.cards.images d.card { k with state := 0 } },
        engine := t.engine }) ∧
  ∀ (s : State) (c : Chan) (a : Access) (rest : List Access) (card : Nat) (first : List Byte)
      (before more : List Discard) (d : Discard),
    Due s .cardUnit a rest → a.purpose = .cardBody card first (.discarded c) true →
    (s.row c).discards = before ++ d :: more → d.card = card → (∀ e ∈ before, e.card ≠ card) →
    (∀ b ∈ s.engine.waiting ++ rest, ∀ n m, b.purpose = .headerWrite n m → m ∉ d.index :: d.sheets) →
    let u := s.landed rest
    ∃ t, exec .cardBodyWritten s = .next t ∧
      HandedOver u t (writeOf .cardUnit (.cardFirst card .plain)
          ((s.setup.cardBase + (256 * card + 64 * 0)) % 2 ^ 64) first ::
        (d.index :: d.sheets).map fun n => mapWriteOf s.setup .cardUnit .mapWrite n 0 0) ∧
      t.row c = { s.row c with discards := before ++ more } ∧ OtherRows c s t ∧ HoldingEnds s t card ∧
      (s.sheets.tally ≤ s.setup.sheetCount →
        t.sheets.tally = min (s.sheets.tally + (1 + d.sheets.length)) s.setup.sheetCount) ∧
      t.sheets.stack = s.sheets.stack ∧ t.sheets.freeWait = s.sheets.freeWait ∧
      t = { u with chans := t.chans, cards := t.cards, sheets := t.sheets, engine := t.engine, desk := t.desk }

/-- REOPEN_CARD_READ_COMPLETE, REOPEN_INDEX_READ_COMPLETE, REOPEN_RECORD_READ_COMPLETE, REOPEN_MAP_READ_COMPLETE
(5.8, 5.1, 7.6, 1.7): the card as it now stands is tested and written OPEN, the first read behind it handed over with
its three body lines (the model's choice, log 74); its index lines give the entries, all before the first record and
one read at a time (the model's choice, log 22); each entry is tested and each of its records read enters the letter
store; the FILED map entries of the card are noted, and written INDEX, AUDIO or FREE in ascending order when the
letter is READY with the cursor at its end and the order DONE. A test that fails after the OPEN write undoes what the
reopen put into the store and writes the card back with VALID and DAMAGED, the order REFUSED_DAMAGED, with no wait
for the write (the model's choice, log 60). LOADING ended, a pending close or quiesce has the letter suspended, or
unbinds the channel without one; a pending file without a close has it filed, kept while the filing runs, which is
marked as begun by an order (DEDUCED, the model's choice, log 20), or is REFUSED_CHANNEL_STATE. A DAMAGED byte other
than 0 is taken as set (the model's choice, log 26). -/
def Obligations.ReopenReadsTheLetterBack : Prop :=
  (∀ (s : State) (c : Chan) (a : Access) (rest : List Access) (data : List Byte), Due s .cardUnit a rest →
    s.regs.part = .running → (s.row c).ctx.pendingClose = none → (s.row c).ctx.pendingFile = none →
    let u := s.landed rest
    let r := s.row c
    let answer := fun (j : OrderSlot) (code first second : Nat) =>
      writeOf .orderUnit (.finishResult j) ((s.base + (0x800 + 64 * j.val + 0x30)) % 2 ^ 64)
        (bytesOf 4 code ++ bytesOf 4 first ++ bytesOf 4 second ++
          bytesOf 4 (s.orders.finishCounter + 1#32).toNat)
    let ordered := fun j : OrderSlot => (∃ n, s.orders.accepted[j] = some (.reopen n c)) ∧
      ∀ i, i < j → ∀ n, s.orders.accepted[i] ≠ some (.reopen n c)
    let damaged := fun (t : State) (card : Nat) (old : Card) (j : OrderSlot) (before : List Access)
        (spans : List Span) =>
      HandedOver u t (before ++ bodyWrites s.setup card { old with writing := false, damaged := true } .plain ++
        [answer j 23 0 0]) ∧
      HoldingEnds s t card ∧ SheetsLeave s t spans ∧ OtherRows c s t ∧
      t.row c = { r with op := none, spans := none, ctx := { r.ctx with state := .idle } } ∧
      t.orders.accepted = s.orders.accepted.set j none ∧
      t = { u with
        chans := t.chans, letters := t.letters, cards := t.cards, orders := t.orders, engine := t.engine,
        desk := t.desk }
    let recordRead := fun (sp : Span) (slot : Nat) => readOf .cardUnit (.reopenRecordRead c)
      ((s.setup.poolBase + (8192 * sp.sheet + 64 * (sp.first + slot))) % 2 ^ 64)
    let mapRead := fun line : Nat =>
      readOf .cardUnit (.reopenMapRead c) ((s.setup.mapBase + 64 * line) % 2 ^ 64)
    let stands := fun (q : ChanRow) (old : Card) (entries : List Span) =>
      q.length ≤ 120000 ∧
      (entries[q.spanList.length]? = none → q.length = old.length) ∧
      ∀ sp, entries[q.spanList.length]? = some sp →
        sp.sheet < s.setup.sheetCount ∧ sp.sheet ≠ old.index ∧ 1 ≤ sp.first ∧ sp.first ≤ 127 ∧
        1 ≤ sp.count ∧ sp.count ≤ 127 ∧ sp.first + sp.count - 1 ≤ 127 ∧
        ∀ e ∈ q.spanList, e.sheet ≠ sp.sheet ∨ e.first + e.count ≤ sp.first ∨ sp.first + sp.count ≤ e.first
    let goesOn := fun (t : State) (q : ChanRow) (old : Card) (entries : List Span) (before : List Access) =>
      OtherRows c s t ∧
      (entries[q.spanList.length]? = none → HandedOver u t (before ++ [mapRead 0]) ∧
        t.row c = { q with op := some (.reopening (.map old 0 [])) }) ∧
      ∀ sp, entries[q.spanList.length]? = some sp → HandedOver u t (before ++ [recordRead sp 0]) ∧
        t.row c = { q with op := some (.reopening (.records old entries 0 0)) }
    (∀ card, a.purpose = .reopenCardRead c true → r.op = some (.reopening (.card card)) →
      let old := cardOf data
      let image := { old with state := 1, channel := c.val, writing := false, damaged := false }
      let written := bodyWrites s.setup card image .plain
      let held := fun t : State => t = { u with
        chans := t.chans, engine := t.engine,
        cards := { s.cards with
          holdings := Table.put s.cards.holdings card (.held c),
          images := Table.put s.cards.images card image } }
      let fresh := { r with spans := some [] }
      (∀ j code, ordered j → (old.state ≠ 2 ∧ old.state ≠ 3 ∧ code = 21) ∨
          ((old.state = 2 ∨ old.state = 3) ∧ old.damaged = true ∧ code = 23) →
        ∃ t, exec (.reopenCardReadComplete c data) s = .next t ∧ HandedOver u t [answer j code 0 0] ∧
          t.orders.accepted = s.orders.accepted.set j none ∧
          RowBecomes { u with orders := t.orders, engine := t.engine } t c
            { r with op := none, ctx := { r.ctx with state := .idle } }) ∧
      (old.state = 2 ∨ old.state = 3 → old.damaged = false →
        (1 ≤ old.spanCount → old.spanCount ≤ 1024 → old.index < s.setup.sheetCount →
          ∃ t, exec (.reopenCardReadComplete c data) s = .next t ∧
            HandedOver u t (written ++ [readOf .cardUnit (.reopenIndexRead c)
              ((s.setup.poolBase + (8192 * old.index + 64 * 0)) % 2 ^ 64)]) ∧
            t.row c = { fresh with op := some (.reopening (.index old 0 [])) } ∧ OtherRows c s t ∧ held t) ∧
        (old.spanCount = 0 → old.index < s.setup.sheetCount → old.length = 0 →
          ∃ t, exec (.reopenCardReadComplete c data) s = .next t ∧ goesOn t fresh old [] written ∧ held t) ∧
        ∀ j, ordered j → 1024 < old.spanCount ∨ s.setup.sheetCount ≤ old.index ∨
            (old.spanCount = 0 ∧ old.length ≠ 0) →
          ∃ t, exec (.reopenCardReadComplete c data) s = .next t ∧ damaged t card old j written [])) ∧
    (∀ old line entries card, a.purpose = .reopenIndexRead c → s.reopenCardOf c = some card →
      r.op = some (.reopening (.index old line entries)) →
      (line + 1 < (old.spanCount + 7) / 8 →
        ∃ t, exec (.reopenIndexReadComplete c data) s = .next t ∧
          HandedOver u t [readOf .cardUnit (.reopenIndexRead c)
            ((s.setup.poolBase + (8192 * old.index + 64 * (line + 1))) % 2 ^ 64)] ∧
          t.row c = { r with op := some (.reopening (.index old (line + 1)
            (entries ++ (List.range 8).map (spanAt data)))) } ∧
          OtherRows c s t ∧ t = { u with chans := t.chans, engine := t.engine }) ∧
      ((old.spanCount + 7) / 8 ≤ line + 1 →
        let all := entries ++ (List.range (min 8 (old.spanCount - 8 * line))).map (spanAt data)
        (stands r old all → ∃ t, exec (.reopenIndexReadComplete c data) s = .next t ∧
          goesOn t r old all [] ∧ t = { u with chans := t.chans, engine := t.engine }) ∧
        ∀ j, ordered j → ¬ stands r old all → ∃ t, exec (.reopenIndexReadComplete c data) s = .next t ∧
          damaged t card old j [] r.spanList)) ∧
    (∀ old entries slot sum sp card, a.purpose = .reopenRecordRead c → s.reopenCardOf c = some card →
      r.op = some (.reopening (.records old entries slot sum)) → entries[r.spanList.length]? = some sp →
      let e := recordEntryOf data
      let q := { r with spans := some (r.spanList ++ [sp]) }
      let entered := fun t : State => t.live sp.sheet = s.live sp.sheet + 1 ∧
        Table.get t.letters.records (128 * sp.sheet + (sp.first + slot)) = some e ∧
        (∀ n, n ≠ 128 * sp.sheet + (sp.first + slot) →
          Table.get t.letters.records n = Table.get s.letters.records n) ∧
        (∀ n, n ≠ sp.sheet → t.live n = s.live n) ∧
        t = { u with chans := t.chans, letters := t.letters, engine := t.engine }
      (e.frames ≠ 0 → slot + 1 < sp.count →
        ∃ t, exec (.reopenRecordReadComplete c data) s = .next t ∧
          HandedOver u t [recordRead sp (slot + 1)] ∧
          t.row c = { r with op := some (.reopening (.records old entries (slot + 1) (sum + e.frames))) } ∧
          OtherRows c s t ∧ entered t) ∧
      (e.frames ≠ 0 → sp.count ≤ slot + 1 → sum + e.frames = sp.frames → stands q old entries →
        ∃ t, exec (.reopenRecordReadComplete c data) s = .next t ∧ goesOn t q old entries [] ∧ entered t) ∧
      ∀ j, ordered j →
        (e.frames = 0 → ∃ t, exec (.reopenRecordReadComplete c data) s = .next t ∧
          damaged t card old j [] (if slot = 0 then r.spanList else r.spanList ++ [sp])) ∧
        (e.frames ≠ 0 → sp.count ≤ slot + 1 → sum + e.frames ≠ sp.frames ∨ ¬ stands q old entries →
          ∃ t, exec (.reopenRecordReadComplete c data) s = .next t ∧
            damaged t card old j [] (r.spanList ++ [sp]))) ∧
    ∀ old line noted card, a.purpose = .reopenMapRead c → s.reopenCardOf c = some card →
      r.op = some (.reopening (.map old line noted)) →
      let all := noted ++ (((List.range (min 32 (s.setup.sheetCount - 32 * line))).filter fun i =>
        byteAt data (2 * i) == 4 && byteAt data (2 * i + 1) == card).map fun i => 32 * line + i)
      (32 * (line + 1) < s.setup.sheetCount →
        ∃ t, exec (.reopenMapReadComplete c data) s = .next t ∧
          HandedOver u t [mapRead (line + 1)] ∧
          t.row c = { r with op := some (.reopening (.map old (line + 1) all)) } ∧
          OtherRows c s t ∧ t = { u with chans := t.chans, engine := t.engine }) ∧
      (∀ j, s.setup.sheetCount ≤ 32 * (line + 1) → ordered j →
        (old.index ∉ all ∨ ∃ sp ∈ r.spanList, sp.sheet ∉ all) →
        ∃ t, exec (.reopenMapReadComplete c data) s = .next t ∧ damaged t card old j [] r.spanList) ∧
      ∀ j image, s.setup.sheetCount ≤ 32 * (line + 1) → old.index ∈ all →
        (∀ sp ∈ r.spanList, sp.sheet ∈ all) → ordered j → Table.get s.cards.images card = some image →
        (∀ b ∈ s.engine.waiting ++ rest, ∀ n m, b.purpose = .headerWrite n m →
          m ∉ all ∨ m = old.index ∨ 0 < s.live m) →
        ∃ t, exec (.reopenMapReadComplete c data) s = .next t ∧
          HandedOver u t (all.map (fun n =>
              if n = old.index then mapWriteOf s.setup .cardUnit .mapWrite n 3 card
              else if 0 < s.live n then mapWriteOf s.setup .cardUnit .mapWrite n 2 card
              else mapWriteOf s.setup .cardUnit .mapWrite n 0 0) ++
            [answer j 0 r.spanList.length r.length]) ∧
          t.row c = { r with
            op := none,
            ctx := { r.ctx with
              letter := some { card := card, priority := image.priority, takes := image.takes },
              cursor := r.length, state := .ready } } ∧
          OtherRows c s t ∧ t.orders.accepted = s.orders.accepted.set j none ∧
          t = { u with
            chans := t.chans, sheets := t.sheets, orders := t.orders, engine := t.engine, desk := t.desk }) ∧
  ∀ (s : State) (c : Chan) (a : Access) (rest : List Access) (data : List Byte) (j : OrderSlot),
    Due s .cardUnit a rest → s.regs.part = .running ∨ s.regs.part = .quiescing →
    (∃ n, s.orders.accepted[j] = some (.reopen n c)) →
    (∀ i, i < j → ∀ n, s.orders.accepted[i] ≠ some (.reopen n c)) →
    let u := s.landed rest
    let r := s.row c
    let x := r.ctx
    let number := s.orders.finishCounter + 1#32
    let answer := fun (i : OrderSlot) (code : Nat) (number : Word) =>
      writeOf .orderUnit (.finishResult i) ((s.base + (0x800 + 64 * i.val + 0x30)) % 2 ^ 64)
        (bytesOf 4 code ++ bytesOf 4 0 ++ bytesOf 4 0 ++ bytesOf 4 number.toNat)
    (∀ old line noted card image, a.purpose = .reopenMapRead c → s.reopenCardOf c = some card →
      r.op = some (.reopening (.map old line noted)) → Table.get s.cards.images card = some image →
      let all := noted ++ (((List.range (min 32 (s.setup.sheetCount - 32 * line))).filter fun i =>
        byteAt data (2 * i) == 4 && byteAt data (2 * i + 1) == card).map fun i => 32 * line + i)
      s.setup.sheetCount ≤ 32 * (line + 1) → old.index ∈ all → (∀ sp ∈ r.spanList, sp.sheet ∈ all) →
      let read := { x with
        letter := some { card := card, priority := image.priority, takes := image.takes }, cursor := r.length }
      ∃ t, exec (.reopenMapReadComplete c data) s = .next t ∧ OtherRows c s t ∧
        (x.pendingClose ≠ none ∨ (x.pendingFile = none ∧ s.regs.part = .quiescing) →
          t.orders.accepted = s.orders.accepted.set j none ∧
          t.row c = { r with
            op := some (.suspending .draining), ctx := { read with state := .busy .closing, keys := [] } }) ∧
        (x.pendingClose = none → x.pendingFile ≠ none → r.length ≠ 0 →
          t.orders.accepted = s.orders.accepted.set j none ∧
          t.row c = { r with op := some (.filing .draining true), ctx := { read with state := .busy .filing } })) ∧
    ∀ card, a.purpose = .reopenCardRead c true → r.op = some (.reopening (.card card)) →
      (cardOf data).state ≠ 2 → (cardOf data).state ≠ 3 → x.openRequest = none →
      ∃ t, exec (.reopenCardReadComplete c data) s = .next t ∧ OtherRows c s t ∧
        (∀ i, x.pendingClose = some i → x.pendingFile = none →
          (t.row c).ctx = Context.reset ∧ (t.row c).op = none ∧
          HandedOver u t [answer j 21 number, answer i 0 (number + 1#32)]) ∧
        (x.pendingClose = none → x.pendingFile = none → s.regs.part = .quiescing →
          (t.row c).ctx = Context.reset ∧ (t.row c).op = none ∧ HandedOver u t [answer j 21 number]) ∧
        ∀ i, x.pendingClose = none → x.pendingFile = some i → s.regs.part = .running →
          t.row c = { r with op := none, ctx := { x with state := .idle, pendingFile := none } } ∧
          HandedOver u t [answer j 21 number, answer i 19 (number + 1#32)]

/-! ### Renders -/

/-- RENDER_ACTIVATE, RENDER_CARD_READ_COMPLETE, RENDER_INDEX_READ_COMPLETE, RENDER_RECORD_READ_COMPLETE (8.1 to 8.4):
the first of the queue becomes active and its card is read; the card gives index sheet and span count; each index
line adds its entries that pass the tests, one line at a time (the model's choice, log 22), and the last fixes the
range: an empty one drains with nothing handed over, a start in a span that is not selected is S, and the next
selected span below the end is read, and in a selected span its records are read from its first slot; a record read
fills its place, and further records of selected spans that begin below the end may then be asked for (the model's
choice, log 23); in SEEK the next record is read until the start frame is reached; output begins at the record that
begins there, or with the one that contains it, whose bytes are kept (the model's choice, log 54), or, behind the
span's last record, with the zero frames left over there, the first reads handed over before the writes of the first of
these frames (the model's choice, log 72). -/
def Obligations.RenderReadsItsLetter : Prop :=
  (∀ (s : State) (k : OrderSlot) (more : List OrderSlot) (o : RenderOrder),
    s.regs.part = .running ∨ s.regs.part = .quiescing → s.render = none → s.orders.renders = k :: more →
    s.orders.accepted[k] = some (.render o) →
    ∃ t x, exec .renderActivate s = .next t ∧ t = { s with render := some x, engine := t.engine } ∧
      x.slot = k ∧ x.order = o ∧ x.stage = .card ∧ x.spans = [] ∧ x.ahead = [] ∧ x.decode = none ∧
      x.handed = 0 ∧ x.written = 0 ∧ x.failed = none ∧ x.stop = false ∧
      HandedOver s t ((List.range 4).map fun n =>
        readOf .render (.renderCardRead (n == 3)) ((s.setup.cardBase + (256 * o.card + 64 * n)) % 2 ^ 64))) ∧
  ∀ (s : State) (a : Access) (rest : List Access) (data : List Byte) (x : RenderContext),
    Due s .render a rest → s.render = some x →
    let u := s.landed rest
    let index := fieldAt data 0x40 2
    let spanCount := fieldAt data 0x42 2
    (a.purpose = .renderCardRead true → x.stage = .card → index < s.setup.sheetCount → 1 ≤ spanCount →
      ∃ t, exec (.renderCardReadComplete data) s = .next t ∧
        HandedOver u t [readOf .render .renderIndexRead
          ((s.setup.poolBase + (8192 * index + 64 * 0)) % 2 ^ 64)] ∧
        t = { u with
          engine := t.engine,
          render := some { x with
            stage := .index, index := index, spanCount := min spanCount 1024, line := 0 } }) ∧
    (a.purpose = .renderCardRead true → x.stage = .card → s.setup.sheetCount ≤ index ∨ spanCount = 0 →
      x.spans = [] →
      ∃ t y, exec (.renderCardReadComplete data) s = .next t ∧ t.render = some y ∧ y.stage = .draining ∧
        y.truncated = false ∧ y.handed = x.handed ∧ y.written = x.written ∧
        t.engine.waiting.length = s.engine.waiting.length ∧
        t = { u with engine := t.engine, render := t.render }) ∧
    (a.purpose = .renderIndexRead → x.stage = .index → x.line + 1 < (x.spanCount + 7) / 8 →
      let passing := ((List.range 8).map (spanAt data)).filter fun sp =>
        decide (sp.sheet < s.setup.sheetCount ∧ 1 ≤ sp.first ∧ sp.first ≤ 127 ∧ 1 ≤ sp.count ∧
          sp.count ≤ 127 ∧ sp.first + sp.count - 1 ≤ 127 ∧ 1 ≤ sp.frames ∧ sp.frames ≤ 32385)
      ∃ t, exec (.renderIndexReadComplete data) s = .next t ∧
        HandedOver u t [readOf .render .renderIndexRead
          ((s.setup.poolBase + (8192 * x.index + 64 * (x.line + 1))) % 2 ^ 64)] ∧
        t = { u with
          engine := t.engine, render := some { x with line := x.line + 1, spans := x.spans ++ passing } }) ∧
    (a.purpose = .renderIndexRead → x.stage = .index → (x.spanCount + 7) / 8 ≤ x.line + 1 → x.ahead = [] →
      let passing := ((List.range (min 8 (x.spanCount - 8 * x.line))).map (spanAt data)).filter fun sp =>
        decide (sp.sheet < s.setup.sheetCount ∧ 1 ≤ sp.first ∧ sp.first ≤ 127 ∧ 1 ≤ sp.count ∧
          sp.count ≤ 127 ∧ sp.first + sp.count - 1 ≤ 127 ∧ 1 ≤ sp.frames ∧ sp.frames ≤ 32385)
      let spans := x.spans ++ passing
      let length := (spans.map Span.frames).sum
      let last := if x.order.count = 0 then length else min (x.order.start + x.order.count) length
      let selected := fun sp : Span =>
        x.order.selection = .both ∨ (x.order.selection = .instruction ↔ sp.instruction = true)
      let record := fun (n : Nat) (sp : Span) => readOf .render (.renderRecordRead n 0)
        ((s.setup.poolBase + (8192 * sp.sheet + 64 * sp.first)) % 2 ^ 64)
      let reads := fun l : List Access => ∀ b ∈ l, b.who = .render ∧ b.action = .read 64 ∧
        ∃ n i, b.purpose = .renderRecordRead n i
      ∃ t y, exec (.renderIndexReadComplete data) s = .next t ∧ t = { u with engine := t.engine, render := some y } ∧
        y.spans = spans ∧ y.finish = last ∧ y.handed = x.handed ∧ y.written = x.written ∧ y.order = x.order ∧
        (last ≤ x.order.start → y.stage = .draining ∧ y.truncated = false) ∧
        ∀ before sp after, spans = before ++ sp :: after → (∀ e ∈ spans, 1 ≤ e.frames ∧ 1 ≤ e.count) →
          let first := (before.map Span.frames).sum
          x.order.start < last → first ≤ x.order.start → x.order.start < first + sp.frames →
          (selected sp → x.order.start = first → y.stage = .output ∧ y.start = first ∧
            y.ahead.head? = some { span := before.length, index := 0, data := none } ∧
            ∃ more, HandedOver u t (record before.length sp :: more) ∧ reads more) ∧
          (selected sp → first < x.order.start → y.stage = .seek ∧ y.position = first ∧
            HandedOver u t [record before.length sp]) ∧
          (¬ selected sp → y.start = x.order.start ∧
            ((∀ mid q tail, after = mid ++ q :: tail → selected q →
                last ≤ first + sp.frames + (mid.map Span.frames).sum) →
              y.stage = .draining ∧ y.truncated = false) ∧
            ∀ mid q tail, after = mid ++ q :: tail → selected q → (∀ e ∈ mid, ¬ selected e) →
              first + sp.frames + (mid.map Span.frames).sum < last →
              y.stage = .output ∧ y.position = first + sp.frames + (mid.map Span.frames).sum ∧
              y.ahead.head? = some { span := before.length + 1 + mid.length, index := 0, data := none } ∧
              ∃ more, HandedOver u t (record (before.length + 1 + mid.length) q :: more) ∧ reads more)) ∧
    (∀ span index before place after, a.purpose = .renderRecordRead span index → x.stage = .output →
      x.ahead = before ++ place :: after → place.data = none → (∀ p ∈ before, p.data ≠ none) →
      ∃ t y asked reads, exec (.renderRecordReadComplete data) s = .next t ∧ HandedOver u t reads ∧
        t = { u with engine := t.engine, render := some y } ∧ y.stage = .output ∧
        y.ahead = before ++ { place with data := some data } :: after ++ asked ∧
        (∀ p ∈ asked, p.data = none ∧ ∃ sp, x.spans[p.span]? = some sp ∧ p.index < sp.count ∧
          ((x.spans.take p.span).map Span.frames).sum < x.finish ∧
          (x.order.selection = .both ∨ (x.order.selection = .instruction ↔ sp.instruction = true))) ∧
        reads.length = asked.length ∧
        (∀ b ∈ reads, b.who = .render ∧ b.action = .read 64 ∧ ∃ n i, b.purpose = .renderRecordRead n i) ∧
        (asked ≠ [] → y.ahead.length ≤ 4) ∧ y.position = x.position ∧ y.handed = x.handed ∧
        (4 ≤ x.ahead.length → y = { x with ahead := y.ahead })) ∧
    ∀ span index sp, a.purpose = .renderRecordRead span index → x.stage = .seek → x.spans[span]? = some sp →
      let after := x.position + (if byteAt data 0 % 16 = 15 then max 1 (byteAt data 1) else 1)
      let record := fun i : Nat => readOf .render (.renderRecordRead span i)
        ((s.setup.poolBase + (8192 * sp.sheet + 64 * (sp.first + i))) % 2 ^ 64)
      let reads := fun l : List Access => ∀ b ∈ l, b.who = .render ∧ b.action = .read 64 ∧
        ∃ n i, b.purpose = .renderRecordRead n i
      let spoken := x.order.selection = .both ∨ (x.order.selection = .instruction ↔ sp.instruction = true)
      let first := (x.spans.take span).map Span.frames |>.sum
      (index + 1 < sp.count → after < x.order.start →
        ∃ t y, exec (.renderRecordReadComplete data) s = .next t ∧ HandedOver u t [record (index + 1)] ∧
          y = { x with position := after, askIndex := index + 2 } ∧
          t = { u with engine := t.engine, render := some y }) ∧
      (index + 1 < sp.count → x.order.start = after → spoken → first ≤ after → after < first + sp.frames →
        after < x.finish → x.ahead = [] →
        ∃ t y more, exec (.renderRecordReadComplete data) s = .next t ∧
          HandedOver u t (record (index + 1) :: more) ∧ reads more ∧ y.stage = .output ∧ y.start = after ∧
          y.position = after ∧ y.ahead.head? = some { span := span, index := index + 1, data := none } ∧
          y.ahead.length ≤ 4 ∧ y.handed = x.handed ∧ t = { u with engine := t.engine, render := some y }) ∧
      (x.order.start < after → x.position ≤ x.order.start → spoken → first ≤ x.position →
        x.position < first + sp.frames → x.order.start < x.finish →
        ∃ t y more, exec (.renderRecordReadComplete data) s = .next t ∧ HandedOver u t more ∧ reads more ∧
          y.stage = .output ∧ y.start = x.position ∧ y.position = x.position ∧
          y.ahead.head? = some { span := span, index := index, data := some data } ∧ y.ahead.length ≤ 4 ∧
          y.handed = x.handed ∧ t = { u with engine := t.engine, render := some y }) ∧
      (sp.count ≤ index + 1 → after ≤ x.order.start → spoken → first ≤ after →
        after + 1 < min (first + sp.frames) x.finish → x.ahead = [] → x.handed = 0 → 480 ≤ x.order.length →
        ∃ t y more writes, exec (.renderRecordReadComplete data) s = .next t ∧
          HandedOver u t (more ++ writes) ∧ reads more ∧ y.stage = .output ∧ y.start = after ∧
          y.position = first + sp.frames ∧ y.handed = 1 ∧
          y.decode = some { voice := none, zeros := 0, inTail := true,
                            tail := min (first + sp.frames) x.finish - after - 1 } ∧
          (∀ b ∈ writes, b.who = .render ∧ ∃ ended, b.purpose = .renderWrite 0 ended) ∧
          (writes.filterMap fun b => match b.action with
            | .write bytes => some bytes
            | .read _ => none).flatten = List.replicate 240 0#8 ∧
          t = { u with engine := t.engine, render := some y })

/-- RENDER_OPERATION (2.10, 2.11, 8.3, 8.4, 8.5, 10.4): with share left in the frame and the record before it taken,
the front record of the read-ahead is decoded whole, one operation, and its first frame handed over, one frame at a
time (DEDUCED, the model's choice, log 24): 240 bytes in writes that follow one another from the frame's place in the
buffer, none across a 64-byte line. A record that is the last of its span leaves zero frames for the positions behind
it, and one that passes the span's end is cut there. With the range done, or the buffer full and more to come,
TRUNCATED, nothing more is read, decoded or handed over. -/
def Obligations.RenderOperationHandsAFrame : Prop :=
  ∀ (s : State) (x : RenderContext) (place : RenderPlace) (more : List RenderPlace) (sp : Span)
      (data : List Byte),
    s.regs.part = .running ∨ s.regs.part = .quiescing → s.render = some x → x.stage = .output →
    x.decode = none → x.ahead = place :: more → place.data = some data → x.spans[place.span]? = some sp →
    0 < s.codec.renderLeft →
    let start := spanStart x.spans place.span
    let last := start + sp.frames
    let first := max x.position start
    let frames := if byteAt data 0 % 16 = 15 then max 1 (byteAt data 1) else 1
    let room := x.order.length / 240
    let codec := { s.codec with renderLeft := s.codec.renderLeft - 1 }
    let frameWrites := fun writes : List Access =>
      (∀ b ∈ writes, b.who = .render ∧ ∃ ended, b.purpose = .renderWrite x.handed ended) ∧
      (writes.filterMap fun b => match b.action with
        | .write bytes => some bytes
        | .read _ => none).flatten =
        (if byteAt data 0 % 16 = 15 then List.replicate 240 0#8
         else sampleBytes (toSamples (decodeVoice data))) ∧
      ∀ i b, writes[i]? = some b → ∃ bytes, b.action = .write bytes ∧ 1 ≤ bytes.length ∧
        b.address = (x.order.buffer + 240 * x.handed + ((writes.take i).filterMap fun e => match e.action with
          | .write l => some l.length
          | .read _ => none).sum) % 2 ^ 64 ∧
        b.address % 64 + bytes.length ≤ 64 ∧ (b.purpose = .renderWrite x.handed true ↔ i + 1 = writes.length)
    let recordReads := fun reads : List Access =>
      ∀ b ∈ reads, ∃ n i, b.purpose = .renderRecordRead n i ∧ b.action = .read 64 ∧ b.who = .render
    first < x.finish → first < last →
    (place.index + 1 < sp.count → first + frames < last → x.handed + 1 < x.total → x.handed + 1 < room →
      ∃ t y reads writes, exec .renderOperation s = .next t ∧ t.render = some y ∧
        y.handed = x.handed + 1 ∧ y.written = x.written ∧ y.position = first + frames ∧ y.stage = .output ∧
        y.decode ≠ none ∧ y.total = x.total ∧ HandedOver s t (reads ++ writes) ∧ recordReads reads ∧
        frameWrites writes ∧ t = { s with render := t.render, engine := t.engine, codec := codec }) ∧
    (sp.count ≤ place.index + 1 ∨ last ≤ first + frames → x.handed + 1 < x.total → x.handed + 1 < room →
      (∀ b ∈ s.engine.waiting ++ s.engine.flight, ∀ i, b.purpose ≠ .renderRecordRead place.span i) →
      ∃ t y reads writes, exec .renderOperation s = .next t ∧ t.render = some y ∧
        y.handed = x.handed + 1 ∧ y.written = x.written ∧ y.position = last ∧ y.stage = .output ∧
        y.decode = some {
          voice := none, zeros := min (min (first + frames) last) x.finish - first - 1,
          tail := min last x.finish - (first + frames), inTail := false } ∧
        y.total = x.total ∧ HandedOver s t (reads ++ writes) ∧ recordReads reads ∧ frameWrites writes ∧
        t = { s with render := t.render, engine := t.engine, codec := codec }) ∧
    (x.handed + 1 = x.total ∨ x.handed + 1 = room →
      ∃ t y front writes, exec .renderOperation s = .next t ∧ t.render = some y ∧ y.stage = .draining ∧
        y.handed = x.handed + 1 ∧ y.written = x.written ∧ y.truncated = decide (x.handed + 1 ≠ x.total) ∧
        y.decode = none ∧ y.ahead = [] ∧ t.engine.waiting = front ++ writes ∧ frameWrites writes ∧
        (∀ b ∈ t.engine.waiting ++ t.engine.flight, ∀ n i, b.purpose ≠ .renderRecordRead n i) ∧
        t = { s with render := t.render, engine := t.engine, codec := codec })

/-- RENDER_BUFFER_WRITE_COMPLETE, RENDER_BUFFER_WRITE_FAILED, RENDER_DRAIN_COMPLETE, ACCESS_GRANT (8.4, 8.5, 2.11):
the grant of a frame's last write hands the record's next frame over (DEDUCED, the model's choice, log 24), or leaves
the decode state empty, a stopped render then draining; the range done, or the buffer full and more to come,
TRUNCATED, the render drains; a frame whose last write is done counts as written unless it or a lower one has failed;
a failed write drains the render, and the bytes of that write read as no value, but for those that a later-granted
write, complete or in flight, has put there (the model's choice, log 7); a drained render is answered with the frames
and bytes written and leaves the queue. -/
def Obligations.RenderWritesCountAndEnd : Prop :=
  (∀ (s t : State) (a : Access) (frame : Nat) (x : RenderContext) (d : Decode),
    exec .accessGrant s = .next t → t.engine.flight.length = s.engine.flight.length + 1 →
    t.engine.flight.getLast? = some a → a.purpose = .renderWrite frame true → s.render = some x →
    x.stage = .output → x.decode = some d →
    let left := fun e : Decode => (if e.voice.isSome then 1 else 0) + e.zeros + e.tail
    let room := x.order.length / 240
    (left d = 0 → x.stop = false → t.render = some { x with decode := none }) ∧
    (left d = 0 → x.stop = true → ∃ y, t.render = some y ∧ y.stage = .draining ∧ y.handed = x.handed ∧
      y.truncated = false ∧ y.decode = none) ∧
    (0 < left d → x.handed + 1 < x.total → x.handed + 1 < room →
      ∃ e, t.render = some { x with decode := some e, handed := x.handed + 1 } ∧ left e + 1 = left d) ∧
    (0 < left d → x.handed + 1 = x.total ∨ x.handed + 1 = room →
      ∃ y, t.render = some y ∧ y.stage = .draining ∧ y.handed = x.handed + 1 ∧ y.written = x.written ∧
        y.truncated = decide (x.handed + 1 ≠ x.total) ∧ y.decode = none ∧ y.ahead = [])) ∧
  (∀ (s : State) (a : Access) (rest : List Access) (x : RenderContext) (frame : Nat) (last : Bool),
    Due s .render a rest → a.purpose = .renderWrite frame last → s.render = some x →
    let u := s.landed rest
    (last = true → (∀ n, x.failed = some n → frame < n) →
      exec .renderBufferWriteComplete s = .next { u with render := some { x with written := frame + 1 } }) ∧
    (last = false ∨ (∃ n, x.failed = some n ∧ n ≤ frame) → exec .renderBufferWriteComplete s = .next u) ∧
    ∃ t y, exec .renderBufferWriteFailed s = .next t ∧ t.render = some y ∧
      y.failed = some (match x.failed with | some n => min n frame | none => frame) ∧
      y.stage = .draining ∧ y.ahead = [] ∧ y.decode = none ∧ y.handed = x.handed ∧ y.written = x.written ∧
      y.stop = x.stop ∧ y.truncated = x.truncated ∧ t.regs = s.regs ∧
      (∀ before after, s.engine.flight = before ++ a :: after →
        (∀ b ∈ before, b.who = .render → b.purpose.quiet = true) →
        let stands := fun address => a.settledAt address = true ∨ ∃ b ∈ after, b.covers address
        (∀ address, a.covers address → ¬ stands address → Memory.read t.written address = none) ∧
        (∀ address, ¬ a.covers address ∨ stands address →
          Memory.read t.written address = Memory.read s.written address)) ∧
      t = { u with render := t.render, engine := t.engine, written := t.written }) ∧
  ∀ (s : State) (x : RenderContext), s.regs.part = .running ∨ s.regs.part = .quiescing → s.render = some x →
    x.stage = .draining →
    (∀ b ∈ s.engine.waiting ++ s.engine.flight, ∀ frame last, b.purpose ≠ .renderWrite frame last) →
    let code := if x.stop then 2 else if x.failed.isSome then 5 else if x.truncated then 1 else 0
    ∃ t, exec .renderDrainComplete s = .next t ∧ t.render = none ∧
      t.orders.renders = s.orders.renders.tail ∧ t.orders.accepted = s.orders.accepted.set x.slot none ∧
      t.orders.finishCounter = s.orders.finishCounter + 1#32 ∧
      HandedOver s t [writeOf .orderUnit (.finishResult x.slot)
        ((s.base + (0x800 + 64 * x.slot.val + 0x30)) % 2 ^ 64)
        (bytesOf 4 code ++ bytesOf 4 x.written ++ bytesOf 4 (x.written * 240) ++
          bytesOf 4 (s.orders.finishCounter + 1#32).toNat)] ∧
      t = { s with render := none, orders := t.orders, engine := t.engine }

/-! ### The desk block -/

/-- DESK_WRITE_BEGIN, DESK_OPENING_WRITTEN, DESK_BODY_WRITTEN (9.2, 9.3, 12.2): the generation rises by one modulo
2^32 and every figure is sampled at that moment, the header's, the filing roll's oldest first with zero entries behind
it, and every channel's; the opening generation is written, then lines 1 to 10, then line 0 with both generations. -/
def Obligations.DeskWriteSamplesAndWrites : Prop :=
  (∀ s : State, s.regs.part = .starting ∨ s.regs.part = .running ∨ s.regs.part = .quiescing →
    s.desk.requested = true → s.desk.writing = false →
    let g := s.desk.generation + 1#32
    ∃ t lines, exec .deskWriteBegin s = .next t ∧
      t = { s with
        engine := t.engine,
        desk := { s.desk with
          generation := g, writing := true, requested := false, changed := false, finishes := 0#32,
          filings := 0#32, lines := lines, finalRunning := s.desk.finalAsked } } ∧
      HandedOver s t [writeOf .deskUnit .deskOpening ((s.base + 0x100) % 2 ^ 64) (bytesOf 4 g.toNat)] ∧
      (∃ head, lines.head? = some head ∧ fieldAt head 0 4 = g.toNat ∧ fieldAt head 60 4 = g.toNat ∧
        byteAt head 4 = (match s.regs.part with
          | .disabled => 0 | .starting => 1 | .running => 2 | .quiescing => 3 | .faulted => 4) ∧
        byteAt head 5 = (if s.sheets.hold then 1 else 0) ∧
        byteAt head 6 = s.sheets.stack.length % 2 ^ 8 ∧ byteAt head 7 = s.cards.roll.length % 2 ^ 8 ∧
        fieldAt head 8 4 = s.sheets.tally % 2 ^ 32 ∧ fieldAt head 12 4 = s.orders.finishedCount.toNat ∧
        fieldAt head 16 4 = s.cards.sequence % 2 ^ 32 ∧ ∀ i, 20 ≤ i → i < 60 → byteAt head i = 0) ∧
      (s.cards.roll.length ≤ 16 → lines.length = 11 ∧ (∀ l ∈ lines, l.length = 64) ∧
        (∀ i, i < 16 → ∃ line, lines[1 + i / 8]? = some line ∧
          (∀ e, s.cards.roll[i]? = some e → fieldAt line (8 * (i % 8)) 2 = e.card % 2 ^ 16 ∧
            byteAt line (8 * (i % 8) + 2) = (match e.priority with | .routine => 0 | .urgent => 1) ∧
            byteAt line (8 * (i % 8) + 3) = 0 ∧
            fieldAt line (8 * (i % 8) + 4) 4 = e.sequence % 2 ^ 32) ∧
          (s.cards.roll.length ≤ i → ∀ j, j < 8 → byteAt line (8 * (i % 8) + j) = 0)) ∧
        ∀ c : Chan, ∃ line, lines[3 + c.val / 4]? = some line ∧
          let x := (s.row c).ctx
          let o := 16 * (c.val % 4)
          byteAt line o = (match x.state with
            | .unbound => 0 | .idle => 1 | .ready => 2 | .recording => 3 | .playing => 4 | .busy _ => 5) ∧
          byteAt line (o + 1) = (match x.state with
            | .busy .saving => 1 | .busy .filing => 2 | .busy .loading => 3 | .busy .closing => 4
            | _ => 0) ∧
          byteAt line (o + 2) = (match x.inSlot.bind fun k => s.inputs[k].line with
            | none => 0 | some .down => 1 | some .settling => 2 | some .up => 3) ∧
          byteAt line (o + 3) = flagBits x ∧ byteAt line (o + 4) = noticeShown x % 2 ^ 8 ∧
          byteAt line (o + 5) = 0 ∧
          fieldAt line (o + 6) 2 = (match x.letter with | none => 0xFFFF | some l => l.card % 2 ^ 16) ∧
          fieldAt line (o + 8) 4 = (if x.letter = none then 0 else x.cursor % 2 ^ 32) ∧
          fieldAt line (o + 12) 4 = (if x.letter = none then 0 else (s.row c).length % 2 ^ 32))) ∧
  ∀ (s : State) (a : Access) (rest : List Access), Due s .deskUnit a rest →
    (a.purpose = .deskOpening → ∃ t, exec .deskOpeningWritten s = .next t ∧
      HandedOver (s.landed rest) t ((List.range 10).map fun i => writeOf .deskUnit (.deskBody (i == 9))
        ((s.base + (0x100 + 64 * (i + 1))) % 2 ^ 64) (s.desk.lines.getD (i + 1) [])) ∧
      t = { s.landed rest with engine := t.engine }) ∧
    (a.purpose = .deskBody true → ∃ t, exec .deskBodyWritten s = .next t ∧
      HandedOver (s.landed rest) t [writeOf .deskUnit .deskHeader ((s.base + (0x100 + 64 * 0)) % 2 ^ 64)
        (s.desk.lines.headD [])] ∧
      t = { s.landed rest with engine := t.engine })

/-- DESK_WRITE_COMPLETE, QUIESCE_WORK_DONE (9.3 to 9.5, 11.2, 11.3, 11.4, 4.3, 4.7, 10.2): the latest generation
takes the new one, an armed part with INT_ENABLE set raises one MSI and is disarmed, write again asks for a further
write; the start sweep's write ends in RUNNING, the pacing count 0, the hold told from the total and a claim scan
started, or, with ENABLE clear, in QUIESCING; the final write of quiesce ends in DISABLED, or, with ENABLE set, in
STARTING; quiesce asks for its final write once its work is done: the stack returned, no order accepted, both parts
of every finishing write complete (DEDUCED, the model's choice, log 28), no render queued and every write queue
drained, a card's write-back not waited for (the model's choice, log 63). The MSI of generation 1 leaves the part
disarmed in RUNNING (DEDUCED, the model's choice, log 67). Not done, or once asked for, QUIESCE_WORK_DONE has no
effect (the model's choice, log 2). -/
def Obligations.DeskWriteCompletes : Prop :=
  (∀ (s : State) (a : Access) (rest : List Access), Due s .deskUnit a rest → a.purpose = .deskHeader →
    let raises := s.regs.intEnable && s.desk.armed
    let u := s.landed rest
    let desk := { s.desk with
      latest := s.desk.generation, writing := false, armed := s.desk.armed && !s.regs.intEnable,
      again := false, requested := s.desk.requested || s.desk.again }
    let msi := s.msi + (if raises then 1 else 0)
    (s.regs.part = .running ∨ (s.regs.part = .quiescing ∧ s.desk.finalRunning = false) →
      exec .deskWriteComplete s = .next { u with desk := desk, msi := msi }) ∧
    (s.regs.part = .starting → s.regs.enable = true →
      ∃ t, exec .deskWriteComplete s = .next t ∧ t.regs = { s.regs with part := .running } ∧
        t.sweep = { phase := .idle, kept := [], largest := 0, free := 0 } ∧ t.msi = msi ∧
        t.desk = { desk with
          pacing := 0, changed := s.desk.changed || decide (t.sheets.hold ≠ s.sheets.hold) } ∧
        (s.sheets.tally + s.sheets.stack.length < s.setup.low → t.sheets.hold = true) ∧
        (s.sheets.scan = .idle → s.sheets.stack.length < 8 → t.sheets.scan = .starting) ∧
        t = { u with
          regs := t.regs, sweep := t.sweep, sheets := t.sheets, desk := t.desk, msi := t.msi }) ∧
    (s.regs.part = .starting → s.regs.enable = false → s.orders.renders = [] →
      (∀ c : Chan, s.chanState c = .unbound) →
      (∀ b ∈ s.engine.waiting ++ rest, b.purpose ≠ .orderCardRead ∧ ∀ last, b.purpose ≠ .slotRead last) →
      exec .deskWriteComplete s = .next { u with
        regs := { s.regs with part := .quiescing },
        sweep := { phase := .idle, kept := [], largest := 0, free := 0 },
        desk := { desk with pacing := 0 }, msi := msi,
        orders := { s.orders with sweep := .idle, again := false, image := none } }) ∧
    (s.regs.part = .quiescing → s.desk.finalRunning = true →
      (s.regs.enable = false →
        ∃ t, exec .deskWriteComplete s = .next t ∧ t.regs = { s.regs with part := .disabled } ∧ t.msi = msi ∧
          t.desk = { desk with requested := false, finalAsked := false, finalRunning := false } ∧
          t = { u with regs := t.regs, desk := t.desk, msi := t.msi }) ∧
      (s.regs.enable = true →
        ∃ t, exec .deskWriteComplete s = .next t ∧ t.regs = { s.regs with part := .starting } ∧ t.msi = msi ∧
          t.base = s.regs.exchangeHi.toNat * 2 ^ 32 + s.regs.exchangeLo.toNat ∧
          t.desk = {
            generation := 0#32, latest := 0#32, writing := false, again := false, changed := false,
            finishes := 0#32, filings := 0#32, pacing := s.desk.pacing, armed := true, requested := false,
            expired := false, finalAsked := false, finalRunning := false, lines := [] } ∧
          HandedOver u t ((List.range 4).map fun line =>
            readOf .startSweep (.setupRead (line == 3)) ((t.base + 64 * line) % 2 ^ 64)) ∧
          t = { u with
            regs := t.regs, base := t.base, desk := t.desk, msi := t.msi, engine := t.engine,
            sweep := { phase := .setup, kept := [], largest := 0, free := 0 },
            orders := { s.orders with finishCounter := 0#32, finishedCount := 0#32 },
            sheets := { s.sheets with cursor := 0, tally := 0, hold := false, storageOut := false },
            cards := { s.cards with roll := [], cursor := 0 }, stackReturned := false }))) ∧
  ∀ s : State, s.regs.part = .quiescing →
    let settled := s.stackReturned = true ∧ (∀ k : OrderSlot, s.orders.accepted[k] = none) ∧
      s.orders.renders = [] ∧ ∀ c : Chan, (s.row c).queue = [] ∧
        ∀ b ∈ s.engine.waiting ++ s.engine.flight, b.who = .channel c →
          ∀ card sheet, b.purpose ≠ .headerWrite card sheet
    let answered := ∀ b ∈ s.engine.waiting ++ s.engine.flight, ∀ k, b.purpose ≠ .finishResult k ∧
      b.purpose ≠ .finishState k
    (settled → answered → s.desk.finalAsked = false →
      exec .quiesceWorkDone s = .next { s with desk := { s.desk with
        finalAsked := true,
        requested := s.desk.requested || !s.desk.writing, again := s.desk.again || s.desk.writing } }) ∧
    (¬ settled ∨ ¬ answered ∨ s.desk.finalAsked = true → exec .quiesceWorkDone s = .next s)

/-! ### The frame codec -/

/-- The frame codec (2.2 to 2.4, 2.6 to 2.10): the gained sample is the product's 64th rounded half up and saturated;
a frame whose activity is below the threshold is silent, and pause compression gives its hangover frames as voice
records, the frames after them to the pending pause, which P frames complete and a frame that is not silent flushes,
and the rest to nothing; the scale is the least whose seven steps reach the largest difference; a code is the
difference over the scale rounded half up and clamped; a voice record's 64 bytes decode to the encoder's own
reconstruction, sample by sample from the anchor; a pause record's bytes give its frame count and the LOST flag. -/
def Obligations.VoiceRecordDecodesToReconstruction : Prop :=
  (∀ (gain : Nat) (x : Int), -32768 ≤ gainSample gain x ∧ gainSample gain x ≤ 32767 ∧
    (∀ q : Int, 64 * q ≤ x * gain + 32 → x * gain + 32 < 64 * (q + 1) →
      (clipped gain x = true ↔ q < -32768 ∨ 32767 < q) ∧
      (q < -32768 → gainSample gain x = -32768) ∧ (32767 < q → gainSample gain x = 32767) ∧
      (-32768 ≤ q → q ≤ 32767 → gainSample gain x = q))) ∧
  (∀ (s : Nat) (d q : Int), 2 ^ (s + 1) * q ≤ 2 * d + 2 ^ s → 2 * d + 2 ^ s < 2 ^ (s + 1) * (q + 1) →
    codeFor s d = if q < -8 then -8 else if 7 < q then 7 else q) ∧
  (∀ (gain : Nat) (xs : List Int), xs.length = 120 →
    let ys := xs.map (gainSample gain)
    let data := (voiceRecord gain xs).bytes
    let s := scaleOf data
    data.length = 64 ∧ s ≤ 14 ∧ isPause data = false ∧ byteAt data 1 = xs.countP (clipped gain) ∧
    (∀ n a b, ys[n]? = some a → ys[n + 1]? = some b → (b - a).natAbs ≤ 7 * 2 ^ s) ∧
    (0 < s → ∃ n a b, ys[n]? = some a ∧ ys[n + 1]? = some b ∧ 7 * 2 ^ (s - 1) < (b - a).natAbs) ∧
    (decodeVoice data).length = 120 ∧ (decodeVoice data)[0]? = ys[0]? ∧
    ∀ n r y, (decodeVoice data)[n]? = some r → ys[n + 1]? = some y →
      (decodeVoice data)[n + 1]? = some (saturate (r + codeFor s (y - r) * 2 ^ s))) ∧
  (∀ (frames : Nat) (lost : Bool), 1 ≤ frames → frames ≤ 255 →
    let data := (Rec.pause frames lost).bytes
    data.length = 64 ∧ isPause data = true ∧ framesOf data = frames ∧
    recordEntryOf data = { frames := frames, kind := if lost then .lost else .pause }) ∧
  ∀ (gain T H P : Nat) (run : PauseRun) (xs : List Int),
    let voice := voiceRecord gain xs
    let A := (xs.map fun x => (gainSample gain x).natAbs).sum / 128
    let result := encodeFrame gain T H P run xs
    (T ≤ A → run.pending = 0 → result = ({ run with silent := 0 }, [voice])) ∧
    (T ≤ A → 0 < run.pending →
      result = ({ run with silent := 0, pending := 0 }, [.pause run.pending false, voice])) ∧
    (A < T → run.silent + 1 ≤ H → result = ({ run with silent := run.silent + 1 }, [voice])) ∧
    (A < T → H < run.silent + 1 → run.silent + 1 ≤ H + P → run.pending + 1 = P →
      result = ({ run with silent := run.silent + 1, pending := 0 }, [.pause P false])) ∧
    (A < T → H < run.silent + 1 → run.silent + 1 ≤ H + P → run.pending + 1 ≠ P →
      result = ({ run with silent := run.silent + 1, pending := run.pending + 1 }, [])) ∧
    (A < T → H + P < run.silent + 1 → result = ({ run with silent := H + P + 1 }, []))

/-! ### Laws that every step keeps -/

/-- Every step keeps the canonical form of host memory, of the live counts, of the record table, of the card
holdings and of the card images: keys strictly rising, no count of 0 listed (3.1, 5.2). -/
def Obligations.StepsKeepCanonicalForm : Prop :=
  ∀ s t : State, Canonical s → step s = .next t → Canonical t

/-- Every step keeps the bounds of the key queues and of the record write queues, and the agreement of
timeslot owners with the channels bound to them (1.1, 1.3, 6.1, 7.5, 10.2). -/
def Obligations.StepsKeepQueuesAndOwners : Prop :=
  ∀ s t : State, KeysBounded s → QueuesBounded s → OwnersAgree s → step s = .next t →
    KeysBounded t ∧ QueuesBounded t ∧ OwnersAgree t

/-- Every step keeps the exchange base aligned; only a reset leaves FAULTED or changes FAULT once it is set;
outside DISABLED the exchange registers change by a cold reset alone; host memory changes only by a grant,
and its bytes are otherwise only lost, to no value, by a failure or a reset (the model's choice, log 7)
(10.1, 10.5, 11.1, 11.2, 11.5). -/
def Obligations.StepsKeepFaultedAndExchangeBase : Prop :=
  ∀ (s t : State) (c : Instr), exec c s = .next t →
    (ExchangeAligned s → ExchangeAligned t) ∧
    (s.regs.part = .faulted → Instr.isReset c = false →
      t.regs.part = .faulted ∧ t.regs.fault = s.regs.fault ∧ t.msi = s.msi) ∧
    (s.regs.part ≠ .disabled → c ≠ .coldReset →
      t.regs.exchangeLo = s.regs.exchangeLo ∧ t.regs.exchangeHi = s.regs.exchangeHi) ∧
    (c ≠ .accessGrant → ∀ n, Memory.read t.written n = Memory.read s.written n ∨
      (Memory.read t.written n = none ∧ (Instr.isReset c = true ∨ (∃ who place, c = .accessFailure who place) ∨
        c = .renderBufferWriteFailed)))
end

