-- ==== Sys2Proof/Laws/State.lean ====
section
/-! SUPPORT. One lemma per field per update of the state, true by definition, so that no proof unfolds a
record update. -/

namespace Sys2Proof.Machine

open Sys2Proof

variable {s t : State} {c d : Chan} {r : ChanRow}

/-! ### Rows -/

@[simp] theorem row_setRow_self : (s.setRow c r).row c = r := by
  simp [State.row, State.setRow]

theorem row_setRow_ne (h : d ≠ c) : (s.setRow c r).row d = s.row d := by
  have h' : (c : Nat) ≠ d := fun e => h (Fin.ext e.symm)
  simp [State.row, State.setRow, h']

theorem row_setRow : (s.setRow c r).row d = if d = c then r else s.row d := by
  split
  · subst d; simp
  · exact row_setRow_ne ‹_›

@[simp] theorem row_modRow_self {f : ChanRow → ChanRow} : (s.modRow c f).row c = f (s.row c) := by
  simp [State.modRow]

theorem row_modRow {f : ChanRow → ChanRow} :
    (s.modRow c f).row d = if d = c then f (s.row c) else s.row d := by
  simp [State.modRow, row_setRow]

theorem row_modRow_ne {f : ChanRow → ChanRow} (h : d ≠ c) : (s.modRow c f).row d = s.row d := by
  simp [row_modRow, h]

@[simp] theorem row_modCtx_self {f : Context → Context} :
    (s.modCtx c f).row c = { s.row c with ctx := f (s.row c).ctx } := by
  simp [State.modCtx]

theorem row_modCtx_ne {f : Context → Context} (h : d ≠ c) : (s.modCtx c f).row d = s.row d :=
  row_modRow_ne h

@[simp] theorem setRow_setRow {r' : ChanRow} : (s.setRow c r).setRow c r' = s.setRow c r' := by
  simp [State.setRow]

/-! ### The fields setRow leaves -/

@[simp] theorem setRow_pending : (s.setRow c r).pending = s.pending := rfl
@[simp] theorem setRow_regs : (s.setRow c r).regs = s.regs := rfl
@[simp] theorem setRow_setup : (s.setRow c r).setup = s.setup := rfl
@[simp] theorem setRow_base : (s.setRow c r).base = s.base := rfl
@[simp] theorem setRow_sweep : (s.setRow c r).sweep = s.sweep := rfl
@[simp] theorem setRow_inputs : (s.setRow c r).inputs = s.inputs := rfl
@[simp] theorem setRow_outputs : (s.setRow c r).outputs = s.outputs := rfl
@[simp] theorem setRow_codec : (s.setRow c r).codec = s.codec := rfl
@[simp] theorem setRow_letters : (s.setRow c r).letters = s.letters := rfl
@[simp] theorem setRow_sheets : (s.setRow c r).sheets = s.sheets := rfl
@[simp] theorem setRow_cards : (s.setRow c r).cards = s.cards := rfl
@[simp] theorem setRow_orders : (s.setRow c r).orders = s.orders := rfl
@[simp] theorem setRow_render : (s.setRow c r).render = s.render := rfl
@[simp] theorem setRow_desk : (s.setRow c r).desk = s.desk := rfl
@[simp] theorem setRow_engine : (s.setRow c r).engine = s.engine := rfl
@[simp] theorem setRow_stackReturned : (s.setRow c r).stackReturned = s.stackReturned := rfl
@[simp] theorem setRow_written : (s.setRow c r).written = s.written := rfl
@[simp] theorem setRow_msi : (s.setRow c r).msi = s.msi := rfl

/-! ### The fields modRow leaves -/

@[simp] theorem modRow_pending {f : ChanRow → ChanRow} : (s.modRow c f).pending = s.pending := rfl
@[simp] theorem modRow_regs {f : ChanRow → ChanRow} : (s.modRow c f).regs = s.regs := rfl
@[simp] theorem modRow_setup {f : ChanRow → ChanRow} : (s.modRow c f).setup = s.setup := rfl
@[simp] theorem modRow_base {f : ChanRow → ChanRow} : (s.modRow c f).base = s.base := rfl
@[simp] theorem modRow_sweep {f : ChanRow → ChanRow} : (s.modRow c f).sweep = s.sweep := rfl
@[simp] theorem modRow_inputs {f : ChanRow → ChanRow} : (s.modRow c f).inputs = s.inputs := rfl
@[simp] theorem modRow_outputs {f : ChanRow → ChanRow} : (s.modRow c f).outputs = s.outputs := rfl
@[simp] theorem modRow_codec {f : ChanRow → ChanRow} : (s.modRow c f).codec = s.codec := rfl
@[simp] theorem modRow_letters {f : ChanRow → ChanRow} : (s.modRow c f).letters = s.letters := rfl
@[simp] theorem modRow_sheets {f : ChanRow → ChanRow} : (s.modRow c f).sheets = s.sheets := rfl
@[simp] theorem modRow_cards {f : ChanRow → ChanRow} : (s.modRow c f).cards = s.cards := rfl
@[simp] theorem modRow_orders {f : ChanRow → ChanRow} : (s.modRow c f).orders = s.orders := rfl
@[simp] theorem modRow_render {f : ChanRow → ChanRow} : (s.modRow c f).render = s.render := rfl
@[simp] theorem modRow_desk {f : ChanRow → ChanRow} : (s.modRow c f).desk = s.desk := rfl
@[simp] theorem modRow_engine {f : ChanRow → ChanRow} : (s.modRow c f).engine = s.engine := rfl
@[simp] theorem modRow_stackReturned {f : ChanRow → ChanRow} : (s.modRow c f).stackReturned = s.stackReturned := rfl
@[simp] theorem modRow_written {f : ChanRow → ChanRow} : (s.modRow c f).written = s.written := rfl
@[simp] theorem modRow_msi {f : ChanRow → ChanRow} : (s.modRow c f).msi = s.msi := rfl

/-! ### The fields modCtx leaves -/

@[simp] theorem modCtx_pending {g : Context → Context} : (s.modCtx c g).pending = s.pending := rfl
@[simp] theorem modCtx_regs {g : Context → Context} : (s.modCtx c g).regs = s.regs := rfl
@[simp] theorem modCtx_setup {g : Context → Context} : (s.modCtx c g).setup = s.setup := rfl
@[simp] theorem modCtx_base {g : Context → Context} : (s.modCtx c g).base = s.base := rfl
@[simp] theorem modCtx_sweep {g : Context → Context} : (s.modCtx c g).sweep = s.sweep := rfl
@[simp] theorem modCtx_inputs {g : Context → Context} : (s.modCtx c g).inputs = s.inputs := rfl
@[simp] theorem modCtx_outputs {g : Context → Context} : (s.modCtx c g).outputs = s.outputs := rfl
@[simp] theorem modCtx_codec {g : Context → Context} : (s.modCtx c g).codec = s.codec := rfl
@[simp] theorem modCtx_letters {g : Context → Context} : (s.modCtx c g).letters = s.letters := rfl
@[simp] theorem modCtx_sheets {g : Context → Context} : (s.modCtx c g).sheets = s.sheets := rfl
@[simp] theorem modCtx_cards {g : Context → Context} : (s.modCtx c g).cards = s.cards := rfl
@[simp] theorem modCtx_orders {g : Context → Context} : (s.modCtx c g).orders = s.orders := rfl
@[simp] theorem modCtx_render {g : Context → Context} : (s.modCtx c g).render = s.render := rfl
@[simp] theorem modCtx_desk {g : Context → Context} : (s.modCtx c g).desk = s.desk := rfl
@[simp] theorem modCtx_engine {g : Context → Context} : (s.modCtx c g).engine = s.engine := rfl
@[simp] theorem modCtx_stackReturned {g : Context → Context} : (s.modCtx c g).stackReturned = s.stackReturned := rfl
@[simp] theorem modCtx_written {g : Context → Context} : (s.modCtx c g).written = s.written := rfl
@[simp] theorem modCtx_msi {g : Context → Context} : (s.modCtx c g).msi = s.msi := rfl

/-! ### The fields setChanState leaves -/

@[simp] theorem setChanState_pending {st : ChanState} : (s.setChanState c st).pending = s.pending := rfl
@[simp] theorem setChanState_regs {st : ChanState} : (s.setChanState c st).regs = s.regs := rfl
@[simp] theorem setChanState_setup {st : ChanState} : (s.setChanState c st).setup = s.setup := rfl
@[simp] theorem setChanState_base {st : ChanState} : (s.setChanState c st).base = s.base := rfl
@[simp] theorem setChanState_sweep {st : ChanState} : (s.setChanState c st).sweep = s.sweep := rfl
@[simp] theorem setChanState_inputs {st : ChanState} : (s.setChanState c st).inputs = s.inputs := rfl
@[simp] theorem setChanState_outputs {st : ChanState} : (s.setChanState c st).outputs = s.outputs := rfl
@[simp] theorem setChanState_codec {st : ChanState} : (s.setChanState c st).codec = s.codec := rfl
@[simp] theorem setChanState_letters {st : ChanState} : (s.setChanState c st).letters = s.letters := rfl
@[simp] theorem setChanState_sheets {st : ChanState} : (s.setChanState c st).sheets = s.sheets := rfl
@[simp] theorem setChanState_cards {st : ChanState} : (s.setChanState c st).cards = s.cards := rfl
@[simp] theorem setChanState_orders {st : ChanState} : (s.setChanState c st).orders = s.orders := rfl
@[simp] theorem setChanState_render {st : ChanState} : (s.setChanState c st).render = s.render := rfl
@[simp] theorem setChanState_desk {st : ChanState} : (s.setChanState c st).desk = s.desk := rfl
@[simp] theorem setChanState_engine {st : ChanState} : (s.setChanState c st).engine = s.engine := rfl
@[simp] theorem setChanState_stackReturned {st : ChanState} : (s.setChanState c st).stackReturned = s.stackReturned := rfl
@[simp] theorem setChanState_written {st : ChanState} : (s.setChanState c st).written = s.written := rfl
@[simp] theorem setChanState_msi {st : ChanState} : (s.setChanState c st).msi = s.msi := rfl

/-! ### The fields setOp leaves -/

@[simp] theorem setOp_pending {op : Option CardOp} : (s.setOp c op).pending = s.pending := rfl
@[simp] theorem setOp_regs {op : Option CardOp} : (s.setOp c op).regs = s.regs := rfl
@[simp] theorem setOp_setup {op : Option CardOp} : (s.setOp c op).setup = s.setup := rfl
@[simp] theorem setOp_base {op : Option CardOp} : (s.setOp c op).base = s.base := rfl
@[simp] theorem setOp_sweep {op : Option CardOp} : (s.setOp c op).sweep = s.sweep := rfl
@[simp] theorem setOp_inputs {op : Option CardOp} : (s.setOp c op).inputs = s.inputs := rfl
@[simp] theorem setOp_outputs {op : Option CardOp} : (s.setOp c op).outputs = s.outputs := rfl
@[simp] theorem setOp_codec {op : Option CardOp} : (s.setOp c op).codec = s.codec := rfl
@[simp] theorem setOp_letters {op : Option CardOp} : (s.setOp c op).letters = s.letters := rfl
@[simp] theorem setOp_sheets {op : Option CardOp} : (s.setOp c op).sheets = s.sheets := rfl
@[simp] theorem setOp_cards {op : Option CardOp} : (s.setOp c op).cards = s.cards := rfl
@[simp] theorem setOp_orders {op : Option CardOp} : (s.setOp c op).orders = s.orders := rfl
@[simp] theorem setOp_render {op : Option CardOp} : (s.setOp c op).render = s.render := rfl
@[simp] theorem setOp_desk {op : Option CardOp} : (s.setOp c op).desk = s.desk := rfl
@[simp] theorem setOp_engine {op : Option CardOp} : (s.setOp c op).engine = s.engine := rfl
@[simp] theorem setOp_stackReturned {op : Option CardOp} : (s.setOp c op).stackReturned = s.stackReturned := rfl
@[simp] theorem setOp_written {op : Option CardOp} : (s.setOp c op).written = s.written := rfl
@[simp] theorem setOp_msi {op : Option CardOp} : (s.setOp c op).msi = s.msi := rfl

/-! ### The fields raise leaves -/

@[simp] theorem raise_pending {n : Notice} : (s.raise c n).pending = s.pending := rfl
@[simp] theorem raise_regs {n : Notice} : (s.raise c n).regs = s.regs := rfl
@[simp] theorem raise_setup {n : Notice} : (s.raise c n).setup = s.setup := rfl
@[simp] theorem raise_base {n : Notice} : (s.raise c n).base = s.base := rfl
@[simp] theorem raise_sweep {n : Notice} : (s.raise c n).sweep = s.sweep := rfl
@[simp] theorem raise_inputs {n : Notice} : (s.raise c n).inputs = s.inputs := rfl
@[simp] theorem raise_outputs {n : Notice} : (s.raise c n).outputs = s.outputs := rfl
@[simp] theorem raise_codec {n : Notice} : (s.raise c n).codec = s.codec := rfl
@[simp] theorem raise_letters {n : Notice} : (s.raise c n).letters = s.letters := rfl
@[simp] theorem raise_sheets {n : Notice} : (s.raise c n).sheets = s.sheets := rfl
@[simp] theorem raise_cards {n : Notice} : (s.raise c n).cards = s.cards := rfl
@[simp] theorem raise_orders {n : Notice} : (s.raise c n).orders = s.orders := rfl
@[simp] theorem raise_render {n : Notice} : (s.raise c n).render = s.render := rfl
@[simp] theorem raise_desk {n : Notice} : (s.raise c n).desk = s.desk := rfl
@[simp] theorem raise_engine {n : Notice} : (s.raise c n).engine = s.engine := rfl
@[simp] theorem raise_stackReturned {n : Notice} : (s.raise c n).stackReturned = s.stackReturned := rfl
@[simp] theorem raise_written {n : Notice} : (s.raise c n).written = s.written := rfl
@[simp] theorem raise_msi {n : Notice} : (s.raise c n).msi = s.msi := rfl

/-! ### The fields handOver leaves -/

@[simp] theorem handOver_pending {a : Access} : (s.handOver a).pending = s.pending := rfl
@[simp] theorem handOver_regs {a : Access} : (s.handOver a).regs = s.regs := rfl
@[simp] theorem handOver_setup {a : Access} : (s.handOver a).setup = s.setup := rfl
@[simp] theorem handOver_base {a : Access} : (s.handOver a).base = s.base := rfl
@[simp] theorem handOver_sweep {a : Access} : (s.handOver a).sweep = s.sweep := rfl
@[simp] theorem handOver_inputs {a : Access} : (s.handOver a).inputs = s.inputs := rfl
@[simp] theorem handOver_outputs {a : Access} : (s.handOver a).outputs = s.outputs := rfl
@[simp] theorem handOver_codec {a : Access} : (s.handOver a).codec = s.codec := rfl
@[simp] theorem handOver_letters {a : Access} : (s.handOver a).letters = s.letters := rfl
@[simp] theorem handOver_sheets {a : Access} : (s.handOver a).sheets = s.sheets := rfl
@[simp] theorem handOver_cards {a : Access} : (s.handOver a).cards = s.cards := rfl
@[simp] theorem handOver_orders {a : Access} : (s.handOver a).orders = s.orders := rfl
@[simp] theorem handOver_render {a : Access} : (s.handOver a).render = s.render := rfl
@[simp] theorem handOver_desk {a : Access} : (s.handOver a).desk = s.desk := rfl
@[simp] theorem handOver_stackReturned {a : Access} : (s.handOver a).stackReturned = s.stackReturned := rfl
@[simp] theorem handOver_written {a : Access} : (s.handOver a).written = s.written := rfl
@[simp] theorem handOver_msi {a : Access} : (s.handOver a).msi = s.msi := rfl
@[simp] theorem handOver_chans {a : Access} : (s.handOver a).chans = s.chans := rfl
@[simp] theorem handOver_row {a : Access} : (s.handOver a).row d = s.row d := rfl

/-! ### The fields sendRead leaves -/

@[simp] theorem sendRead_pending {who : Requester} {p : Purpose} {n : Nat} : (s.sendRead who p n).pending = s.pending := rfl
@[simp] theorem sendRead_regs {who : Requester} {p : Purpose} {n : Nat} : (s.sendRead who p n).regs = s.regs := rfl
@[simp] theorem sendRead_setup {who : Requester} {p : Purpose} {n : Nat} : (s.sendRead who p n).setup = s.setup := rfl
@[simp] theorem sendRead_base {who : Requester} {p : Purpose} {n : Nat} : (s.sendRead who p n).base = s.base := rfl
@[simp] theorem sendRead_sweep {who : Requester} {p : Purpose} {n : Nat} : (s.sendRead who p n).sweep = s.sweep := rfl
@[simp] theorem sendRead_inputs {who : Requester} {p : Purpose} {n : Nat} : (s.sendRead who p n).inputs = s.inputs := rfl
@[simp] theorem sendRead_outputs {who : Requester} {p : Purpose} {n : Nat} : (s.sendRead who p n).outputs = s.outputs := rfl
@[simp] theorem sendRead_codec {who : Requester} {p : Purpose} {n : Nat} : (s.sendRead who p n).codec = s.codec := rfl
@[simp] theorem sendRead_letters {who : Requester} {p : Purpose} {n : Nat} : (s.sendRead who p n).letters = s.letters := rfl
@[simp] theorem sendRead_sheets {who : Requester} {p : Purpose} {n : Nat} : (s.sendRead who p n).sheets = s.sheets := rfl
@[simp] theorem sendRead_cards {who : Requester} {p : Purpose} {n : Nat} : (s.sendRead who p n).cards = s.cards := rfl
@[simp] theorem sendRead_orders {who : Requester} {p : Purpose} {n : Nat} : (s.sendRead who p n).orders = s.orders := rfl
@[simp] theorem sendRead_render {who : Requester} {p : Purpose} {n : Nat} : (s.sendRead who p n).render = s.render := rfl
@[simp] theorem sendRead_desk {who : Requester} {p : Purpose} {n : Nat} : (s.sendRead who p n).desk = s.desk := rfl
@[simp] theorem sendRead_stackReturned {who : Requester} {p : Purpose} {n : Nat} : (s.sendRead who p n).stackReturned = s.stackReturned := rfl
@[simp] theorem sendRead_written {who : Requester} {p : Purpose} {n : Nat} : (s.sendRead who p n).written = s.written := rfl
@[simp] theorem sendRead_msi {who : Requester} {p : Purpose} {n : Nat} : (s.sendRead who p n).msi = s.msi := rfl
@[simp] theorem sendRead_chans {who : Requester} {p : Purpose} {n : Nat} : (s.sendRead who p n).chans = s.chans := rfl
@[simp] theorem sendRead_row {who : Requester} {p : Purpose} {n : Nat} : (s.sendRead who p n).row d = s.row d := rfl

/-! ### The fields sendWrite leaves -/

@[simp] theorem sendWrite_pending {who : Requester} {p : Purpose} {n : Nat} {b : List Byte} : (s.sendWrite who p n b).pending = s.pending := rfl
@[simp] theorem sendWrite_regs {who : Requester} {p : Purpose} {n : Nat} {b : List Byte} : (s.sendWrite who p n b).regs = s.regs := rfl
@[simp] theorem sendWrite_setup {who : Requester} {p : Purpose} {n : Nat} {b : List Byte} : (s.sendWrite who p n b).setup = s.setup := rfl
@[simp] theorem sendWrite_base {who : Requester} {p : Purpose} {n : Nat} {b : List Byte} : (s.sendWrite who p n b).base = s.base := rfl
@[simp] theorem sendWrite_sweep {who : Requester} {p : Purpose} {n : Nat} {b : List Byte} : (s.sendWrite who p n b).sweep = s.sweep := rfl
@[simp] theorem sendWrite_inputs {who : Requester} {p : Purpose} {n : Nat} {b : List Byte} : (s.sendWrite who p n b).inputs = s.inputs := rfl
@[simp] theorem sendWrite_outputs {who : Requester} {p : Purpose} {n : Nat} {b : List Byte} : (s.sendWrite who p n b).outputs = s.outputs := rfl
@[simp] theorem sendWrite_codec {who : Requester} {p : Purpose} {n : Nat} {b : List Byte} : (s.sendWrite who p n b).codec = s.codec := rfl
@[simp] theorem sendWrite_letters {who : Requester} {p : Purpose} {n : Nat} {b : List Byte} : (s.sendWrite who p n b).letters = s.letters := rfl
@[simp] theorem sendWrite_sheets {who : Requester} {p : Purpose} {n : Nat} {b : List Byte} : (s.sendWrite who p n b).sheets = s.sheets := rfl
@[simp] theorem sendWrite_cards {who : Requester} {p : Purpose} {n : Nat} {b : List Byte} : (s.sendWrite who p n b).cards = s.cards := rfl
@[simp] theorem sendWrite_orders {who : Requester} {p : Purpose} {n : Nat} {b : List Byte} : (s.sendWrite who p n b).orders = s.orders := rfl
@[simp] theorem sendWrite_render {who : Requester} {p : Purpose} {n : Nat} {b : List Byte} : (s.sendWrite who p n b).render = s.render := rfl
@[simp] theorem sendWrite_desk {who : Requester} {p : Purpose} {n : Nat} {b : List Byte} : (s.sendWrite who p n b).desk = s.desk := rfl
@[simp] theorem sendWrite_stackReturned {who : Requester} {p : Purpose} {n : Nat} {b : List Byte} : (s.sendWrite who p n b).stackReturned = s.stackReturned := rfl
@[simp] theorem sendWrite_written {who : Requester} {p : Purpose} {n : Nat} {b : List Byte} : (s.sendWrite who p n b).written = s.written := rfl
@[simp] theorem sendWrite_msi {who : Requester} {p : Purpose} {n : Nat} {b : List Byte} : (s.sendWrite who p n b).msi = s.msi := rfl
@[simp] theorem sendWrite_chans {who : Requester} {p : Purpose} {n : Nat} {b : List Byte} : (s.sendWrite who p n b).chans = s.chans := rfl
@[simp] theorem sendWrite_row {who : Requester} {p : Purpose} {n : Nat} {b : List Byte} : (s.sendWrite who p n b).row d = s.row d := rfl

/-! ### The fields sendMapEntry leaves -/

@[simp] theorem sendMapEntry_pending {who : Requester} {p : Purpose} {n n1 n2 : Nat} : (s.sendMapEntry who p n n1 n2).pending = s.pending := rfl
@[simp] theorem sendMapEntry_regs {who : Requester} {p : Purpose} {n n1 n2 : Nat} : (s.sendMapEntry who p n n1 n2).regs = s.regs := rfl
@[simp] theorem sendMapEntry_setup {who : Requester} {p : Purpose} {n n1 n2 : Nat} : (s.sendMapEntry who p n n1 n2).setup = s.setup := rfl
@[simp] theorem sendMapEntry_base {who : Requester} {p : Purpose} {n n1 n2 : Nat} : (s.sendMapEntry who p n n1 n2).base = s.base := rfl
@[simp] theorem sendMapEntry_sweep {who : Requester} {p : Purpose} {n n1 n2 : Nat} : (s.sendMapEntry who p n n1 n2).sweep = s.sweep := rfl
@[simp] theorem sendMapEntry_inputs {who : Requester} {p : Purpose} {n n1 n2 : Nat} : (s.sendMapEntry who p n n1 n2).inputs = s.inputs := rfl
@[simp] theorem sendMapEntry_outputs {who : Requester} {p : Purpose} {n n1 n2 : Nat} : (s.sendMapEntry who p n n1 n2).outputs = s.outputs := rfl
@[simp] theorem sendMapEntry_codec {who : Requester} {p : Purpose} {n n1 n2 : Nat} : (s.sendMapEntry who p n n1 n2).codec = s.codec := rfl
@[simp] theorem sendMapEntry_letters {who : Requester} {p : Purpose} {n n1 n2 : Nat} : (s.sendMapEntry who p n n1 n2).letters = s.letters := rfl
@[simp] theorem sendMapEntry_sheets {who : Requester} {p : Purpose} {n n1 n2 : Nat} : (s.sendMapEntry who p n n1 n2).sheets = s.sheets := rfl
@[simp] theorem sendMapEntry_cards {who : Requester} {p : Purpose} {n n1 n2 : Nat} : (s.sendMapEntry who p n n1 n2).cards = s.cards := rfl
@[simp] theorem sendMapEntry_orders {who : Requester} {p : Purpose} {n n1 n2 : Nat} : (s.sendMapEntry who p n n1 n2).orders = s.orders := rfl
@[simp] theorem sendMapEntry_render {who : Requester} {p : Purpose} {n n1 n2 : Nat} : (s.sendMapEntry who p n n1 n2).render = s.render := rfl
@[simp] theorem sendMapEntry_desk {who : Requester} {p : Purpose} {n n1 n2 : Nat} : (s.sendMapEntry who p n n1 n2).desk = s.desk := rfl
@[simp] theorem sendMapEntry_stackReturned {who : Requester} {p : Purpose} {n n1 n2 : Nat} : (s.sendMapEntry who p n n1 n2).stackReturned = s.stackReturned := rfl
@[simp] theorem sendMapEntry_written {who : Requester} {p : Purpose} {n n1 n2 : Nat} : (s.sendMapEntry who p n n1 n2).written = s.written := rfl
@[simp] theorem sendMapEntry_msi {who : Requester} {p : Purpose} {n n1 n2 : Nat} : (s.sendMapEntry who p n n1 n2).msi = s.msi := rfl
@[simp] theorem sendMapEntry_chans {who : Requester} {p : Purpose} {n n1 n2 : Nat} : (s.sendMapEntry who p n n1 n2).chans = s.chans := rfl
@[simp] theorem sendMapEntry_row {who : Requester} {p : Purpose} {n n1 n2 : Nat} : (s.sendMapEntry who p n n1 n2).row d = s.row d := rfl

/-! ### The fields setImage leaves -/

@[simp] theorem setImage_pending {n : Nat} {k : Card} : (s.setImage n k).pending = s.pending := rfl
@[simp] theorem setImage_regs {n : Nat} {k : Card} : (s.setImage n k).regs = s.regs := rfl
@[simp] theorem setImage_setup {n : Nat} {k : Card} : (s.setImage n k).setup = s.setup := rfl
@[simp] theorem setImage_base {n : Nat} {k : Card} : (s.setImage n k).base = s.base := rfl
@[simp] theorem setImage_sweep {n : Nat} {k : Card} : (s.setImage n k).sweep = s.sweep := rfl
@[simp] theorem setImage_inputs {n : Nat} {k : Card} : (s.setImage n k).inputs = s.inputs := rfl
@[simp] theorem setImage_outputs {n : Nat} {k : Card} : (s.setImage n k).outputs = s.outputs := rfl
@[simp] theorem setImage_codec {n : Nat} {k : Card} : (s.setImage n k).codec = s.codec := rfl
@[simp] theorem setImage_letters {n : Nat} {k : Card} : (s.setImage n k).letters = s.letters := rfl
@[simp] theorem setImage_sheets {n : Nat} {k : Card} : (s.setImage n k).sheets = s.sheets := rfl
@[simp] theorem setImage_orders {n : Nat} {k : Card} : (s.setImage n k).orders = s.orders := rfl
@[simp] theorem setImage_render {n : Nat} {k : Card} : (s.setImage n k).render = s.render := rfl
@[simp] theorem setImage_desk {n : Nat} {k : Card} : (s.setImage n k).desk = s.desk := rfl
@[simp] theorem setImage_engine {n : Nat} {k : Card} : (s.setImage n k).engine = s.engine := rfl
@[simp] theorem setImage_stackReturned {n : Nat} {k : Card} : (s.setImage n k).stackReturned = s.stackReturned := rfl
@[simp] theorem setImage_written {n : Nat} {k : Card} : (s.setImage n k).written = s.written := rfl
@[simp] theorem setImage_msi {n : Nat} {k : Card} : (s.setImage n k).msi = s.msi := rfl
@[simp] theorem setImage_chans {n : Nat} {k : Card} : (s.setImage n k).chans = s.chans := rfl
@[simp] theorem setImage_row {n : Nat} {k : Card} : (s.setImage n k).row d = s.row d := rfl

/-! ### The fields setHolding leaves -/

@[simp] theorem setHolding_pending {n : Nat} {h : Holding} : (s.setHolding n h).pending = s.pending := rfl
@[simp] theorem setHolding_regs {n : Nat} {h : Holding} : (s.setHolding n h).regs = s.regs := rfl
@[simp] theorem setHolding_setup {n : Nat} {h : Holding} : (s.setHolding n h).setup = s.setup := rfl
@[simp] theorem setHolding_base {n : Nat} {h : Holding} : (s.setHolding n h).base = s.base := rfl
@[simp] theorem setHolding_sweep {n : Nat} {h : Holding} : (s.setHolding n h).sweep = s.sweep := rfl
@[simp] theorem setHolding_inputs {n : Nat} {h : Holding} : (s.setHolding n h).inputs = s.inputs := rfl
@[simp] theorem setHolding_outputs {n : Nat} {h : Holding} : (s.setHolding n h).outputs = s.outputs := rfl
@[simp] theorem setHolding_codec {n : Nat} {h : Holding} : (s.setHolding n h).codec = s.codec := rfl
@[simp] theorem setHolding_letters {n : Nat} {h : Holding} : (s.setHolding n h).letters = s.letters := rfl
@[simp] theorem setHolding_sheets {n : Nat} {h : Holding} : (s.setHolding n h).sheets = s.sheets := rfl
@[simp] theorem setHolding_orders {n : Nat} {h : Holding} : (s.setHolding n h).orders = s.orders := rfl
@[simp] theorem setHolding_render {n : Nat} {h : Holding} : (s.setHolding n h).render = s.render := rfl
@[simp] theorem setHolding_desk {n : Nat} {h : Holding} : (s.setHolding n h).desk = s.desk := rfl
@[simp] theorem setHolding_engine {n : Nat} {h : Holding} : (s.setHolding n h).engine = s.engine := rfl
@[simp] theorem setHolding_stackReturned {n : Nat} {h : Holding} : (s.setHolding n h).stackReturned = s.stackReturned := rfl
@[simp] theorem setHolding_written {n : Nat} {h : Holding} : (s.setHolding n h).written = s.written := rfl
@[simp] theorem setHolding_msi {n : Nat} {h : Holding} : (s.setHolding n h).msi = s.msi := rfl
@[simp] theorem setHolding_chans {n : Nat} {h : Holding} : (s.setHolding n h).chans = s.chans := rfl
@[simp] theorem setHolding_row {n : Nat} {h : Holding} : (s.setHolding n h).row d = s.row d := rfl

/-! ### The fields endHolding leaves -/

@[simp] theorem endHolding_pending {n : Nat} : (s.endHolding n).pending = s.pending := rfl
@[simp] theorem endHolding_regs {n : Nat} : (s.endHolding n).regs = s.regs := rfl
@[simp] theorem endHolding_setup {n : Nat} : (s.endHolding n).setup = s.setup := rfl
@[simp] theorem endHolding_base {n : Nat} : (s.endHolding n).base = s.base := rfl
@[simp] theorem endHolding_sweep {n : Nat} : (s.endHolding n).sweep = s.sweep := rfl
@[simp] theorem endHolding_inputs {n : Nat} : (s.endHolding n).inputs = s.inputs := rfl
@[simp] theorem endHolding_outputs {n : Nat} : (s.endHolding n).outputs = s.outputs := rfl
@[simp] theorem endHolding_codec {n : Nat} : (s.endHolding n).codec = s.codec := rfl
@[simp] theorem endHolding_letters {n : Nat} : (s.endHolding n).letters = s.letters := rfl
@[simp] theorem endHolding_sheets {n : Nat} : (s.endHolding n).sheets = s.sheets := rfl
@[simp] theorem endHolding_orders {n : Nat} : (s.endHolding n).orders = s.orders := rfl
@[simp] theorem endHolding_render {n : Nat} : (s.endHolding n).render = s.render := rfl
@[simp] theorem endHolding_desk {n : Nat} : (s.endHolding n).desk = s.desk := rfl
@[simp] theorem endHolding_engine {n : Nat} : (s.endHolding n).engine = s.engine := rfl
@[simp] theorem endHolding_stackReturned {n : Nat} : (s.endHolding n).stackReturned = s.stackReturned := rfl
@[simp] theorem endHolding_written {n : Nat} : (s.endHolding n).written = s.written := rfl
@[simp] theorem endHolding_msi {n : Nat} : (s.endHolding n).msi = s.msi := rfl
@[simp] theorem endHolding_chans {n : Nat} : (s.endHolding n).chans = s.chans := rfl
@[simp] theorem endHolding_row {n : Nat} : (s.endHolding n).row d = s.row d := rfl

/-! ### The fields writeCard leaves -/

@[simp] theorem writeCard_pending {n : Nat} {k : Card} {e : CardWrite} : (s.writeCard n k e).pending = s.pending := rfl
@[simp] theorem writeCard_regs {n : Nat} {k : Card} {e : CardWrite} : (s.writeCard n k e).regs = s.regs := rfl
@[simp] theorem writeCard_setup {n : Nat} {k : Card} {e : CardWrite} : (s.writeCard n k e).setup = s.setup := rfl
@[simp] theorem writeCard_base {n : Nat} {k : Card} {e : CardWrite} : (s.writeCard n k e).base = s.base := rfl
@[simp] theorem writeCard_sweep {n : Nat} {k : Card} {e : CardWrite} : (s.writeCard n k e).sweep = s.sweep := rfl
@[simp] theorem writeCard_inputs {n : Nat} {k : Card} {e : CardWrite} : (s.writeCard n k e).inputs = s.inputs := rfl
@[simp] theorem writeCard_outputs {n : Nat} {k : Card} {e : CardWrite} : (s.writeCard n k e).outputs = s.outputs := rfl
@[simp] theorem writeCard_codec {n : Nat} {k : Card} {e : CardWrite} : (s.writeCard n k e).codec = s.codec := rfl
@[simp] theorem writeCard_letters {n : Nat} {k : Card} {e : CardWrite} : (s.writeCard n k e).letters = s.letters := rfl
@[simp] theorem writeCard_sheets {n : Nat} {k : Card} {e : CardWrite} : (s.writeCard n k e).sheets = s.sheets := rfl
@[simp] theorem writeCard_cards {n : Nat} {k : Card} {e : CardWrite} : (s.writeCard n k e).cards = s.cards := rfl
@[simp] theorem writeCard_orders {n : Nat} {k : Card} {e : CardWrite} : (s.writeCard n k e).orders = s.orders := rfl
@[simp] theorem writeCard_render {n : Nat} {k : Card} {e : CardWrite} : (s.writeCard n k e).render = s.render := rfl
@[simp] theorem writeCard_desk {n : Nat} {k : Card} {e : CardWrite} : (s.writeCard n k e).desk = s.desk := rfl
@[simp] theorem writeCard_stackReturned {n : Nat} {k : Card} {e : CardWrite} : (s.writeCard n k e).stackReturned = s.stackReturned := rfl
@[simp] theorem writeCard_written {n : Nat} {k : Card} {e : CardWrite} : (s.writeCard n k e).written = s.written := rfl
@[simp] theorem writeCard_msi {n : Nat} {k : Card} {e : CardWrite} : (s.writeCard n k e).msi = s.msi := rfl
@[simp] theorem writeCard_chans {n : Nat} {k : Card} {e : CardWrite} : (s.writeCard n k e).chans = s.chans := rfl
@[simp] theorem writeCard_row {n : Nat} {k : Card} {e : CardWrite} : (s.writeCard n k e).row d = s.row d := rfl

/-! ### The fields accept leaves -/

@[simp] theorem accept_pending {o : OrderSlot} {x : Accepted} : (s.accept o x).pending = s.pending := rfl
@[simp] theorem accept_regs {o : OrderSlot} {x : Accepted} : (s.accept o x).regs = s.regs := rfl
@[simp] theorem accept_setup {o : OrderSlot} {x : Accepted} : (s.accept o x).setup = s.setup := rfl
@[simp] theorem accept_base {o : OrderSlot} {x : Accepted} : (s.accept o x).base = s.base := rfl
@[simp] theorem accept_sweep {o : OrderSlot} {x : Accepted} : (s.accept o x).sweep = s.sweep := rfl
@[simp] theorem accept_inputs {o : OrderSlot} {x : Accepted} : (s.accept o x).inputs = s.inputs := rfl
@[simp] theorem accept_outputs {o : OrderSlot} {x : Accepted} : (s.accept o x).outputs = s.outputs := rfl
@[simp] theorem accept_codec {o : OrderSlot} {x : Accepted} : (s.accept o x).codec = s.codec := rfl
@[simp] theorem accept_letters {o : OrderSlot} {x : Accepted} : (s.accept o x).letters = s.letters := rfl
@[simp] theorem accept_sheets {o : OrderSlot} {x : Accepted} : (s.accept o x).sheets = s.sheets := rfl
@[simp] theorem accept_cards {o : OrderSlot} {x : Accepted} : (s.accept o x).cards = s.cards := rfl
@[simp] theorem accept_render {o : OrderSlot} {x : Accepted} : (s.accept o x).render = s.render := rfl
@[simp] theorem accept_desk {o : OrderSlot} {x : Accepted} : (s.accept o x).desk = s.desk := rfl
@[simp] theorem accept_stackReturned {o : OrderSlot} {x : Accepted} : (s.accept o x).stackReturned = s.stackReturned := rfl
@[simp] theorem accept_written {o : OrderSlot} {x : Accepted} : (s.accept o x).written = s.written := rfl
@[simp] theorem accept_msi {o : OrderSlot} {x : Accepted} : (s.accept o x).msi = s.msi := rfl
@[simp] theorem accept_chans {o : OrderSlot} {x : Accepted} : (s.accept o x).chans = s.chans := rfl
@[simp] theorem accept_row {o : OrderSlot} {x : Accepted} : (s.accept o x).row d = s.row d := rfl

/-! ### The fields finishBy leaves -/

@[simp] theorem finishBy_pending {who : Requester} {o : OrderSlot} {n n1 n2 : Nat} : (s.finishBy who o n n1 n2).pending = s.pending := rfl
@[simp] theorem finishBy_regs {who : Requester} {o : OrderSlot} {n n1 n2 : Nat} : (s.finishBy who o n n1 n2).regs = s.regs := rfl
@[simp] theorem finishBy_setup {who : Requester} {o : OrderSlot} {n n1 n2 : Nat} : (s.finishBy who o n n1 n2).setup = s.setup := rfl
@[simp] theorem finishBy_base {who : Requester} {o : OrderSlot} {n n1 n2 : Nat} : (s.finishBy who o n n1 n2).base = s.base := rfl
@[simp] theorem finishBy_sweep {who : Requester} {o : OrderSlot} {n n1 n2 : Nat} : (s.finishBy who o n n1 n2).sweep = s.sweep := rfl
@[simp] theorem finishBy_inputs {who : Requester} {o : OrderSlot} {n n1 n2 : Nat} : (s.finishBy who o n n1 n2).inputs = s.inputs := rfl
@[simp] theorem finishBy_outputs {who : Requester} {o : OrderSlot} {n n1 n2 : Nat} : (s.finishBy who o n n1 n2).outputs = s.outputs := rfl
@[simp] theorem finishBy_codec {who : Requester} {o : OrderSlot} {n n1 n2 : Nat} : (s.finishBy who o n n1 n2).codec = s.codec := rfl
@[simp] theorem finishBy_letters {who : Requester} {o : OrderSlot} {n n1 n2 : Nat} : (s.finishBy who o n n1 n2).letters = s.letters := rfl
@[simp] theorem finishBy_sheets {who : Requester} {o : OrderSlot} {n n1 n2 : Nat} : (s.finishBy who o n n1 n2).sheets = s.sheets := rfl
@[simp] theorem finishBy_cards {who : Requester} {o : OrderSlot} {n n1 n2 : Nat} : (s.finishBy who o n n1 n2).cards = s.cards := rfl
@[simp] theorem finishBy_render {who : Requester} {o : OrderSlot} {n n1 n2 : Nat} : (s.finishBy who o n n1 n2).render = s.render := rfl
@[simp] theorem finishBy_desk {who : Requester} {o : OrderSlot} {n n1 n2 : Nat} : (s.finishBy who o n n1 n2).desk = s.desk := rfl
@[simp] theorem finishBy_stackReturned {who : Requester} {o : OrderSlot} {n n1 n2 : Nat} : (s.finishBy who o n n1 n2).stackReturned = s.stackReturned := rfl
@[simp] theorem finishBy_written {who : Requester} {o : OrderSlot} {n n1 n2 : Nat} : (s.finishBy who o n n1 n2).written = s.written := rfl
@[simp] theorem finishBy_msi {who : Requester} {o : OrderSlot} {n n1 n2 : Nat} : (s.finishBy who o n n1 n2).msi = s.msi := rfl
@[simp] theorem finishBy_chans {who : Requester} {o : OrderSlot} {n n1 n2 : Nat} : (s.finishBy who o n n1 n2).chans = s.chans := rfl
@[simp] theorem finishBy_row {who : Requester} {o : OrderSlot} {n n1 n2 : Nat} : (s.finishBy who o n n1 n2).row d = s.row d := rfl

/-! ### The fields finish leaves -/

@[simp] theorem finish_pending {o : OrderSlot} {n n1 n2 : Nat} : (s.finish o n n1 n2).pending = s.pending := rfl
@[simp] theorem finish_regs {o : OrderSlot} {n n1 n2 : Nat} : (s.finish o n n1 n2).regs = s.regs := rfl
@[simp] theorem finish_setup {o : OrderSlot} {n n1 n2 : Nat} : (s.finish o n n1 n2).setup = s.setup := rfl
@[simp] theorem finish_base {o : OrderSlot} {n n1 n2 : Nat} : (s.finish o n n1 n2).base = s.base := rfl
@[simp] theorem finish_sweep {o : OrderSlot} {n n1 n2 : Nat} : (s.finish o n n1 n2).sweep = s.sweep := rfl
@[simp] theorem finish_inputs {o : OrderSlot} {n n1 n2 : Nat} : (s.finish o n n1 n2).inputs = s.inputs := rfl
@[simp] theorem finish_outputs {o : OrderSlot} {n n1 n2 : Nat} : (s.finish o n n1 n2).outputs = s.outputs := rfl
@[simp] theorem finish_codec {o : OrderSlot} {n n1 n2 : Nat} : (s.finish o n n1 n2).codec = s.codec := rfl
@[simp] theorem finish_letters {o : OrderSlot} {n n1 n2 : Nat} : (s.finish o n n1 n2).letters = s.letters := rfl
@[simp] theorem finish_sheets {o : OrderSlot} {n n1 n2 : Nat} : (s.finish o n n1 n2).sheets = s.sheets := rfl
@[simp] theorem finish_cards {o : OrderSlot} {n n1 n2 : Nat} : (s.finish o n n1 n2).cards = s.cards := rfl
@[simp] theorem finish_render {o : OrderSlot} {n n1 n2 : Nat} : (s.finish o n n1 n2).render = s.render := rfl
@[simp] theorem finish_desk {o : OrderSlot} {n n1 n2 : Nat} : (s.finish o n n1 n2).desk = s.desk := rfl
@[simp] theorem finish_stackReturned {o : OrderSlot} {n n1 n2 : Nat} : (s.finish o n n1 n2).stackReturned = s.stackReturned := rfl
@[simp] theorem finish_written {o : OrderSlot} {n n1 n2 : Nat} : (s.finish o n n1 n2).written = s.written := rfl
@[simp] theorem finish_msi {o : OrderSlot} {n n1 n2 : Nat} : (s.finish o n n1 n2).msi = s.msi := rfl
@[simp] theorem finish_chans {o : OrderSlot} {n n1 n2 : Nat} : (s.finish o n n1 n2).chans = s.chans := rfl
@[simp] theorem finish_row {o : OrderSlot} {n n1 n2 : Nat} : (s.finish o n n1 n2).row d = s.row d := rfl

/-! ### The fields abandon leaves -/

@[simp] theorem abandon_pending {q : Purpose → Bool} : (s.abandon q).pending = s.pending := rfl
@[simp] theorem abandon_regs {q : Purpose → Bool} : (s.abandon q).regs = s.regs := rfl
@[simp] theorem abandon_setup {q : Purpose → Bool} : (s.abandon q).setup = s.setup := rfl
@[simp] theorem abandon_base {q : Purpose → Bool} : (s.abandon q).base = s.base := rfl
@[simp] theorem abandon_sweep {q : Purpose → Bool} : (s.abandon q).sweep = s.sweep := rfl
@[simp] theorem abandon_inputs {q : Purpose → Bool} : (s.abandon q).inputs = s.inputs := rfl
@[simp] theorem abandon_outputs {q : Purpose → Bool} : (s.abandon q).outputs = s.outputs := rfl
@[simp] theorem abandon_codec {q : Purpose → Bool} : (s.abandon q).codec = s.codec := rfl
@[simp] theorem abandon_letters {q : Purpose → Bool} : (s.abandon q).letters = s.letters := rfl
@[simp] theorem abandon_sheets {q : Purpose → Bool} : (s.abandon q).sheets = s.sheets := rfl
@[simp] theorem abandon_cards {q : Purpose → Bool} : (s.abandon q).cards = s.cards := rfl
@[simp] theorem abandon_orders {q : Purpose → Bool} : (s.abandon q).orders = s.orders := rfl
@[simp] theorem abandon_render {q : Purpose → Bool} : (s.abandon q).render = s.render := rfl
@[simp] theorem abandon_desk {q : Purpose → Bool} : (s.abandon q).desk = s.desk := rfl
@[simp] theorem abandon_stackReturned {q : Purpose → Bool} : (s.abandon q).stackReturned = s.stackReturned := rfl
@[simp] theorem abandon_written {q : Purpose → Bool} : (s.abandon q).written = s.written := rfl
@[simp] theorem abandon_msi {q : Purpose → Bool} : (s.abandon q).msi = s.msi := rfl
@[simp] theorem abandon_chans {q : Purpose → Bool} : (s.abandon q).chans = s.chans := rfl
@[simp] theorem abandon_row {q : Purpose → Bool} : (s.abandon q).row d = s.row d := rfl

end Sys2Proof.Machine
end

