-- ==== Sys2Proof/Laws/Table.lean ====
section
/-! SUPPORT. Laws of the keyed lists and of the host memory list: every operation keeps the canonical form,
and an entry read back is the one written. -/

namespace Sys2Proof.Machine

open Sys2Proof

variable {α : Type} {l : List (Nat × α)} {k n : Nat} {v : α}

/-! ### The canonical form -/

theorem wf_nil : Table.wf ([] : List (Nat × α)) := List.Pairwise.nil

theorem wf_cons {e : Nat × α} : Table.wf (e :: l) ↔ (∀ x ∈ l, e.1 < x.1) ∧ Table.wf l := by
  simp [Table.wf]

theorem mem_put {x : Nat × α} (h : x ∈ Table.put l k v) : x = (k, v) ∨ x ∈ l := by
  induction l with
  | nil => simpa [Table.put] using h
  | cons e rest ih =>
    obtain ⟨a, b⟩ := e
    simp only [Table.put] at h
    split at h
    · simpa using h
    · split at h
      · simp only [List.mem_cons] at h ⊢
        exact h.imp id Or.inr
      · simp only [List.mem_cons] at h ⊢
        rcases h with h | h
        · exact .inr (.inl h)
        · exact (ih h).imp id Or.inr

theorem wf_put (h : Table.wf l) : Table.wf (Table.put l k v) := by
  induction l with
  | nil => simp [Table.put, Table.wf]
  | cons e rest ih =>
    obtain ⟨a, b⟩ := e
    have h' := wf_cons.1 h
    simp only [Table.put]
    split
    · refine wf_cons.2 ⟨fun x hx => ?_, h⟩
      rcases List.mem_cons.1 hx with rfl | hx
      · assumption
      · exact Nat.lt_trans ‹_› (h'.1 x hx)
    · split
      · rename_i e; subst e
        exact wf_cons.2 ⟨h'.1, h'.2⟩
      · refine wf_cons.2 ⟨fun x hx => ?_, ih h'.2⟩
        rcases mem_put hx with rfl | hx
        · simp only; omega
        · exact h'.1 x hx

theorem wf_filter {p : Nat × α → Bool} (h : Table.wf l) : Table.wf (l.filter p) :=
  List.Pairwise.sublist ((List.filter_sublist).map _) h

theorem wf_erase (h : Table.wf l) : Table.wf (Table.erase l k) := wf_filter h

theorem wf_count {t : List (Nat × Nat)} (h : Table.wf t) : Table.wf (Count.set t k n) := by
  unfold Count.set; split
  · exact wf_erase h
  · exact wf_put h

/-- A count table lists no 0, and setting a count keeps it so. -/
theorem pos_count {t : List (Nat × Nat)} (h : ∀ e ∈ t, 0 < e.2) : ∀ e ∈ Count.set t k n, 0 < e.2 := by
  intro e he
  unfold Count.set at he
  split at he
  · exact h e (List.mem_of_mem_filter he)
  · rcases mem_put he with rfl | he
    · simp only; omega
    · exact h e he

theorem wf_countFold {t : List (Nat × Nat)} {ks : List Nat} (h : Table.wf t) :
    Table.wf (ks.foldl (fun t k => Count.set t k n) t) := by
  induction ks generalizing t with
  | nil => exact h
  | cons a rest ih => exact ih (wf_count h)

theorem pos_countFold {t : List (Nat × Nat)} {ks : List Nat} (h : ∀ e ∈ t, 0 < e.2) :
    ∀ e ∈ ks.foldl (fun t k => Count.set t k n) t, 0 < e.2 := by
  induction ks generalizing t with
  | nil => exact h
  | cons a rest ih => exact ih (pos_count h)

theorem wf_write {m : List Host.Cell} {bytes : List Byte} (h : Memory.wf m) :
    Memory.wf (Memory.write m n bytes) := by
  induction bytes generalizing m n with
  | nil => exact h
  | cons b rest ih => exact ih (wf_put h)

theorem wf_forget {stands : Nat → Bool} {m : List Host.Cell} {count : Nat} (h : Memory.wf m) :
    Memory.wf (Memory.forget stands m n count) := by
  induction count generalizing m n with
  | zero => exact h
  | succ count ih =>
    simp only [Memory.forget]
    split
    · exact ih h
    · exact ih (wf_erase h)

theorem wf_forgetFlight {m : List Host.Cell} {flight : List Access} (h : Memory.wf m) :
    Memory.wf (forgetFlight m flight) := by
  unfold forgetFlight
  induction flight generalizing m with
  | nil => exact h
  | cons a rest ih =>
    simp only [List.foldl_cons]
    apply ih
    split
    · exact wf_forget h
    · exact h

/-! ### Reading back -/

theorem get_put_self : Table.get (Table.put l k v) k = some v := by
  induction l with
  | nil => simp [Table.put, Table.get]
  | cons e rest ih =>
    obtain ⟨a, b⟩ := e
    simp only [Table.put]
    split
    · simp [Table.get]
    · split
      · simp [Table.get]
      · simp [Table.get, *]

theorem get_put_ne (h : n ≠ k) : Table.get (Table.put l k v) n = Table.get l n := by
  induction l with
  | nil => simp [Table.put, Table.get, h]
  | cons e rest ih =>
    obtain ⟨a, b⟩ := e
    simp only [Table.put]
    split
    · simp [Table.get, h]
    · split
      · rename_i e; subst e; simp [Table.get, h]
      · simp only [Table.get, ih]

theorem get_erase_self : Table.get (Table.erase l k) k = none := by
  induction l with
  | nil => simp [Table.erase, Table.get]
  | cons e rest ih =>
    obtain ⟨a, b⟩ := e
    simp only [Table.erase, List.filter_cons] at ih ⊢
    split
    · rename_i h
      simp only [bne_iff_ne] at h
      simp only [Table.get, Ne.symm h, if_false]
      exact ih
    · exact ih

theorem get_erase_ne (h : n ≠ k) : Table.get (Table.erase l k) n = Table.get l n := by
  induction l with
  | nil => simp [Table.erase, Table.get]
  | cons e rest ih =>
    obtain ⟨a, b⟩ := e
    simp only [Table.erase, List.filter_cons] at ih ⊢
    split
    · simp only [Table.get, ih]
    · rename_i h'
      simp only [bne_iff_ne, not_not] at h'
      subst h'
      simp only [Table.get, h, if_false]
      exact ih

/-- A write leaves every byte outside it as it was. -/
theorem read_write_outside {m : List Host.Cell} {bytes : List Byte} {a : Nat}
    (h : a < n ∨ n + bytes.length ≤ a) : Memory.read (Memory.write m n bytes) a = Memory.read m a := by
  induction bytes generalizing m n with
  | nil => rfl
  | cons b rest ih =>
    simp only [Memory.write]
    rw [ih (by simp only [List.length_cons] at h; omega)]
    exact get_put_ne (by simp only [List.length_cons] at h; omega)

/-- A write is read back. -/
theorem read_write_inside {m : List Host.Cell} {bytes : List Byte} {i : Nat} (h : i < bytes.length) :
    Memory.read (Memory.write m n bytes) (n + i) = bytes[i]? := by
  induction bytes generalizing m n i with
  | nil => simp at h
  | cons b rest ih =>
    simp only [Memory.write]
    cases i with
    | zero =>
      rw [read_write_outside (by omega)]
      simpa [Memory.read] using get_put_self
    | succ i =>
      have := ih (m := Table.put m n b) (n := n + 1) (i := i) (by simpa using h)
      rw [show n + (i + 1) = n + 1 + i by omega, this]
      simp

/-- A byte outside the range, or one that stands, is read after as before. -/
theorem read_forget_kept {stands : Nat → Bool} {m : List Host.Cell} {count a : Nat}
    (h : a < n ∨ n + count ≤ a ∨ stands a = true) :
    Memory.read (Memory.forget stands m n count) a = Memory.read m a := by
  induction count generalizing m n with
  | zero => rfl
  | succ count ih =>
    have hn : a < n + 1 ∨ n + 1 + count ≤ a ∨ stands a = true :=
      h.imp (by omega) (Or.imp_left (by omega))
    simp only [Memory.forget]
    rw [ih hn]
    split
    · rfl
    · rename_i hs
      refine get_erase_ne fun ha => ?_
      subst ha
      obtain h | h | h := h
      · omega
      · omega
      · exact hs h

/-- A byte of the range that does not stand is not known. -/
theorem read_forget_lost {stands : Nat → Bool} {m : List Host.Cell} {count a : Nat} (h1 : n ≤ a)
    (h2 : a < n + count) (hs : stands a = false) : Memory.read (Memory.forget stands m n count) a = none := by
  induction count generalizing m n with
  | zero => omega
  | succ count ih =>
    simp only [Memory.forget]
    by_cases ha : a = n
    · subst ha
      rw [read_forget_kept (.inl (by omega)), if_neg (by simp [hs])]
      exact get_erase_self
    · exact ih (by omega) (by omega)

end Sys2Proof.Machine
end

