-- ==== Sys2Proof/Laws/Steps.lean ====
section
/-! SUPPORT. What each way into a command does, said once: a completion that is due, a key at the head of a
queue, an order the sweep stands at; how changes are reported; and where a sweep goes on to. -/

namespace Sys2Proof.Machine

open Sys2Proof

variable {s t u : State} {c : Chan} {k : OrderSlot}

/-! ### Completions -/

/-- A completion that is due runs its body on the state with the access out of flight. -/
theorem onComplete_due {who : Requester} {a : Access} {rest : List Access} {kind : Purpose → Bool}
    {body : Access → State → State} (h : Due s who a rest) (hk : kind a.purpose = true) :
    s.onComplete who kind body = body a (s.landed rest) := by
  simp [State.onComplete, State.complete, h.next, hk, h.unfaulted, State.landed]

theorem complete_due {who : Requester} {a : Access} {rest : List Access} {kind : Purpose → Bool}
    (h : Due s who a rest) (hk : kind a.purpose = true) :
    s.complete who kind = some (a, s.landed rest) := by
  simp [State.complete, h.next, hk, State.landed]

@[simp] theorem row_landed {l : List Access} : (s.landed l).row c = s.row c := rfl
@[simp] theorem landed_regs {l : List Access} : (s.landed l).regs = s.regs := rfl
@[simp] theorem landed_setup {l : List Access} : (s.landed l).setup = s.setup := rfl
@[simp] theorem landed_base {l : List Access} : (s.landed l).base = s.base := rfl
@[simp] theorem landed_sweep {l : List Access} : (s.landed l).sweep = s.sweep := rfl
@[simp] theorem landed_chans {l : List Access} : (s.landed l).chans = s.chans := rfl
@[simp] theorem landed_inputs {l : List Access} : (s.landed l).inputs = s.inputs := rfl
@[simp] theorem landed_outputs {l : List Access} : (s.landed l).outputs = s.outputs := rfl
@[simp] theorem landed_letters {l : List Access} : (s.landed l).letters = s.letters := rfl
@[simp] theorem landed_sheets {l : List Access} : (s.landed l).sheets = s.sheets := rfl
@[simp] theorem landed_cards {l : List Access} : (s.landed l).cards = s.cards := rfl
@[simp] theorem landed_orders {l : List Access} : (s.landed l).orders = s.orders := rfl
@[simp] theorem landed_render {l : List Access} : (s.landed l).render = s.render := rfl
@[simp] theorem landed_desk {l : List Access} : (s.landed l).desk = s.desk := rfl
@[simp] theorem landed_written {l : List Access} : (s.landed l).written = s.written := rfl
@[simp] theorem landed_msi {l : List Access} : (s.landed l).msi = s.msi := rfl
@[simp] theorem landed_reports {l : List Access} : (s.landed l).reports = s.reports := rfl

/-! ### Reports -/

/-- Nothing reported changes: the step answers the state as it is. -/
theorem done_same (h : t.reports = s.reports) : done s t = .next t := by
  simp [done, State.report, h]

/-- The desk unit is told of a change, and nothing else is touched (R163). -/
theorem done_reported (hp : t.regs.part ≠ .starting) (hd : t.desk = s.desk) :
    ∃ v, done s t = .next v ∧ DeskReported s v ∧ v = { t with desk := v.desk } ∧ v.reports = t.reports := by
  by_cases h : t.reports = s.reports
  · refine ⟨t, done_same h, ?_, rfl, rfl⟩
    simp [DeskReported, h, hd]
  · refine ⟨{ t with desk := { t.desk with changed := true } }, ?_, ?_, rfl, rfl⟩
    · simp [done, State.report, h, hp]
    · change { t.desk with changed := true } =
        { s.desk with changed := s.desk.changed || decide (t.reports ≠ s.reports) }
      rw [decide_eq_true h, Bool.or_true, hd]

@[simp] theorem row_desk {x : DeskUnit} : ({ s with desk := x } : State).row c = s.row c := rfl
@[simp] theorem row_engine {x : Engine} : ({ s with engine := x } : State).row c = s.row c := rfl
@[simp] theorem row_orders {x : OrderUnit} : ({ s with orders := x } : State).row c = s.row c := rfl
@[simp] theorem row_letters {x : LetterStore} : ({ s with letters := x } : State).row c = s.row c := rfl
@[simp] theorem row_sheets {x : SheetManager} : ({ s with sheets := x } : State).row c = s.row c := rfl
@[simp] theorem row_cards {x : CardUnit} : ({ s with cards := x } : State).row c = s.row c := rfl
@[simp] theorem row_inputs {x : Vector InputSlot 64} : ({ s with inputs := x } : State).row c = s.row c := rfl

/-- A step that sets one row on a state that reports as before answers that row, the change reported. -/
theorem done_row {b : State} {r : ChanRow} (hp : b.regs.part ≠ .starting) (hr : b.reports = s.reports)
    (hd : b.desk = s.desk) (h : t = b.setRow c r) :
    ∃ v, done s t = .next v ∧ RowBecomes b v c r ∧ DeskReported s v ∧ v = { t with desk := v.desk } := by
  subst h
  obtain ⟨v, hv, hdesk, he, hrep⟩ := done_reported (s := s) (t := b.setRow c r) hp hd
  have hc : ∀ d, v.row d = (b.setRow c r).row d := fun d => by
    have : v.chans = (b.setRow c r).chans := by rw [he]
    simp only [State.row, this]
  refine ⟨v, hv, ⟨?_, ?_, ?_, ?_⟩, hdesk, he⟩
  · rw [hc, row_setRow_self]
  · intro d hne; rw [hc, row_setRow_ne hne]
  · simpa only [DeskReported, hr, hd] using hdesk
  · conv => lhs; rw [he]
    rw [he]; rfl

/-! ### Keys -/

/-- The key at the head of a channel that takes keys is taken. -/
theorem takeKey_at {st : ChanState} {code arg : Nat} {rest : List Key} {p : Nat → Bool}
    {body : Key → State} (h : KeyAtHead s c st code arg rest)
    (ht : st ∈ [ChanState.idle, .ready, .recording, .playing]) (hp : p code = true) :
    s.takeKey c p body = body { code := code, arg := arg } := by
  have hm : s.mayTake c = true := by
    simp only [State.mayTake, h.running, h.idleRequest, h.state]
    simp only [List.mem_cons, List.not_mem_nil, or_false] at ht
    rcases ht with rfl | rfl | rfl | rfl <;> rfl
  simp [State.takeKey, h.keys, hm, hp]

/-- The key goes from the head. -/
theorem row_popKey {st : ChanState} {code arg : Nat} {rest : List Key}
    (h : KeyAtHead s c st code arg rest) :
    (s.popKey c).row c = { s.row c with ctx := { (s.row c).ctx with keys := rest } } := by
  simp [State.popKey, h.keys]

/-! ### Orders -/

/-- The order the sweep stands at is acted on, and the sweep goes on unless it waits there. -/
theorem takeOrder_at {kind : Nat} {p : Nat → Bool} {body : OrderSlot → List Byte → State}
    (h : OrderAt s k kind) (hp : p kind = true) :
    s.takeOrder p body =
      if (body k (s.orders.slotData k)).orders.sweep = .acting k
      then (body k (s.orders.slotData k)).sweepOn (k.val + 1) else body k (s.orders.slotData k) := by
  simp [State.takeOrder, h.running, h.acting, h.kind, hp]

theorem find_finRange {n : Nat} {p : Fin n → Bool} {j : Fin n} (hj : p j = true)
    (h : ∀ i, i < j → p i = false) : (List.finRange n).find? p = some j := by
  rw [List.find?_eq_some_iff_getElem]
  refine ⟨hj, j.val, by simp, by simp, fun i hi => ?_⟩
  have := h ⟨i, by omega⟩ hi
  simpa using this

/-- The sweep goes on from slot k as R132 says. -/
theorem sweptOn (hi : t.orders.image = s.orders.image) (ha : t.orders.again = s.orders.again) :
    SweptOn s (t.sweepOn (k.val + 1)) k := by
  have data : ∀ i, t.orders.slotData i = s.orders.slotData i := fun i => by
    simp [OrderUnit.slotData, hi]
  have taken : ∀ i, t.orders.takes i = true ↔ t.orders.accepted[i] = none ∧ i ∉ t.orders.finishedSet ∧
      byteAt (s.orders.slotData i) 0 = 1 := fun i => by
    simp [OrderUnit.takes, slotState, slotPosted, data, and_assoc]
  constructor
  · intro j hj hp hall
    have hsame : (t.sweepOn (k.val + 1)).orders.accepted = t.orders.accepted ∧
        (t.sweepOn (k.val + 1)).orders.finishedSet = t.orders.finishedSet := by
      unfold State.sweepOn State.endSweep
      split <;> exact ⟨rfl, rfl⟩
    rw [hsame.1, hsame.2] at hp
    have hf : (List.finRange 32).find? (fun i => decide (k.val + 1 ≤ i.val) && t.orders.takes i) = some j := by
      refine find_finRange ?_ ?_
      · simp only [Bool.and_eq_true, decide_eq_true_eq]
        exact ⟨hj, (taken j).2 hp⟩
      · intro i hlt
        simp only [Bool.and_eq_false_iff, decide_eq_false_iff_not]
        by_cases hk : k.val + 1 ≤ i.val
        · right
          have := hall i hk hlt
          rw [hsame.1, hsame.2, ← taken i] at this
          simpa using this
        · exact Or.inl hk
    unfold State.sweepOn
    simp only [hf]
    exact ⟨trivial, hi, ha⟩
  · intro hall
    have hsame : (t.sweepOn (k.val + 1)).orders.accepted = t.orders.accepted ∧
        (t.sweepOn (k.val + 1)).orders.finishedSet = t.orders.finishedSet := by
      unfold State.sweepOn State.endSweep
      split <;> exact ⟨rfl, rfl⟩
    have hf : (List.finRange 32).find? (fun i => decide (k.val + 1 ≤ i.val) && t.orders.takes i) = none := by
      rw [List.find?_eq_none]
      intro i _
      simp only [Bool.and_eq_true, decide_eq_true_eq, not_and]
      intro hk
      have := hall i hk
      rw [hsame.1, hsame.2, ← taken i] at this
      exact this
    unfold State.sweepOn
    simp only [hf, State.endSweep, ha]
    exact ⟨trivial, trivial, trivial⟩

/-! ### Writes over writes in flight -/

/-- A write noted adds the bytes it covers to those that stand (R170). -/
theorem settledAt_overlaid {a b : Access} {n : Nat} (h : a.covers n) :
    (a.overlaid b).settledAt n = true ↔ a.settledAt n = true ∨ b.covers n := by
  obtain ⟨bytes, ha, h1, h2⟩ := h
  unfold Access.overlaid
  rw [ha]
  cases hb : b.action with
  | read m => simp [Access.covers, hb]
  | write new =>
    simp only
    split
    · simp [Access.settledAt, Access.covers, hb]
    · simp only [Access.covers, hb]
      constructor
      · exact .inl
      · rintro (h | ⟨l, hl, h3, h4⟩)
        · exact h
        · cases hl; omega

theorem covers_overlaid {a b : Access} {n : Nat} : (a.overlaid b).covers n ↔ a.covers n := by
  have h : (a.overlaid b).action = a.action ∧ (a.overlaid b).address = a.address := by
    unfold Access.overlaid
    split
    · split <;> exact ⟨rfl, rfl⟩
    · exact ⟨rfl, rfl⟩
  simp only [Access.covers, h]

/-- The bytes of a failed write that stand: those noted before, and those of the writes granted after it (R170). -/
theorem settledAt_under {a : Access} {after : List Access} {n : Nat} (h : a.covers n) :
    (a.under after).settledAt n = true ↔ a.settledAt n = true ∨ ∃ b ∈ after, b.covers n := by
  unfold Access.under
  induction after generalizing a with
  | nil => simp
  | cons b rest ih =>
    rw [List.foldl_cons, ih (covers_overlaid.2 h), settledAt_overlaid h]
    simp [or_assoc]

end Sys2Proof.Machine
end

