-- ==== Sys2Proof/Laws/Orders.lean ====
section
/-! SUPPORT. The answers of orders, said once: what a finishing write leaves, how the sweep goes on behind it,
and the two ways an order command ends, answered or accepted. -/

namespace Sys2Proof.Machine

open Sys2Proof

variable {s b t : State} {k : OrderSlot} {kind code first second : Nat}

/-- Going on changes nothing but sweep, again and image. -/
theorem sweepOn_frame (t : State) (n : Nat) : ∃ (w : SweepState) (a : Bool) (i : Option (List (List Byte))),
    t.sweepOn n = { t with orders := { t.orders with sweep := w, again := a, image := i } } := by
  unfold State.sweepOn State.endSweep
  split
  · exact ⟨_, _, _, rfl⟩
  · exact ⟨_, _, _, rfl⟩

theorem resultBytes_eq {n : Nat} (h : code < 256) :
    resultBytes code first second n = bytesOf 4 code ++ bytesOf 4 first ++ bytesOf 4 second ++ bytesOf 4 n := by
  have : code / 256 = 0 := by omega
  simp [resultBytes, bytesOf, zeroBytes, List.replicate, this]

/-- A finishing write behind other work that left the order unit alone. -/
theorem finish_answered (h : s.orders.sweep = .acting k) (hc : code < 256) (ho : b.orders = s.orders)
    (he : b.engine = s.engine) (hb : b.base = s.base) :
    Answered s ((b.finish k code first second).sweepOn (k.val + 1)) k code first second ∧
    SweptOn s ((b.finish k code first second).sweepOn (k.val + 1)) k ∧
    (b.finish k code first second).sweepOn (k.val + 1) = { b with
      orders := ((b.finish k code first second).sweepOn (k.val + 1)).orders,
      engine := ((b.finish k code first second).sweepOn (k.val + 1)).engine } := by
  have ha : s.orders.sweep ≠ .idle := by rw [h]; simp
  have hsw : SweptOn s ((b.finish k code first second).sweepOn (k.val + 1)) k := by
    apply sweptOn <;> simp [State.finish, State.finishBy, State.sendWrite, State.handOver, ho]
  obtain ⟨w, a, i, hs⟩ := sweepOn_frame (b.finish k code first second) (k.val + 1)
  refine ⟨?_, hsw, ?_⟩
  · constructor <;> rw [hs] <;>
      simp [State.finish, State.finishBy, State.sendWrite, State.handOver, ho, ha, HandedOver, he, writeOf,
        orderSlotAddress, hostAddress, hb, Config.addressSpace, resultBytes_eq hc]
  · rw [hs]
    simp [State.finish, State.finishBy, State.sendWrite, State.handOver]

/-- An order command whose body answers its order goes on with the sweep. -/
theorem takeOrder_finish {p : Nat → Bool} {body : OrderSlot → List Byte → State} (h : OrderAt s k kind)
    (hp : p kind = true) (hb : body k (s.orders.slotData k) = b.finish k code first second)
    (ho : b.orders = s.orders) :
    s.takeOrder p body = (b.finish k code first second).sweepOn (k.val + 1) := by
  rw [takeOrder_at h hp, hb, if_pos]
  simp [State.finish, State.finishBy, State.sendWrite, State.handOver, ho, h.acting]

/-- An order command whose body only answers its order. -/
theorem answered_only {p : Nat → Bool} {body : OrderSlot → List Byte → State} (h : OrderAt s k kind)
    (hp : p kind = true) (hc : code < 256)
    (hb : body k (s.orders.slotData k) = s.finish k code first second) :
    ∃ v, done s (s.takeOrder p body) = .next v ∧ AnsweredOnly s v k code first second := by
  obtain ⟨h1, h2, h3⟩ := finish_answered (b := s) (first := first) (second := second) h.acting hc rfl rfl rfl
  rw [takeOrder_finish h hp hb rfl]
  refine ⟨_, done_same ?_, h1, h2, h3⟩
  rw [h3]; rfl

/-- An order command whose body sets one row and answers its order. -/
theorem answered_row {p : Nat → Bool} {body : OrderSlot → List Byte → State} {c : Chan} {r : ChanRow}
    (h : OrderAt s k kind) (hp : p kind = true) (hc : code < 256)
    (hb : body k (s.orders.slotData k) = (s.setRow c r).finish k code first second) :
    ∃ v, done s (s.takeOrder p body) = .next v ∧ Answered s v k code first second ∧ SweptOn s v k ∧
      RowBecomes { s with orders := v.orders, engine := v.engine } v c r := by
  obtain ⟨h1, h2, h3⟩ :=
    finish_answered (b := s.setRow c r) (first := first) (second := second) h.acting hc rfl rfl rfl
  rw [takeOrder_finish h hp hb rfl]
  generalize ((s.setRow c r).finish k code first second).sweepOn (k.val + 1) = t at *
  obtain ⟨v, hv, hrow, -, he⟩ := done_row (s := s) (t := t) (c := c) (r := r)
    (b := { s with orders := t.orders, engine := t.engine }) (by simp [h.running]) rfl rfl h3
  have ho : v.orders = t.orders := by rw [he]
  have hn : v.engine = t.engine := by rw [he]
  refine ⟨v, hv, ?_, ?_, ?_⟩
  · exact ⟨ho ▸ h1.1, ho ▸ h1.2, ho ▸ h1.3, ho ▸ h1.4, ho ▸ h1.5, by
      have := h1.6; unfold HandedOver at this ⊢; rw [hn]; exact this⟩
  · exact ⟨ho ▸ h2.1, ho ▸ h2.2⟩
  · rw [ho, hn]; exact hrow

end Sys2Proof.Machine
end

