-- ==== Sys2Proof/Laws/Store.lean ====
section
/-! SUPPORT. What the letter store's functions on span lists can do: the cut at the cursor, a record joining
the list, the record that contains a position, the sheet list, the split of a span, and the records playback asks
for. -/

namespace Sys2Proof.Machine

open Sys2Proof

theorem lengthOf_cons (sp : Span) (l : List Span) : lengthOf (sp :: l) = sp.frames + lengthOf l := by
  simp [lengthOf]

theorem lengthOf_append (a b : List Span) : lengthOf (a ++ b) = lengthOf a + lengthOf b := by
  simp [lengthOf]

/-! ### The cut at the cursor -/

/-- The list is cut between two parts where the cursor stands behind the first (R58). -/
theorem cutAt_append {before after : List Span} (h : ∀ sp ∈ before, 0 < sp.frames) :
    cutAt (before ++ after) (lengthOf before) = (before, after) := by
  induction before with
  | nil => cases after <;> simp [cutAt, lengthOf]
  | cons sp rest ih =>
    have hp := h sp (by simp)
    have hr := ih fun q hq => h q (by simp [hq])
    rw [List.cons_append, cutAt, lengthOf_cons, if_pos ⟨by omega, by omega⟩,
      Nat.add_sub_cancel_left, hr]

theorem AtCursor.cut {r : ChanRow} {before after : List Span} (h : AtCursor r before after) :
    cutAt r.spanList r.ctx.cursor = (before, after) := by
  rw [← h.cursor, ChanRow.spanList, h.list]
  exact cutAt_append h.frames

theorem AtCursor.length {r : ChanRow} {before after : List Span} (h : AtCursor r before after) :
    r.length = r.ctx.cursor + lengthOf after := by
  rw [ChanRow.length, ChanRow.spanList, h.list, ← h.cursor]
  exact lengthOf_append before after

/-! ### A record joins the list (R59, R60) -/

theorem AtCursor.extendsSpan_iff {r : ChanRow} {before after : List Span} {p : Placement}
    (h : AtCursor r before after) (hp : r.placement = some p) (w : WriteSheet) :
    r.extendsSpan w = true ↔ Extends before p.spanOpen r.ctx.instruct w := by
  rw [ChanRow.extendsSpan, hp, h.cut, Extends]
  cases before.getLast? <;> simp [and_assoc]

theorem joined_addRecord {before after : List Span} {spanOpen instruct b : Bool} {w : WriteSheet}
    {spans : List Span} {cursor frames : Nat} (hc : cutAt spans cursor = (before, after))
    (hb : b = true ↔ Extends before spanOpen instruct w) :
    Joined before after spanOpen instruct w 1 frames
      (addRecord spans cursor w.sheet w.next frames instruct b) := by
  constructor
  · rintro first sp rfl he
    simp [addRecord, hc, hb.mpr he]
  · intro he
    have : b = false := by simpa [← hb] using he
    simp [addRecord, hc, this]

/-! ### The record that contains a position (R50, R51) -/

/-- Frames of the first n records from a slot on. -/
def framesBefore (table : List (Nat × RecordEntry)) (sheet slot n : Nat) : Nat :=
  ((List.range n).map fun i => slotFrames table sheet (slot + i)).sum

theorem framesBefore_succ (table : List (Nat × RecordEntry)) (sheet slot n : Nat) :
    framesBefore table sheet slot (n + 1) =
      slotFrames table sheet slot + framesBefore table sheet (slot + 1) n := by
  simp [framesBefore, List.range_succ_eq_map, Function.comp_def, Nat.add_assoc, Nat.add_comm 1]

/-- What locateIn finds: the record whose frames, counted from the base, take in the position. -/
theorem locateIn_eq_some {table : List (Nat × RecordEntry)} {sheet p : Nat} {q : PlayPlace} :
    ∀ {n slot base : Nat}, base ≤ p → (locateIn table sheet p slot base n = some q ↔
      ∃ j < n, base + framesBefore table sheet slot j ≤ p ∧
        p < base + framesBefore table sheet slot j + slotFrames table sheet (slot + j) ∧
        q = { sheet := sheet, slot := slot + j, start := base + framesBefore table sheet slot j,
              frames := slotFrames table sheet (slot + j), data := none })
  | 0, slot, base, _ => by simp [locateIn]
  | n + 1, slot, base, h => by
    rw [locateIn]
    by_cases hp : p < base + slotFrames table sheet slot
    · rw [if_pos hp]
      constructor
      · rintro ⟨⟩
        exact ⟨0, by omega, by simp [framesBefore, h], by simpa [framesBefore] using hp, by simp [framesBefore]⟩
      · rintro ⟨j, -, hj, -, rfl⟩
        cases j with
        | zero => simp [framesBefore]
        | succ j => rw [framesBefore_succ] at hj; omega
    · rw [if_neg hp, locateIn_eq_some (by omega)]
      constructor
      · rintro ⟨j, hj, ha, hb, rfl⟩
        refine ⟨j + 1, by omega, ?_, ?_, ?_⟩ <;> simp only [framesBefore_succ] <;>
          simp only [Nat.add_assoc, Nat.add_comm 1] at * <;> assumption
      · rintro ⟨j, hj, ha, hb, rfl⟩
        cases j with
        | zero => simp [framesBefore] at hb; omega
        | succ j =>
          rw [framesBefore_succ] at ha hb
          exact ⟨j, by omega, by omega, by simpa only [Nat.add_assoc, Nat.add_comm 1] using hb,
            by simp only [framesBefore_succ, Nat.add_assoc, Nat.add_comm 1]⟩

/-- A record of a span list: a slot of one of its spans, with the start its place gives it. -/
theorem locateFrom_eq_some {table : List (Nat × RecordEntry)} {p : Nat} {q : PlayPlace} :
    ∀ {spans : List Span} {base : Nat}, base ≤ p → (locateFrom table p base spans = some q ↔
      ∃ before sp after j, spans = before ++ sp :: after ∧ base + lengthOf before ≤ p ∧
        p < base + lengthOf before + sp.frames ∧ j < sp.count ∧
        base + lengthOf before + framesBefore table sp.sheet sp.first j ≤ p ∧
        p < base + lengthOf before + framesBefore table sp.sheet sp.first j +
          slotFrames table sp.sheet (sp.first + j) ∧
        q = { sheet := sp.sheet, slot := sp.first + j,
              start := base + lengthOf before + framesBefore table sp.sheet sp.first j,
              frames := slotFrames table sp.sheet (sp.first + j), data := none })
  | [], base, _ => by simp [locateFrom]
  | sp :: rest, base, h => by
    rw [locateFrom]
    by_cases hp : p < base + sp.frames
    · rw [if_pos hp, locateIn_eq_some h]
      constructor
      · rintro ⟨j, hj, ha, hb, rfl⟩
        exact ⟨[], sp, rest, j, rfl, by simpa [lengthOf] using h, by simpa [lengthOf] using hp, hj,
          by simpa [lengthOf] using ha, by simpa [lengthOf] using hb, by simp [lengthOf]⟩
      · rintro ⟨before, x, after, j, he, h1, h2, hj, ha, hb, rfl⟩
        cases before with
        | nil =>
          obtain ⟨rfl, rfl⟩ := List.cons.inj he
          exact ⟨j, hj, by simpa [lengthOf] using ha, by simpa [lengthOf] using hb, by simp [lengthOf]⟩
        | cons y ys =>
          obtain ⟨rfl, -⟩ := List.cons.inj he
          rw [lengthOf_cons] at h1
          omega
    · rw [if_neg hp, locateFrom_eq_some (by omega)]
      constructor
      · rintro ⟨before, x, after, j, rfl, h1, h2, hj, ha, hb, rfl⟩
        refine ⟨sp :: before, x, after, j, rfl, ?_, ?_, hj, ?_, ?_, ?_⟩ <;>
          simp only [lengthOf_cons, ← Nat.add_assoc] <;> assumption
      · rintro ⟨before, x, after, j, he, h1, h2, hj, ha, hb, rfl⟩
        cases before with
        | nil =>
          obtain ⟨rfl, -⟩ := List.cons.inj he
          simp [lengthOf] at h2
          omega
        | cons y ys =>
          obtain ⟨rfl, rfl⟩ := List.cons.inj he
          rw [lengthOf_cons] at h1 h2 ha hb
          exact ⟨ys, x, after, j, rfl, by omega, by omega, hj, by omega, by omega,
            by simp only [lengthOf_cons, Nat.add_assoc]⟩

/-- The record that locate finds is the one that contains the position, not read yet, and there is no other
(R50). -/
theorem locate_eq_some {table : List (Nat × RecordEntry)} {spans : List Span} {p : Nat} {q : PlayPlace} :
    locate table spans p = some q ↔ RecordHolds table spans p q ∧ q.data = none := by
  rw [locate, locateFrom_eq_some (Nat.zero_le p)]
  constructor
  · rintro ⟨before, sp, after, j, rfl, h1, h2, hj, ha, hb, rfl⟩
    simp only [Nat.zero_add] at *
    exact ⟨⟨⟨before, sp, after, j, rfl, h1, h2, hj, rfl, rfl, rfl⟩, rfl, ha, hb⟩, trivial⟩
  · rintro ⟨⟨⟨before, sp, after, j, rfl, h1, h2, hj, hs, hl, ht⟩, hf, ha, hb⟩, hd⟩
    obtain ⟨sheet, slot, start, frames, data⟩ := q
    simp only at *
    subst hs hl ht hf hd
    exact ⟨before, sp, after, j, rfl, by omega, by omega, hj, by simpa [framesBefore] using ha,
      by simpa [framesBefore] using hb, by simp [framesBefore]⟩

/-- Snapping below L: the start of the record that contains the position (R51). -/
theorem snap_of_holds {table : List (Nat × RecordEntry)} {spans : List Span} {p : Nat} {q : PlayPlace}
    (hp : p < lengthOf spans) (h : RecordHolds table spans p q) : snap table spans p = q.start := by
  have hl : locate table spans p = some { q with data := none } :=
    locate_eq_some.mpr ⟨⟨h.place, h.frames, h.holds⟩, rfl⟩
  simp [snap, Nat.not_le.mpr hp, hl]

theorem snap_of_end {table : List (Nat × RecordEntry)} {spans : List Span} {p : Nat}
    (hp : lengthOf spans ≤ p) : snap table spans p = lengthOf spans := by
  simp [snap, hp]

theorem snap_le {table : List (Nat × RecordEntry)} {spans : List Span} {p : Nat}
    (hp : p < lengthOf spans) : snap table spans p ≤ p := by
  rw [snap, if_neg (by omega)]
  cases h : locate table spans p with
  | none => simp
  | some q => simpa using (locate_eq_some.mp h).1.holds.1

/-! ### The sheet list (R55) -/

theorem mem_firstOnly {a : Nat} : ∀ {l : List Nat}, a ∈ firstOnly l ↔ a ∈ l
  | [] => by simp [firstOnly]
  | b :: l => by
    simp only [firstOnly, List.mem_cons, List.mem_filter, mem_firstOnly (l := l), bne_iff_ne]
    by_cases h : a = b <;> simp [h]

theorem idxOf_firstOnly : ∀ l : List Nat, ((firstOnly l).map l.idxOf).Pairwise (· < ·)
  | [] => by simp [firstOnly]
  | b :: l => by
    have ih := List.pairwise_map.mp (idxOf_firstOnly l)
    simp only [firstOnly, List.map_cons, List.pairwise_cons, List.pairwise_map, List.mem_map,
      List.mem_filter, bne_iff_ne]
    constructor
    · rintro _ ⟨a, ⟨-, ha⟩, rfl⟩
      simp [List.idxOf_cons_ne l (Ne.symm ha)]
    · refine (ih.filter _).imp_of_mem fun {x y} hx hy h => ?_
      simp only [List.mem_filter, bne_iff_ne] at hx hy
      rw [List.idxOf_cons_ne l (Ne.symm hx.2), List.idxOf_cons_ne l (Ne.symm hy.2)]
      omega

theorem firstReferences_sheetList (spans : List Span) : FirstReferences spans (sheetList spans) where
  all n := by simp [sheetList, mem_firstOnly]
  order := idxOf_firstOnly _

/-! ### The split of a span (R58) -/

theorem lengthOf_splitAt (table : List (Nat × RecordEntry)) :
    ∀ (spans : List Span) (p : Nat), lengthOf (splitAt table spans p) = lengthOf spans
  | [], _ => rfl
  | sp :: rest, p => by
    rw [splitAt]
    split
    · split
      · rw [lengthOf_append, lengthOf_cons]
        simp [splitSpan, lengthOf]
        omega
      · rfl
    · rw [lengthOf_cons, lengthOf_cons, lengthOf_splitAt table rest]

/-- After the split the position stands on a span boundary. -/
theorem insideSpan_splitAt (table : List (Nat × RecordEntry)) :
    ∀ (spans : List Span) (p : Nat), insideSpan (splitAt table spans p) p = false
  | [], _ => rfl
  | sp :: rest, p => by
    rw [splitAt]
    split
    · split
      · simp [splitSpan, insideSpan]
        omega
      · simp [insideSpan, *]
    · simp [insideSpan, *, insideSpan_splitAt table rest]

/-! ### The read-ahead of playback (R20) -/

theorem placesEnd_cons (p : Nat) (q : PlayPlace) (l : List PlayPlace) :
    placesEnd p (q :: l) = placesEnd (q.start + q.frames) l := by
  cases l with
  | nil => simp [placesEnd]
  | cons a l =>
    simp only [placesEnd, List.getLast?_cons_cons]
    rw [List.getLast?_eq_some_getLast (List.cons_ne_nil a l)]

theorem askPosition_append {r : ChanRow} {q : PlayPlace} {l : List PlayPlace} :
    ({ r with ahead := l ++ [q] } : ChanRow).askPosition = q.start + q.frames := by
  simp [ChanRow.askPosition]

/-- What asking for records leaves: the places asked for behind those that stood, their reads handed over, and
nothing else changed (R20). -/
theorem askPlayback_asks (c : Chan) : ∀ (n : Nat) (s : State), 4 ≤ (s.row c).ahead.length + n →
    ∃ more, AsksFrom s.letters.records (s.row c).spanList (s.row c).askPosition (s.row c).ahead more ∧
      (State.askPlayback c n s).row c = { s.row c with ahead := (s.row c).ahead ++ more } ∧
      OtherRows c s (State.askPlayback c n s) ∧
      HandedOver s (State.askPlayback c n s) (playReads s.setup c more) ∧
      State.askPlayback c n s = { s with
        chans := (State.askPlayback c n s).chans, engine := (State.askPlayback c n s).engine } := by
  intro n
  induction n with
  | zero =>
    intro s h
    refine ⟨[], ⟨trivial, by simp, by simp, fun hl => ?_⟩, ?_⟩
    · simp at hl; omega
    · simp [State.askPlayback, OtherRows, HandedOver, playReads]
  | succ n ih =>
    intro s h
    rw [State.askPlayback]
    split
    · rename_i hw
      split
      · rename_i q hq
        obtain ⟨hh, hd⟩ := locate_eq_some.mp hq
        obtain ⟨more, ha, hr, ho, he, ht⟩ := ih ((s.modRow c fun r => { r with ahead := r.ahead ++ [q] }).sendRead
          (.channel c) (.playbackRead true) (sheetSlotAddress s.setup q.sheet q.slot)) (by simp; omega)
        refine ⟨q :: more, ⟨⟨hh, ?_⟩, ?_, ?_, ?_⟩, ?_, ?_, ?_, ?_⟩
        · simpa [askPosition_append, ChanRow.spanList] using ha.follow
        · simpa [hd] using ha.unread
        · intro _
          have := ha.most
          simp at this ⊢
          by_cases hm : more = []
          · subst hm; simp; have := hw.1; simp [Config.readAheadLimit] at this; omega
          · have := this hm; omega
        · have := ha.all
          rw [placesEnd_cons]
          simpa [askPosition_append, ChanRow.spanList, Nat.add_assoc, Nat.add_comm 1] using this
        · rw [hr]; simp
        · intro d hd'
          rw [ho d hd']; simp [row_modRow_ne hd']
        · rw [HandedOver, he]
          simp [State.sendRead, State.handOver, playReads, readOf, sheetSlotAddress, hostAddress]
          rfl
        · rw [ht]; rfl
      · rename_i hq
        refine ⟨[], ⟨trivial, by simp, by simp, fun _ _ q hh => ?_⟩, by simp [OtherRows, HandedOver, playReads]⟩
        have := locate_eq_some (q := { q with data := none }).mpr ⟨⟨hh.place, hh.frames, hh.holds⟩, rfl⟩
        rw [show placesEnd (s.row c).askPosition [] = (s.row c).askPosition from rfl, hq] at this
        cases this
    · rename_i hw
      refine ⟨[], ⟨trivial, by simp, by simp, fun hl hp => ?_⟩, by simp [OtherRows, HandedOver, playReads]⟩
      exact absurd ⟨by simpa [Config.readAheadLimit] using hl, hp⟩ hw
end Sys2Proof.Machine
end

