-- ==== Sys2Proof/Laws/Tame.lean ====
section
/-! SUPPORT. What the shared operations leave alone. `Tame s t` says that `t` comes from `s` by work inside
the blocks: the command queue, the registers, host memory, the MSIs, the frames being sent are unchanged,
no queue grows past its bound, and the laws of Safety.lean carry over. Each shared operation has one lemma
here, in the form `Tame s t → Tame s (operation t)`, so that a meaning is taken apart by applying them. -/

namespace Sys2Proof.Machine

open Sys2Proof

structure Tame (s t : State) : Prop where
  pending : t.pending = s.pending
  regs : t.regs = s.regs
  written : t.written = s.written
  msi : t.msi = s.msi
  shown : t.outputs.map (fun o => (o.samples, o.word)) = s.outputs.map (fun o => (o.samples, o.word))
  keys : ∀ c, (t.row c).ctx.keys.length ≤ (s.row c).ctx.keys.length
  queues : QueuesBounded s → QueuesBounded t
  owners : OwnersAgree s → OwnersAgree t
  canonical : Canonical s → Canonical t

variable {s t : State} {c : Chan}

theorem Tame.refl : Tame s s :=
  ⟨rfl, rfl, rfl, rfl, rfl, fun _ => Nat.le_refl _, id, id, id⟩

theorem Tame.trans {u : State} (h : Tame s t) (g : Tame t u) : Tame s u :=
  ⟨g.pending.trans h.pending, g.regs.trans h.regs, g.written.trans h.written, g.msi.trans h.msi,
    g.shown.trans h.shown, fun c => (g.keys c).trans (h.keys c), g.queues ∘ h.queues, g.owners ∘ h.owners,
    g.canonical ∘ h.canonical⟩

/-! ### Updates of single fields -/

theorem Tame.setup {x : Setup} (h : Tame s t) : Tame s { t with setup := x } :=
  h.trans ⟨rfl, rfl, rfl, rfl, rfl, fun _ => Nat.le_refl _, id, fun h => ⟨h.1, h.2⟩,
    fun h => ⟨h.1, h.2, h.3, h.4, h.5, h.6⟩⟩

theorem Tame.sweep {x : StartSweep} (h : Tame s t) : Tame s { t with sweep := x } :=
  h.trans ⟨rfl, rfl, rfl, rfl, rfl, fun _ => Nat.le_refl _, id, fun h => ⟨h.1, h.2⟩,
    fun h => ⟨h.1, h.2, h.3, h.4, h.5, h.6⟩⟩

theorem Tame.codec {x : CodecUnit} (h : Tame s t) : Tame s { t with codec := x } :=
  h.trans ⟨rfl, rfl, rfl, rfl, rfl, fun _ => Nat.le_refl _, id, fun h => ⟨h.1, h.2⟩,
    fun h => ⟨h.1, h.2, h.3, h.4, h.5, h.6⟩⟩

theorem Tame.sheets {x : SheetManager} (h : Tame s t) : Tame s { t with sheets := x } :=
  h.trans ⟨rfl, rfl, rfl, rfl, rfl, fun _ => Nat.le_refl _, id, fun h => ⟨h.1, h.2⟩,
    fun h => ⟨h.1, h.2, h.3, h.4, h.5, h.6⟩⟩

theorem Tame.orders {x : OrderUnit} (h : Tame s t) : Tame s { t with orders := x } :=
  h.trans ⟨rfl, rfl, rfl, rfl, rfl, fun _ => Nat.le_refl _, id, fun h => ⟨h.1, h.2⟩,
    fun h => ⟨h.1, h.2, h.3, h.4, h.5, h.6⟩⟩

theorem Tame.render {x : Option RenderContext} (h : Tame s t) : Tame s { t with render := x } :=
  h.trans ⟨rfl, rfl, rfl, rfl, rfl, fun _ => Nat.le_refl _, id, fun h => ⟨h.1, h.2⟩,
    fun h => ⟨h.1, h.2, h.3, h.4, h.5, h.6⟩⟩

theorem Tame.desk {x : DeskUnit} (h : Tame s t) : Tame s { t with desk := x } :=
  h.trans ⟨rfl, rfl, rfl, rfl, rfl, fun _ => Nat.le_refl _, id, fun h => ⟨h.1, h.2⟩,
    fun h => ⟨h.1, h.2, h.3, h.4, h.5, h.6⟩⟩

theorem Tame.engine {x : Engine} (h : Tame s t) : Tame s { t with engine := x } :=
  h.trans ⟨rfl, rfl, rfl, rfl, rfl, fun _ => Nat.le_refl _, id, fun h => ⟨h.1, h.2⟩,
    fun h => ⟨h.1, h.2, h.3, h.4, h.5, h.6⟩⟩

theorem Tame.stackReturned {x : Bool} (h : Tame s t) : Tame s { t with stackReturned := x } :=
  h.trans ⟨rfl, rfl, rfl, rfl, rfl, fun _ => Nat.le_refl _, id, fun h => ⟨h.1, h.2⟩,
    fun h => ⟨h.1, h.2, h.3, h.4, h.5, h.6⟩⟩

/-- The card unit's fields but for holdings and images. -/
theorem Tame.cards {x : CardUnit} (h : Tame s t) (hh : x.holdings = t.cards.holdings)
    (hi : x.images = t.cards.images) : Tame s { t with cards := x } :=
  h.trans ⟨rfl, rfl, rfl, rfl, rfl, fun _ => Nat.le_refl _, id, fun h => ⟨h.1, h.2⟩,
    fun h => ⟨h.1, h.2, h.3, h.4, hh ▸ h.5, hi ▸ h.6⟩⟩

theorem Tame.letters {x : LetterStore} (h : Tame s t)
    (hl : Table.wf t.letters.live → (∀ e ∈ t.letters.live, 0 < e.2) →
      Table.wf x.live ∧ ∀ e ∈ x.live, 0 < e.2)
    (hr : Table.wf t.letters.records → Table.wf x.records) : Tame s { t with letters := x } :=
  h.trans ⟨rfl, rfl, rfl, rfl, rfl, fun _ => Nat.le_refl _, id, fun h => ⟨h.1, h.2⟩,
    fun h => ⟨h.1, (hl h.2 h.3).1, (hl h.2 h.3).2, hr h.4, h.5, h.6⟩⟩

/-! ### Rows -/

/-- A row changes, keeping its timeslots, its key queue no longer, its write queue within its bound. -/
theorem Tame.setRow {r : ChanRow} (h : Tame s t)
    (hk : r.ctx.keys.length ≤ (t.row c).ctx.keys.length)
    (hq : (t.row c).queue.length ≤ Config.writeQueueLimit → r.queue.length ≤ Config.writeQueueLimit)
    (hi : r.ctx.inSlot = (t.row c).ctx.inSlot) (ho : r.ctx.outSlot = (t.row c).ctx.outSlot) :
    Tame s (t.setRow c r) := by
  refine h.trans ⟨rfl, rfl, rfl, rfl, rfl, fun d => ?_, fun q d => ?_, fun o => ⟨fun d k => ?_, fun d k => ?_⟩,
    fun k => ⟨k.1, k.2, k.3, k.4, k.5, k.6⟩⟩
  · rw [row_setRow]; split
    · subst d; exact hk
    · exact Nat.le_refl _
  · rw [row_setRow]; split
    · subst d; exact hq (q c)
    · exact q d
  · rw [row_setRow]; split
    · subst d; rw [hi]; exact o.input c k
    · exact o.input d k
  · rw [row_setRow]; split
    · subst d; rw [ho]; exact o.output c k
    · exact o.output d k

theorem Tame.modRow {f : ChanRow → ChanRow} (h : Tame s t)
    (hk : (f (t.row c)).ctx.keys.length ≤ (t.row c).ctx.keys.length)
    (hq : (t.row c).queue.length ≤ Config.writeQueueLimit →
      (f (t.row c)).queue.length ≤ Config.writeQueueLimit)
    (hi : (f (t.row c)).ctx.inSlot = (t.row c).ctx.inSlot)
    (ho : (f (t.row c)).ctx.outSlot = (t.row c).ctx.outSlot) : Tame s (t.modRow c f) :=
  h.setRow hk hq hi ho

theorem Tame.modCtx {f : Context → Context} (h : Tame s t)
    (hk : (f (t.row c).ctx).keys.length ≤ (t.row c).ctx.keys.length)
    (hi : (f (t.row c).ctx).inSlot = (t.row c).ctx.inSlot)
    (ho : (f (t.row c).ctx).outSlot = (t.row c).ctx.outSlot) : Tame s (t.modCtx c f) :=
  h.setRow hk id hi ho

theorem Tame.raise {n : Notice} (h : Tame s t) : Tame s (t.raise c n) :=
  h.modCtx (Nat.le_refl _) rfl rfl

theorem Tame.setChanState {x : ChanState} (h : Tame s t) : Tame s (t.setChanState c x) :=
  h.modCtx (Nat.le_refl _) rfl rfl

theorem Tame.setOp {x : Option CardOp} (h : Tame s t) : Tame s (t.setOp c x) :=
  h.modRow (Nat.le_refl _) id rfl rfl

theorem Tame.setStage {x : OpStage} (h : Tame s t) : Tame s (t.setStage c x) :=
  h.modRow (Nat.le_refl _) id rfl rfl

/-! ### Accesses -/

theorem Tame.handOver {a : Access} (h : Tame s t) : Tame s (t.handOver a) := h.engine
theorem Tame.sendRead {w : Requester} {p : Purpose} {n : Nat} (h : Tame s t) :
    Tame s (t.sendRead w p n) := h.engine
theorem Tame.sendWrite {w : Requester} {p : Purpose} {n : Nat} {b : List Byte} (h : Tame s t) :
    Tame s (t.sendWrite w p n b) := h.engine
theorem Tame.sendMapEntry {w : Requester} {p : Purpose} {n m k : Nat} (h : Tame s t) :
    Tame s (t.sendMapEntry w p n m k) := h.engine
theorem Tame.abandon {k : Purpose → Bool} (h : Tame s t) : Tame s (t.abandon k) := h.engine
theorem Tame.landed {l : List Access} (h : Tame s t) : Tame s (t.landed l) := h.engine

theorem Tame.report (h : Tame s t) : Tame s (s.report t) := by
  unfold State.report; split
  · exact h
  · exact h.desk

theorem Tame.requestDesk (h : Tame s t) : Tame s t.requestDesk := by
  unfold State.requestDesk; split
  · split <;> exact h.desk
  · exact h

theorem Tame.reportFinish (h : Tame s t) : Tame s t.reportFinish := by
  simp only [State.reportFinish]; split
  · exact h.desk.requestDesk
  · exact h.desk

theorem Tame.reportFiling {p : Priority} (h : Tame s t) : Tame s (t.reportFiling p) := by
  simp only [State.reportFiling]; split
  · exact h.desk.requestDesk
  · exact h.desk

theorem Tame.finishBy {w : Requester} {o : OrderSlot} {n m k : Nat} (h : Tame s t) :
    Tame s (t.finishBy w o n m k) := h.orders.engine
theorem Tame.finish {o : OrderSlot} {n m k : Nat} (h : Tame s t) : Tame s (t.finish o n m k) :=
  h.finishBy
theorem Tame.accept {o : OrderSlot} {x : Accepted} (h : Tame s t) : Tame s (t.accept o x) :=
  h.orders.engine
theorem Tame.writeCard {n : Nat} {k : Card} {e : CardWrite} (h : Tame s t) :
    Tame s (t.writeCard n k e) := h.engine.engine.engine

theorem Tame.setImage {n : Nat} {k : Card} (h : Tame s t) : Tame s (t.setImage n k) :=
  h.trans ⟨rfl, rfl, rfl, rfl, rfl, fun _ => Nat.le_refl _, id, fun h => ⟨h.1, h.2⟩,
    fun h => ⟨h.1, h.2, h.3, h.4, h.5, wf_put h.6⟩⟩

theorem Tame.setHolding {n : Nat} {x : Holding} (h : Tame s t) : Tame s (t.setHolding n x) :=
  h.trans ⟨rfl, rfl, rfl, rfl, rfl, fun _ => Nat.le_refl _, id, fun h => ⟨h.1, h.2⟩,
    fun h => ⟨h.1, h.2, h.3, h.4, wf_put h.5, h.6⟩⟩

theorem Tame.endHolding {n : Nat} (h : Tame s t) : Tame s (t.endHolding n) :=
  h.trans ⟨rfl, rfl, rfl, rfl, rfl, fun _ => Nat.le_refl _, id, fun h => ⟨h.1, h.2⟩,
    fun h => ⟨h.1, h.2, h.3, h.4, wf_erase h.5, wf_erase h.6⟩⟩

/-! ### Sheet manager -/

theorem Tame.evaluateHold (h : Tame s t) : Tame s t.evaluateHold := by
  simp only [State.evaluateHold]; split
  · exact h.sheets
  · split
    · exact h.sheets
    · exact h

theorem Tame.scanEvent {b : Bool} (h : Tame s t) : Tame s (t.scanEvent b) := by
  unfold State.scanEvent; split
  · split
    · exact h.sheets
    · exact h
  · split
    · exact h.sheets
    · exact h

theorem Tame.raiseTally {n : Nat} (h : Tame s t) : Tame s (t.raiseTally n) := h.sheets.evaluateHold

theorem Tame.freeSheet {w : Requester} {n : Nat} (h : Tame s t) : Tame s (t.freeSheet w n) :=
  h.sendMapEntry.raiseTally.scanEvent

theorem Tame.freeClosed {w : Requester} {n : Nat} (h : Tame s t) : Tame s (t.freeClosed w n) := by
  unfold State.freeClosed; split
  · exact h.sheets
  · exact h.freeSheet

theorem Tame.freeDead {n : Nat} (h : Tame s t) : Tame s (t.freeDead n) := h.freeClosed

theorem Tame.popStack (h : Tame s t) : Tame s t.popStack := h.sheets.evaluateHold.scanEvent

theorem Tame.requestSheet {q : SheetRequest} (h : Tame s t) : Tame s (t.requestSheet q).2 := by
  unfold State.requestSheet; split
  · split
    · exact h.popStack
    · exact h.sheets
  · split
    · exact h.sheets
    · exact h

theorem Tame.withdrawRequest {q : SheetRequest} (h : Tame s t) : Tame s (t.withdrawRequest q) := h.sheets

theorem Tame.closeSheet {w : WriteSheet} (h : Tame s t) : Tame s (t.closeSheet c w) := h.sendWrite

theorem Tame.giveSheet {n : Nat} (h : Tame s t) : Tame s (t.giveSheet c n) := by
  unfold State.giveSheet
  refine h.sendMapEntry.modRow ?_ ?_ ?_ ?_ <;> (split <;> simp)

/-! ### Takes -/

theorem Tame.removeRecord (h : Tame s t) : Tame s (t.removeRecord c) := by
  simp only [State.removeRecord]; split
  · exact h
  · have hl : ∀ n m, Tame s { t with letters := {
        live := Count.set t.letters.live n m,
        records := Table.erase t.letters.records (recordKey n ‹Span›.first) } } := fun n m =>
      h.letters (fun a b => ⟨wf_count a, pos_count b⟩) fun a => wf_erase a
    split
    · refine Tame.freeDead ?_
      refine Tame.letters ?_ (fun a b => ⟨a, b⟩) fun a => wf_filter a
      exact (hl _ _).modRow (Nat.le_refl _) id rfl rfl
    · exact (hl _ _).modRow (Nat.le_refl _) id rfl rfl

theorem Tame.overwrite {n : Nat} (h : Tame s t) : Tame s (State.overwrite c n t) := by
  induction n generalizing t with
  | zero => exact h
  | succ n ih =>
    simp only [State.overwrite]; split
    · split
      · exact ih h.removeRecord
      · exact h
    · exact h

theorem length_makeReady {rec : Rec} {a b d : Nat} {q : List QueueEntry} :
    (makeReady rec a b d q).length = q.length := by
  induction q with
  | nil => rfl
  | cons e rest ih => cases e <;> simp [makeReady, ih]

theorem length_dropWaiting {q : List QueueEntry} : (dropWaiting q).length ≤ q.length := by
  induction q with
  | nil => simp [dropWaiting]
  | cons e rest ih => cases e <;> simp [dropWaiting, ih]

theorem length_dropTied {q : List QueueEntry} : (dropTied q).length ≤ q.length := by
  induction q with
  | nil => simp [dropTied]
  | cons e rest ih =>
    rcases e with ⟨rec, tied⟩ | _ | _
    · cases tied <;> simp [dropTied]
    · simp [dropTied, ih]
    · simp [dropTied, ih]

theorem length_dropAllWaiting {q : List QueueEntry} : (dropAllWaiting q).length ≤ q.length :=
  List.length_filter_le _ _

theorem length_dropLostWaiting {q : List QueueEntry} : (dropLostWaiting q).length ≤ q.length :=
  List.length_filter_le _ _

theorem Tame.entered {n m k : Nat} {e : RecordEntry} (h : Tame s t) : Tame s { t with letters := {
    live := Count.set t.letters.live n m, records := Table.put t.letters.records k e } } :=
  h.letters (fun a b => ⟨wf_count a, pos_count b⟩) fun a => wf_put a

theorem Tame.placeInto {w : WriteSheet} {rec : Rec} {b : Bool} (h : Tame s t) :
    Tame s (t.placeInto c w rec b) := by
  unfold State.placeInto
  simp only
  refine Tame.overwrite ?_
  have key : Tame s ((t.modRow c fun r => { r with
      spans := some (addRecord r.spanList r.ctx.cursor w.sheet w.next rec.frames r.ctx.instruct b),
      ctx := { r.ctx with cursor := r.ctx.cursor + rec.frames },
      placement := r.placement.map fun p => { p with
        recorded := p.recorded + rec.frames, spanOpen := true,
        closing := if decide (t.chanState c = .recording) = true then p.closing
          else some { w with next := w.next + 1 } },
      sheet := if decide (t.chanState c = .recording) = true then some { w with next := w.next + 1 }
        else r.sheet,
      queue := makeReady rec w.card w.sheet w.next r.queue })) :=
    h.modRow (Nat.le_refl _) (by simp [length_makeReady]) rfl rfl
  split
  · exact Tame.closeSheet (Tame.sendWrite (Tame.entered key))
  · exact Tame.sendWrite (Tame.entered key)

theorem Tame.countLost {rec : Rec} {b : Bool} (h : Tame s t) : Tame s (t.countLost c rec b) := by
  unfold State.countLost; split
  · refine Tame.raise (h.modRow (Nat.le_refl _) (fun a => ?_) rfl rfl)
    simp only
    split
    · exact Nat.le_trans length_dropLostWaiting a
    · exact a
  · exact h

theorem Tame.placeHead {rec : Rec} (h : Tame s t) : Tame s (t.placeHead c rec).2 := by
  rcases hf : fitRecord (t.row c).length rec with _ | ⟨final, shortened⟩
  · simpa only [State.placeHead, hf] using h
  · rcases hu : (t.row c).usableTarget with _ | w
    · simp only [State.placeHead, hf, hu]
      split
      · exact h
      · split
        · exact h
        · have := Tame.requestSheet (q := .take c) h
          split <;> rename_i heq <;> rw [heq] at this
          · exact this
          · exact this
          · split
            · exact this.giveSheet.placeInto.countLost
            · exact this.giveSheet
    · simp only [State.placeHead, hf, hu]
      split
      · exact h
      · exact h.placeInto.countLost

theorem Tame.freeUnlive {n : Nat} (h : Tame s t) :
    Tame s (if t.live n = 0 then t.freeDead n else t) := by
  split
  · exact h.freeDead
  · exact h

theorem Tame.endTake {x : SubState} (h : Tame s t) : Tame s (t.endTake c x) := by
  rcases hs : (t.row c).sheet with _ | w
  · simp only [State.endTake, hs]
    refine Tame.modRow h ?_ ?_ ?_ ?_ <;> simp
  · simp only [State.endTake, hs]
    refine Tame.freeUnlive (Tame.modRow h ?_ ?_ ?_ ?_) <;> simp

theorem Tame.discardHead {rec : Rec} {n : Notice} (h : Tame s t) : Tame s (t.discardHead c rec n) := by
  unfold State.discardHead
  simp only
  have key : Tame s ((t.modRow c fun r => { r with
      queue := if rec.isLost then dropLostWaiting (dropWaiting r.queue) else dropWaiting r.queue,
      codec := { r.codec with lost := if rec.isLost then 0 else r.codec.lost } }).raise c n) := by
    refine Tame.raise (h.modRow (Nat.le_refl _) (fun a => ?_) rfl rfl)
    simp only
    split
    · exact (length_dropLostWaiting.trans length_dropWaiting).trans a
    · exact length_dropWaiting.trans a
  split
  · exact (key.modRow (Nat.le_refl _) (fun a => Nat.le_trans length_dropAllWaiting a) rfl rfl).endTake
  · exact key

theorem Tame.afterShortened (h : Tame s t) : Tame s (t.afterShortened c) := by
  unfold State.afterShortened
  simp only
  split
  · exact (h.raise.modRow (Nat.le_refl _) (fun a => Nat.le_trans length_dropTied a) rfl rfl).endTake
  · exact h.raise

theorem Tame.finishClosing (h : Tame s t) : Tame s (t.finishClosing c) := by
  unfold State.finishClosing
  simp only
  refine Tame.setStage ?_
  split
  · split
    · exact h.closeSheet
    · exact h
  · exact h

theorem Tame.loseFrames {n : Nat} (h : Tame s t) : Tame s (t.loseFrames c n) :=
  h.modRow (Nat.le_refl _) id rfl rfl

theorem Tame.handFlush {n : Nat} (h : Tame s t) : Tame s (t.handFlush c n) := by
  have hn : Tame s (t.modRow c fun r => { r with flush := none }) :=
    h.modRow (Nat.le_refl _) id rfl rfl
  unfold State.handFlush
  simp only
  split
  · rename_i hr
    refine hn.modRow (Nat.le_refl _) (fun _ => ?_) rfl rfl
    simp only [State.modRow, row_setRow_self, List.length_append, List.length_singleton]
    exact hr
  · exact hn.loseFrames

theorem Tame.settle {n : Nat} (h : Tame s t) : Tame s (State.settle c n t) := by
  induction n generalizing t with
  | zero => exact h
  | succ n ih =>
    simp only [State.settle]
    split
    · rename_i hc
      simp only [Bool.and_eq_true, decide_eq_true_eq] at hc
      refine ih (h.modRow (Nat.le_refl _) (fun _ => ?_) rfl rfl)
      simp only [List.length_append, List.length_singleton]
      exact hc.2
    · split
      · exact ih h.handFlush
      · rename_i rec _ _
        have hp := Tame.placeHead (c := c) (rec := rec) h
        split
        · rename_i heq; rw [heq] at hp; exact hp
        · rename_i heq; rw [heq] at hp; exact ih hp.discardHead
        · rename_i heq; rw [heq] at hp
          split
          · exact ih hp.afterShortened
          · exact ih hp
      · split
        · exact h.finishClosing
        · exact h

theorem Tame.settled (h : Tame s t) : Tame s (t.settled c) := h.settle

theorem Tame.offer {rec : Rec} {b : Bool} (h : Tame s t) : Tame s (t.offer c rec b) := by
  unfold State.offer
  simp only
  split
  · exact h.loseFrames.settled
  · rename_i hn
    refine Tame.settled (h.modRow (Nat.le_refl _) (fun _ => ?_) rfl rfl)
    simp only [List.length_append, List.length_singleton]
    omega

theorem Tame.offerAll {l : List Rec} {b : Bool} (h : Tame s t) : Tame s (t.offerAll c b l) := by
  induction l generalizing t b with
  | nil => exact h
  | cons r rest ih =>
    simp only [State.offerAll]; split
    · exact ih h.offer
    · exact h

theorem Tame.stopTake {x : SubState} (h : Tame s t) : Tame s (t.stopTake c x) := h.endTake.settled

theorem Tame.serveTake {n : Nat} (h : Tame s t) : Tame s (t.serveTake c n) := h.giveSheet.settled

theorem Tame.refuseTake (h : Tame s t) : Tame s (t.refuseTake c) := by
  unfold State.refuseTake
  simp only
  refine Tame.settled ?_
  have key : ∀ n, Tame s ((t.modRow c fun r => { r with
      queue := dropAllWaiting r.queue, codec := { r.codec with lost := n } }).raise c .storageOut) :=
    fun n => (h.modRow (Nat.le_refl _) (fun a => Nat.le_trans length_dropAllWaiting a) rfl rfl).raise
  split
  · exact (key _).endTake
  · exact key _

theorem Tame.startTake (h : Tame s t) : Tame s (t.startTake c) := by
  unfold State.startTake
  simp only
  split
  · exact h.raise
  · split
    · exact h.raise
    · split
      · exact h.raise
      · exact h.modRow (Nat.le_refl _) id rfl rfl

/-! ### Playback -/

theorem Tame.emptyAhead (h : Tame s t) : Tame s (t.emptyAhead c) := by
  unfold State.emptyAhead
  refine Tame.modRow (Tame.engine h) ?_ ?_ ?_ ?_ <;> simp

theorem Tame.askPlayback {n : Nat} (h : Tame s t) : Tame s (State.askPlayback c n t) := by
  induction n generalizing t with
  | zero => exact h
  | succ n ih =>
    simp only [State.askPlayback]; split
    · split
      · exact ih (Tame.sendRead (h.modRow (Nat.le_refl _) id rfl rfl))
      · exact h
    · exact h

theorem Tame.playFrom {p : Nat} (h : Tame s t) : Tame s (t.playFrom c p) :=
  Tame.askPlayback (h.emptyAhead.modCtx (Nat.le_refl _) rfl rfl)

theorem Tame.stopPlayback (h : Tame s t) : Tame s (t.stopPlayback c) := by
  unfold State.stopPlayback
  refine Tame.modCtx h.emptyAhead ?_ ?_ ?_ <;> simp

theorem Tame.endPlayback (h : Tame s t) : Tame s (t.endPlayback c) := by
  unfold State.endPlayback
  refine Tame.modCtx h.emptyAhead ?_ ?_ ?_ <;> simp

/-! ### Letters -/

theorem Tame.handOff (h : Tame s t) : Tame s (t.handOff c).2 := by
  have key : ∀ l p, Tame s { t with letters := {
      live := List.foldl (fun table n => Count.set table n 0) t.letters.live l,
      records := t.letters.records.filter p } } := fun l p =>
    h.letters (fun a b => ⟨wf_countFold a, pos_countFold b⟩) fun a => wf_filter a
  simp only [State.handOff]
  refine Tame.modRow (key _ _) ?_ ?_ ?_ ?_ <;> simp

theorem Tame.dropTake (h : Tame s t) : Tame s (t.dropTake c) := by
  unfold State.dropTake
  simp only
  refine Tame.modRow (Tame.withdrawRequest ?_) (Nat.le_refl _)
    (fun a => Nat.le_trans length_dropAllWaiting a) rfl rfl
  split
  · split
    · exact h.closeSheet
    · exact h
  · exact h

theorem Tame.discardLetter (h : Tame s t) : Tame s (t.discardLetter c) := by
  unfold State.discardLetter
  split
  · exact h
  · simp only
    refine Tame.raise (Tame.modRow (Tame.setHolding (Tame.handOff ?_)) (Nat.le_refl _) id rfl rfl)
    split
    · exact h.dropTake
    · exact h.emptyAhead
    · exact h

theorem Tame.openLetter {x : OpenCause} (h : Tame s t) : Tame s (t.openLetter c x) := by
  unfold State.openLetter; split
  · exact h.raise
  · exact (h.modRow (Nat.le_refl _) id rfl rfl).cards rfl rfl

theorem Tame.withdrawOpen (h : Tame s t) : Tame s (t.withdrawOpen c) := by
  unfold State.withdrawOpen; split
  · exact h
  · simp only
    have key : ∀ b : Bool, Tame s (if b then t.abandon (fun p => p == .searchRead) else t) := by
      intro b; split
      · exact h.abandon
      · exact h
    refine Tame.modRow ?_ (Nat.le_refl _) id rfl rfl
    split
    · exact Tame.endHolding (Tame.withdrawRequest ((key _).cards rfl rfl))
    · exact Tame.withdrawRequest ((key _).cards rfl rfl)

theorem Tame.suspend (h : Tame s t) : Tame s (t.suspend c) :=
  h.modRow (Nat.zero_le _) id rfl rfl

end Sys2Proof.Machine
end

