-- ==== Sys2Proof/Tests/Slice0.lean ====
section
/-! SUPPORT. Small tests: ill-formed commands refused, the manual's worked cases, single steps on small
states, and for every statement with hypotheses a state and operands that meet them. -/

namespace Sys2Proof.Tests

open Sys2Proof Sys2Proof.Machine

/- One test after another: each kernel evaluation waits for the theorems before it, and elaborated side by side
the waiting tests would each hold a thread and its stack. -/
set_option Elab.async false

/-! ### Small states -/

/-- A property of the next state of a step; false where the step stops. -/
def after (o : Host.Outcome State Fault Refusal) (p : State → Bool) : Bool :=
  match o with
  | .next t => p t
  | _ => false

/-- A setup record whose ten fields are valid. -/
def setup0 : Setup :=
  { poolBase := 0x100000, mapBase := 0x10000, cardBase := 0x20000, sheetCount := 64, cardCount := 16, low := 4,
    high := 8, pacing := 2, orderMark := 2, filingMark := 2 }

/-- A part in a state, its setup kept and the exchange area at 0x1000. -/
def inPart (part : PartState) : State :=
  { State.reset with
    regs := { Registers.reset with enable := true, intEnable := true, part := part }, setup := setup0,
    base := 0x1000 }

def run : State := inPart .running

/-- One access in flight. -/
def flying (a : Access) (s : State) : State := { s with engine := { s.engine with flight := [a] } }

/-- A 64-byte read in flight for a requester. -/
def reading (who : Requester) (purpose : Purpose) (s : State) : State := flying (readOf who purpose 0) s

/-- A write in flight for a requester. -/
def writing (who : Requester) (purpose : Purpose) (s : State) : State :=
  flying (writeOf who purpose 64 [7#8]) s

theorem running_unfaulted : PartState.running ≠ .faulted := by decide
theorem starting_unfaulted : PartState.starting ≠ .faulted := by decide

theorem due_flying (s : State) (a : Access) (hq : a.purpose.quiet = false) (hp : s.regs.part ≠ .faulted) :
    Due (flying a s) a.who a [] :=
  { next := by simp [flying, nextDue, hq], unfaulted := hp }

/-- The map line, card line or record bytes read: some first bytes, then zeros. -/
def padded (n : Nat) (bytes : List Byte) : List Byte := bytes ++ List.replicate (n - bytes.length) 0#8

/-- The letter of Take 1 of the worked edit sequence: ten records in sheet 40, the sixth a pause of 30
frames. -/
def span0 : Span := { sheet := 40, first := 1, count := 10, frames := 39, instruction := false }

def records0 : List (Nat × RecordEntry) :=
  (List.range 10).map fun i =>
    (5121 + i, if i = 5 then { frames := 30, kind := .pause } else { frames := 1, kind := .voice })

def card0 : Card :=
  { state := 1, writing := false, damaged := false, channel := 2, author := 9, priority := .routine,
    index := 39, spanCount := 0, length := 0, instructionFrames := 0, lostFrames := 0, clipped := 0,
    takes := 0, sequence := 0 }

/-- A channel bound on the timeslots of its own number, its line UP, in a state. -/
def bound (c : Chan) (state : ChanState) (s : State) : State :=
  let u : Timeslot := Fin.ofNat 64 c.val
  { s.setRow c { ChanRow.reset with ctx := { Context.reset with
      inSlot := some u, outSlot := some u, gain := 64, threshold := 100, hangover := 2, maxPause := 5,
      recover := 2, author := 9, state := state } } with
    inputs := s.inputs.set u { owner := some c, line := some .up, good := 2, assembly := none },
    outputs := s.outputs.set u { s.outputs[u] with owner := some c } }

/-- A channel with the letter of Take 1 on card 3, the cursor at 5. -/
def lettered (c : Chan) (state : ChanState) (s : State) : State :=
  let t := bound c state s
  { t.modRow c fun r => { r with
      spans := some [span0],
      ctx := { r.ctx with letter := some { card := 3, priority := .routine, takes := 1 }, cursor := 5 } } with
    letters := { live := [(40, 10)], records := records0 },
    cards := { t.cards with holdings := [(3, .held c)], images := [(3, card0)] } }

/-- A key at the head of a channel's queue. -/
def keyed (c : Chan) (code arg : Nat) (s : State) : State :=
  s.modCtx c fun x => { x with keys := [{ code := code, arg := arg }] }

/-- Channel 2 in READY, RECORDING, PLAYING or BUSY with the letter, or IDLE without one. -/
def idle2 : State := bound 2 .idle run
def ready2 : State := lettered 2 .ready run
def playing2 : State := (lettered 2 .playing run).modCtx 2 fun x => { x with playPos := some 7 }

/-- A take: APPEND, nothing recorded yet, the write sheet 41 at slot 1, nothing waiting. -/
def recording2 : State :=
  (lettered 2 .recording run).modRow 2 fun r => { r with
    ctx := { r.ctx with cursor := 39 },
    placement := some { mode := .append, recorded := 0, removed := 0, spanOpen := false, closing := none },
    sheet := some { sheet := 41, next := 1, card := 3, take := 1 } }

/-- The take with one record placed. -/
def recorded2 : State :=
  { recording2 with letters := { recording2.letters with live := [(40, 10), (41, 1)] } }.modRow 2 fun r =>
    { r with sheet := some { sheet := 41, next := 2, card := 3, take := 1 } }

/-- The sweep stands at slot 4, with this order in it. -/
def ordered (kind : Nat) (args : List Byte) (s : State) : State :=
  { s with orders := { s.orders with
      sweep := .acting 4,
      image := some ((List.replicate 32 (padded 64 [])).set 4
        (padded 64 (bytesOf 1 1 ++ bytesOf 1 kind ++ bytesOf 6 0 ++ args))) } }

theorem key_ready (code arg : Nat) : KeyAtHead (keyed 2 code arg ready2) 2 .ready code arg [] := by
  constructor <;> rfl

theorem key_idle (code arg : Nat) : KeyAtHead (keyed 2 code arg idle2) 2 .idle code arg [] := by
  constructor <;> rfl

theorem key_playing (code arg : Nat) : KeyAtHead (keyed 2 code arg playing2) 2 .playing code arg [] := by
  constructor <;> rfl

theorem key_recording (code arg : Nat) :
    KeyAtHead (keyed 2 code arg recording2) 2 .recording code arg [] := by
  constructor <;> rfl

theorem key_recorded (code arg : Nat) :
    KeyAtHead (keyed 2 code arg recorded2) 2 .recording code arg [] := by
  constructor <;> rfl

/-! ### Ill-formed commands are refused, one for each check -/

theorem test_softReset_needs_its_bit : Instr.WellFormed (.softReset 3#32) = false := by decide

theorem test_enableSet_needs_enable_alone :
    ([.enableSet 2#32, .enableSet 5#32] : List Instr).all (fun i => !i.WellFormed) = true := by decide

theorem test_enableClear_needs_enable_clear :
    ([.enableClear 1#32, .enableClear 4#32] : List Instr).all (fun i => !i.WellFormed) = true := by decide

theorem test_intEnableWrite_refuses_soft_reset : Instr.WellFormed (.intEnableWrite 6#32) = false := by decide

theorem test_short_lines_refused :
    (([.startCardReadComplete, .startMapReadComplete, .startSlotReadComplete, .orderCardReadComplete,
      .playbackReadComplete 0, .mapLineReadComplete, .cardSearchReadComplete, .reopenIndexReadComplete 0,
      .reopenRecordReadComplete 0, .reopenMapReadComplete 0, .renderIndexReadComplete,
      .renderRecordReadComplete] : List (List Byte → Instr)).all fun i =>
        !(i (padded 63 [])).WellFormed && (i (padded 64 [])).WellFormed) = true := by decide +kernel

theorem test_short_cards_refused :
    (([.setupReadComplete, .reopenCardReadComplete 0, .renderCardReadComplete] : List (List Byte → Instr)).all
      fun i => !(i (padded 64 [])).WellFormed && (i (padded 256 [])).WellFormed) = true := by decide +kernel

theorem test_sweep_needs_32_whole_slots :
    Instr.WellFormed (.sweepReadsComplete (List.replicate 31 (padded 64 []))) = false ∧
    Instr.WellFormed (.sweepReadsComplete (padded 63 [] :: List.replicate 31 (padded 64 []))) = false ∧
    Instr.WellFormed (.sweepReadsComplete (List.replicate 32 (padded 64 []))) = true := by decide +kernel

theorem test_input_frame_needs_120_samples :
    Instr.WellFormed (.inputFrame 0 (List.replicate 119 0#16) none) = false ∧
    Instr.WellFormed (.inputFrame 0 (List.replicate 120 0#16) none) = true := by decide +kernel

/-! ### Worked cases of the codec (2.2 to 2.9) -/

/-- The table of 2.2. -/
theorem test_gain_table :
    ([(20000, 128, 32767, true), (-20000, 128, -32768, true), (20000, 64, 20000, false), (1, 32, 1, false),
      (-1, 32, 0, false), (-3, 32, -1, false), (100, 96, 150, false), (-32768, 255, -32768, true),
      (16383, 128, 32766, false)] : List (Int × Nat × Int × Bool)).all
      (fun (x, g, y, clips) => gainSample g x == y && clipped g x == clips) = true := by decide +kernel

/-- The cases of 2.3. -/
theorem test_activity_cases :
    activity ((List.replicate 60 [(500 : Int), -500]).flatten) = 468 ∧
    activity (List.replicate 40 (3000 : Int) ++ List.replicate 80 0) = 937 ∧
    activity (List.replicate 120 (127 : Int)) = 119 ∧
    activity ((-32768 : Int) :: List.replicate 119 0) = 256 := by decide +kernel

/-- The first case of 2.4: H 2, P 5; one voice frame, eight silent ones, one voice frame. -/
theorem test_pause_run_that_reaches_P :
    let frame := fun loud : Bool => List.replicate 120 (if loud then (1000 : Int) else 0)
    ((([true] ++ List.replicate 8 false ++ [true]).foldl (fun (run, out) loud =>
        let (run', recs) := encodeFrame 64 100 2 5 run (frame loud)
        (run', out ++ [(run'.silent, run'.pending, recs.map fun r => (r.frames, r.isLost, match r with
          | .voice .. => true
          | .pause .. => false))])) (PauseRun.reset, [])).2 ==
      [(0, 0, [(1, false, true)]), (1, 0, [(1, false, true)]), (2, 0, [(1, false, true)]), (3, 1, []),
       (4, 2, []), (5, 3, []), (6, 4, []), (7, 0, [(5, false, false)]), (8, 0, []),
       (0, 0, [(1, false, true)])]) = true := by decide +kernel

/-- The table of R37 at its edges. -/
theorem test_scale_table :
    [0, 7, 8, 14, 15, 448, 449, 896, 897, 28672, 28673, 57344, 57345, 65535].map scaleFor =
      [0, 0, 1, 1, 2, 6, 7, 7, 8, 12, 13, 13, 14, 14] := by decide +kernel

/-- The three cases of 2.7. -/
theorem test_quantize_cases :
    quantize 7 1000 [1300, 1700, 950] = [2, 3, -5] ∧
    quantize 14 30000 [32767, -30000, -30000] = [0, -4, 0] ∧
    decodeFrom 14 30000 [0, -4, 0] = [30000, -32768, -32768] ∧
    quantize 0 0 [3, -2, -2, 5] = [3, -5, 0, 7] ∧
    decodeFrom 0 0 [3, -5, 0, 7] = [3, -2, -2, 5] := by decide +kernel

/-- The bytes given under R41. -/
theorem test_code_places : codeBytes [2, 3, -5] = [0x32#8, 0x0B#8] ∧ codeOf 11 = -5 := by decide +kernel

/-- Pause records of R41, and the count of 0 of R43. -/
theorem test_pause_bytes :
    (Rec.pause 40 false).bytes = padded 64 [0x0F#8, 40#8] ∧ (Rec.pause 3 true).bytes = padded 64 [0x1F#8, 3#8] ∧
    framesOf (padded 64 [0x0F#8, 0#8]) = 1 := by decide +kernel

/-! ### Worked cases of letters, keys and lines -/

/-- The example under R51: 3 voice records, a pause of 30 frames, 4 voice records. -/
theorem test_snap_example :
    let spans := [{ sheet := 40, first := 3, count := 8, frames := 37, instruction := false : Span }]
    [0, 2, 3, 17, 32, 33, 36, 37, 50].map (snap records0 spans) = [0, 2, 3, 3, 3, 33, 36, 37, 37] := by
  decide +kernel

/-- Take 2 of the worked edit sequence: the span is split inside at 5, and not at a span start. -/
theorem test_split_of_take_2 :
    splitAt records0 [span0] 5 =
      [{ span0 with count := 5, frames := 5 }, { span0 with first := 6, count := 5, frames := 34 }] ∧
    splitAt records0 [span0] 0 = [span0] ∧ insideSpan [span0] 5 = true ∧ insideSpan [span0] 39 = false := by
  decide +kernel

/-- Take 3, first removal: the pause of 30 frames goes whole. -/
theorem test_trim_of_take_3 :
    trimAt [{ span0 with sheet := 42, count := 1, frames := 1 }, { span0 with first := 6, count := 5, frames := 34 }] 1 30
      = [{ span0 with sheet := 42, count := 1, frames := 1 }, { span0 with first := 7, count := 4, frames := 4 }] := by
  decide +kernel

/-- The last sheet list of the worked edit sequence: 43, 42. -/
theorem test_sheet_list :
    sheetList [{ span0 with sheet := 43 }, { span0 with sheet := 42 }, { span0 with sheet := 43 }] = [43, 42] := by
  decide

/-- The table of R22. -/
theorem test_move_table : [1, 2, 3, 30, 255].map moveFrames = [66, 133, 200, 2000, 17000] := by decide

/-- The examples under R115, with a bad check and an unknown type. -/
theorem test_frames_present :
    framePresent (some 0x07030501#32) = true ∧ framePresent (some 0#32) = true ∧
    framePresent (some 0x06030501#32) = false ∧ framePresent (some 0x07000007#32) = false ∧
    framePresent none = false := by decide

/-- The worked case of 6.3, N 3: absent, present, present, absent, present, present, present. -/
theorem test_station_plugged_in :
    ([false, true, true, false, true, true, true].foldl (fun (line, good, out) present =>
        let (line', good') := lineAfter 3 line good present
        (line', good', out ++ [(line', good')])) (LineState.down, 0, [])).2.2 =
      [(.down, 0), (.settling, 1), (.settling, 2), (.down, 0), (.settling, 1), (.settling, 2), (.up, 3)] := by
  decide +kernel

/-- The worked case of 6.6: a lamp that blinks from boundary 0, at boundaries 15, 16 and 32. -/
theorem test_blink_phases :
    let lamp := fun n => (List.range (n + 1)).foldl (fun l _ => Lamp.advance l .blink) Lamp.reset
    [0, 15, 16, 31, 32].map (fun n => (lamp n).level) = [true, true, false, false, true] := by decide +kernel

/-- The panel word given at the end of 12.7. -/
theorem test_panel_word_example :
    let r := { ChanRow.reset with
      spans := some [{ span0 with frames := 1000 }],
      ctx := { Context.reset with
        state := .ready, insert := true, cursor := 790,
        letter := some { card := 3, priority := .routine, takes := 1 },
        lampReady := { mode := .on, count := 0 } } }
    panelWord r false = [0x02#8, 0x01#8, 0x00#8, 0x0B#8, 0x00#8, 0x0F#8, 0x00#8, 0x07#8] := by decide +kernel

/-! ### Worked cases of storage, renders and registers -/

/-- The table of R174: the bytes of a frame's writes by i modulo 4. -/
theorem test_buffer_write_lengths :
    (List.range 4).map (fun i => (bufferWrites 0x4000 i (List.replicate 240 0#8)).map fun w => w.2.length) =
      [[64, 64, 64, 48], [16, 64, 64, 64, 32], [32, 64, 64, 64, 16], [48, 64, 64, 64]] := by decide +kernel

/-- The two renders of the worked sequence of chapter 8: 65 speech positions, 70 of both kinds. -/
theorem test_render_selection :
    let spans : List Span :=
      [{ sheet := 50, first := 1, count := 4, frames := 43, instruction := false },
       { sheet := 51, first := 1, count := 5, frames := 5, instruction := true },
       { sheet := 50, first := 5, count := 6, frames := 25, instruction := false }]
    selectedFrames spans .speech 1 71 = 65 ∧ selectedFrames spans .both 1 71 = 70 ∧
    selectedFrames spans .instruction 10 15 = 0 := by decide +kernel

/-- The worked case of 11.3: what the start sweep writes to sheets 10 to 15. -/
theorem test_start_map_decisions :
    let kept := [0, 0, 2, 3, 0, 3, 0, 0, 0, 0, 0, 0, 0, 0, 0, 0]
    [(1, 0), (2, 3), (3, 5), (2, 8), (4, 2), (3, 40), (0, 0), (5, 0), (6, 1)].map
        (fun (st, card) => mapDecision setup0 kept st card) =
      [some (0, 0), some (4, 3), some (4, 5), some (0, 0), none, some (0, 0), none, none, none] := by
  decide +kernel

/-- R104, and the roll of the worked filing: the oldest of 16 goes. -/
theorem test_sequence_and_roll :
    nextSequence 4294967295 = 1 ∧ nextSequence 1041 = 1042 ∧
    (rollWith (List.replicate 16 { card := 1, sequence := 9, priority := .routine })
      { card := 12, sequence := 1042, priority := .urgent }).drop 15 =
        [{ card := 12, sequence := 1042, priority := .urgent }] := by decide +kernel

/-- R177: IDENT, and FAULT with SETUP_INVALID of field 4. -/
theorem test_register_reads :
    State.reset.readRegister 0 = 0x0D320001#32 ∧
    ({ run with regs := { run.regs with
      fault := { kind := .setupInvalid, area := .setup, field := 4 } } }).readRegister 0x0C = 0x00040103#32 ∧
    run.readRegister 4 = 3#32 ∧ run.readRegister 8 = 2#32 ∧ run.readRegister 0x18 = 0#32 := by decide +kernel

/-- No row of the table gives bits, so no word spells a command. -/
theorem test_no_word_spells_a_command : decodeTableWord 32 0 = none := rfl

/-! ### Witnesses: registers and the start sweep -/

theorem witness_StepRunsFrontCommand :
    ({ run with pending := [.sweepStart, .stackReturn] } : State).pending = .sweepStart :: [.stackReturn] ∧
    run.pending = [] := ⟨rfl, rfl⟩

theorem witness_ResetsRestoreEveryValue : softResetBit 4#32 = true ∧ softResetBit 7#32 = true := by decide

/-- Sheet 3 marked AUDIO by a write that reports nothing until the sheet manager's next read, and FILED after it by
the card unit: granted in this order (R170). -/
def audio3 : Access := mapWriteOf setup0 .sheetManager .mapWrite 3 2 7
def filed3 : Access := mapWriteOf setup0 .cardUnit (.filedWrite 2 true) 3 3 7
def remarked : State :=
  { run with
    engine := { run.engine with flight := [audio3, filed3] },
    written := Memory.write [] filed3.address [3#8, 7#8] }

/-- R170, R176: the FILED bytes of a completed write stand at a reset that cuts the AUDIO write granted before it. -/
theorem test_reset_keeps_a_completed_later_write :
    audio3.address = filed3.address ∧ nextDue .cardUnit remarked.engine.flight =
      some (filed3, [{ audio3 with later := [(filed3.address, 2)] }]) ∧
    after (exec .coldReset { remarked with engine := { remarked.engine with
      flight := [{ audio3 with later := [(filed3.address, 2)] }] } }) (fun t => t.written == remarked.written) ∧
    after (exec .coldReset remarked) (fun t => t.written == []) := by decide +kernel

/-- R170: the FILED write granted after a failed AUDIO write stands over it, and is lost only if it fails itself. -/
theorem test_failed_write_leaves_a_later_granted_one :
    after (exec (.accessFailure .sheetManager 0) remarked) (fun t =>
      t.written == remarked.written && t.engine.flight == [filed3]) ∧
    after (exec (.accessFailure .cardUnit 0) remarked) (fun t => t.written == []) := by decide +kernel

theorem witness_ControlWriteStoresItsBits :
    softResetBit 2#32 = false ∧
    (∀ s ∈ [State.reset, inPart .faulted, inPart .starting],
      ¬ (s.regs.part = .disabled ∧ s.regs.enable = false ∧ enableBit 2#32 = true) ∧
      ¬ (s.regs.part = .running ∧ s.regs.enable = true ∧ enableBit 2#32 = false)) := by decide +kernel

theorem witness_EnableBeginsStartSweep :
    State.reset.regs.part = .disabled ∧ State.reset.regs.enable = false ∧ softResetBit 3#32 = false ∧
    enableBit 3#32 = true := by decide

theorem witness_ExchangeAndReadOnlyWrites :
    State.reset.regs.part = .disabled ∧ (inPart .starting).regs.part ≠ .disabled ∧
    ({ run.regs.fault with field := 255 } : FaultRegister).field < 256 := by decide

/-- A part whose sweep stands in a state. -/
def sweeping (state : SweepState) (s : State) : State := { s with orders := { s.orders with sweep := state } }

theorem witness_SweepIsAskedAndReads :
    run.regs.part = .running ∧ run.orders.sweep = .idle ∧ (sweeping .reading run).orders.sweep ≠ .idle ∧
    (sweeping .reading run).regs.part = .running ∧ (inPart .quiescing).regs.part ≠ .running ∧
    (sweeping .requested run).regs.part = .running ∧ (sweeping .requested run).orders.sweep = .requested := by
  decide +kernel

theorem witness_DeskAckComparesLatest :
    (run.regs.part = .starting ∨ run.regs.part = .running ∨ run.regs.part = .quiescing) ∧
    0#32 = run.desk.latest ∧ 1#32 ≠ run.desk.latest ∧ run.regs.intEnable = true ∧
    ({ run with regs := { run.regs with intEnable := false } } : State).regs.intEnable = false ∧
    ¬ (State.reset.regs.part = .starting ∨ State.reset.regs.part = .running ∨
      State.reset.regs.part = .quiescing) := by decide

/-- The setup record as its bytes. -/
def setupBytes (p : Setup) : List Byte :=
  padded 256 (bytesOf 8 p.poolBase ++ bytesOf 8 p.mapBase ++ bytesOf 8 p.cardBase ++ bytesOf 4 p.sheetCount ++
    bytesOf 4 p.cardCount ++ bytesOf 4 p.low ++ bytesOf 4 p.high ++ bytesOf 4 p.pacing ++
    bytesOf 4 p.orderMark ++ bytesOf 4 p.filingMark)

/-- The start sweep in a phase. -/
def startingIn (phase : StartPhase) : State :=
  { inPart .starting with sweep := { StartSweep.reset with phase := phase, kept := [3] } }

theorem witness_SetupReadStartsOrFaults :
    Due (reading .startSweep (.setupRead true) (startingIn .setup)) .startSweep
      (readOf .startSweep (.setupRead true) 0) [] ∧
    setupFailure (setupOf (setupBytes setup0)) = none ∧
    setupFailure (setupOf (setupBytes { setup0 with sheetCount := 63, low := 0 })) = some 4 ∧
    setupFailure (setupOf (setupBytes { setup0 with filingMark := 17 })) = some 10 :=
  ⟨due_flying _ _ rfl (by decide), by decide +kernel⟩

theorem witness_StartSweepDecidesEachCard :
    (∀ n ∈ [0, 14, 15],
      (reading .startSweep .startCardRead (startingIn (.cards n))).sweep.phase = .cards n) ∧
    Due (reading .startSweep .startCardRead (startingIn (.cards 15))) .startSweep
      (readOf .startSweep .startCardRead 0) [] ∧
    (padded 64 [1#8, 1#8]).length = 64 ∧ byteAt (padded 64 [1#8, 1#8]) 0 = 1 ∧
    byteAt (padded 64 [2#8]) 0 ≠ 1 ∧ 14 + 1 < setup0.cardCount ∧ setup0.cardCount ≤ 15 + 1 :=
  ⟨by decide +kernel, due_flying _ _ rfl (by decide), by decide +kernel⟩

theorem witness_StartSweepDecidesEachMapLine :
    (∀ k ∈ [0, 1], (reading .startSweep .startMapRead (startingIn (.map k))).sweep.phase = .map k ∧
      32 * k < setup0.sheetCount) ∧
    Due (reading .startSweep .startMapRead (startingIn (.map 1))) .startSweep
      (readOf .startSweep .startMapRead 0) [] ∧
    32 * (0 + 1) < setup0.sheetCount ∧ setup0.sheetCount ≤ 32 * (1 + 1) :=
  ⟨by decide +kernel, due_flying _ _ rfl (by decide), by decide +kernel⟩

theorem witness_StartSweepAnswersAcceptedSlots :
    (∀ k : OrderSlot,
      (reading .startSweep .startSlotRead (startingIn (.slots k.val))).sweep.phase = .slots k.val) ∧
    (∀ n, Due (reading .startSweep .startSlotRead (startingIn (.slots n))) .startSweep
      (readOf .startSweep .startSlotRead 0) []) ∧
    byteAt (padded 64 [2#8]) 0 = 2 ∧ byteAt (padded 64 [1#8]) 0 ≠ 2 ∧
    (reading .startSweep .startSlotRead (startingIn (.slots 31))).engine.waiting = [] ∧
    (startingIn (.slots 31)).regs.part = .starting ∧ (startingIn (.slots 31)).desk.writing = false :=
  ⟨fun _ => rfl, fun _ => due_flying _ _ rfl starting_unfaulted, by decide +kernel⟩

/-! ### Witnesses: the talk highway -/

/-- A bound IDLE channel 2 whose line stands in a state with a good-frame count, by its recover count. -/
def lineAt (line : LineState) (good recover : Nat) : State :=
  let s := idle2.modCtx 2 fun x => { x with recover := recover }
  { s with inputs := s.inputs.set 2 { owner := some 2, line := some line, good := good, assembly := none } }

/-- Timeslot 2 with a frame in its assembly. -/
def assembled (s : State) : State :=
  { s with inputs := s.inputs.set 2 { s.inputs[(2 : Timeslot)] with
      assembly := some { samples := [], word := none } } }

theorem witness_InputFramesMoveTheLine :
    (∀ s ∈ [lineAt .down 0 1, lineAt .down 0 2, lineAt .settling 1 3, lineAt .settling 1 2, lineAt .up 2 2,
        recording2, playing2],
      s.regs.part ≠ .faulted ∧ s.regs.part ≠ .starting ∧ s.inputs[(2 : Timeslot)].assembly = none ∧
      s.inputs[(2 : Timeslot)].owner = some 2) ∧
    (lineAt .down 0 1).inputs[(2 : Timeslot)].line = some .down ∧
    (lineAt .settling 1 3).inputs[(2 : Timeslot)].line = some .settling ∧
    recording2.inputs[(2 : Timeslot)].line = some .up ∧ recording2.chanState 2 = .recording ∧
    playing2.inputs[(2 : Timeslot)].line = some .up ∧ playing2.chanState 2 = .playing ∧
    framePresent (some 0#32) = true ∧ framePresent none = false ∧
    ((lineAt .down 0 1).row 2).ctx.recover ≤ 1 ∧ 1 < ((lineAt .down 0 2).row 2).ctx.recover ∧
    1 + 1 < ((lineAt .settling 1 3).row 2).ctx.recover ∧
    ((lineAt .settling 1 2).row 2).ctx.recover ≤ 1 + 1 ∧ (lineAt .up 2 2).chanState 2 ≠ .recording ∧
    (lineAt .up 2 2).chanState 2 ≠ .playing ∧
    (assembled (lineAt .up 2 2)).inputs[(2 : Timeslot)].assembly ≠ none ∧
    (assembled (inPart .starting)).inputs[(2 : Timeslot)].assembly ≠ none ∧
    (inPart .starting).inputs[(2 : Timeslot)].assembly = none ∧
    (inPart .starting).inputs[(2 : Timeslot)].owner = none ∧
    (inPart .faulted).inputs[(2 : Timeslot)].assembly = none ∧ (inPart .faulted).regs.part = .faulted := by
  decide +kernel

/-- A bound channel whose queue holds so many keys. -/
def queued (n : Nat) (s : State) : State :=
  s.modCtx 2 fun x => { x with keys := List.replicate n { code := 3, arg := 0 } }

/-- The part in QUIESCING. -/
def stopping (s : State) : State := { s with regs := { s.regs with part := .quiescing } }

theorem witness_KeysJoinTheQueue :
    (∀ s ∈ [queued 0 idle2, queued 7 idle2, queued 8 idle2, lettered 2 (.busy .closing) run],
      s.regs.part = .running ∧ s.inputs[(2 : Timeslot)].assembly = none ∧
      s.inputs[(2 : Timeslot)].owner = some 2 ∧ s.inputs[(2 : Timeslot)].line = some .up ∧
      s.chanState 2 ≠ .recording) ∧
    framePresent (some 0x07030501#32) = true ∧ (0x07030501#32).toNat % 256 = 1 ∧
    (lettered 2 (.busy .closing) run).chanState 2 = .busy .closing ∧
    (queued 7 idle2).chanState 2 ≠ .unbound ∧ ((queued 7 idle2).row 2).ctx.keys.length < 8 ∧
    8 ≤ ((queued 8 idle2).row 2).ctx.keys.length ∧
    (∀ n ∈ [7, 8], (queued n recording2).inputs[(2 : Timeslot)].line = some .up ∧
      (queued n recording2).chanState 2 = .recording ∧
      ((queued n recording2).row 2).ctx.keys.length = n) ∧
    (∀ s ∈ [queued 8 idle2, recording2], let t := stopping s
      t.regs.part = .quiescing ∧ t.inputs[(2 : Timeslot)].assembly = none ∧
      t.inputs[(2 : Timeslot)].owner = some 2 ∧ t.inputs[(2 : Timeslot)].line = some .up) ∧
    (stopping (queued 8 idle2)).chanState 2 ≠ .recording := by decide +kernel

/-- The part with a tally and so many sheets in the stack. -/
def stocked (tally stack : Nat) (s : State) : State :=
  { s with sheets := { s.sheets with tally := tally, stack := (List.range stack).map (50 + ·) } }

/-- The take's write sheet stands at a slot. -/
def atSlot (n : Nat) : State :=
  recording2.modRow 2 fun r => { r with sheet := some { sheet := 41, next := n, card := 3, take := 1 } }

/-- 120 samples of +1000 and −1000 in turn. -/
def loud : List Sample := (List.replicate 60 [1000#16, -1000#16]).flatten

theorem witness_VoiceFrameIsPlaced_first :
    ∀ n ∈ [1, 127], ∃ w p,
      let s := atSlot n
      let r := s.row 2
      s.regs.part ≠ .faulted ∧ s.inputs[(2 : Timeslot)].assembly = none ∧
      s.inputs[(2 : Timeslot)].owner = some 2 ∧ s.inputs[(2 : Timeslot)].line = some .up ∧
      framePresent (some 0#32) = true ∧ (∀ v, some 0#32 = some v → v.toNat % 256 = 0) ∧
      r.ctx.state = .recording ∧ r.op = none ∧ r.queue = [] ∧ r.codec.pending = 0 ∧ r.codec.lost = 0 ∧
      r.placement = some p ∧ p.mode ≠ .overwrite ∧ p.spanOpen = false ∧ r.spanList.length < 1024 ∧
      r.sheet = some w ∧ w.next ≤ 127 ∧ r.length < 120000 ∧
      r.ctx.threshold ≤ (((loud.map BitVec.toInt).map (gainSample r.ctx.gain)).map Int.natAbs).sum / 128 := by
  intro n hn
  refine ⟨{ sheet := 41, next := n, card := 3, take := 1 },
    { mode := .append, recorded := 0, removed := 0, spanOpen := false, closing := none }, ?_⟩
  have hw : ∀ v, some 0#32 = some v → v.toNat % 256 = 0 := by rintro v ⟨rfl⟩; rfl
  fin_cases hn <;>
    exact ⟨by decide, rfl, rfl, rfl, by decide, hw, rfl, rfl, rfl, rfl, rfl, rfl, by decide, rfl,
      by decide +kernel, rfl, by decide, by decide +kernel, by decide +kernel⟩

/-- A take of channel 2 in a mode, on these spans with the cursor after the first of them, at a slot of sheet 41,
its queue holding so many READY records, its codec in a state. -/
def takeAt (mode : TakeMode) (next ready : Nat) (run : PauseRun) : State :=
  recording2.modRow 2 fun r => { r with
    spans := some [{ span0 with sheet := 41, first := 1, count := next - 1, frames := next - 1 }, span0],
    ctx := { r.ctx with cursor := next - 1 }, codec := run,
    placement := some { mode := mode, recorded := 5, removed := 5, spanOpen := true, closing := none },
    sheet := some { sheet := 41, next := next, card := 3, take := 1 },
    queue := (List.range ready).map fun i => .ready (.pause 1 false) 3 41 (i + 1) }

def take0 : Placement := { mode := .append, recorded := 5, removed := 5, spanOpen := true, closing := none }

theorem takeAt_heard (mode : TakeMode) (next ready : Nat) (run : PauseRun) :
    HeardInTake (takeAt mode next ready run) 2 2 (some 0#32) { take0 with mode := mode } :=
  { unfaulted := running_unfaulted, assembly := rfl, owner := rfl, line := rfl, present := by decide,
    keyless := (by rintro v ⟨rfl⟩; rfl), recording := rfl, op := rfl, placement := rfl }

/-- What the codec answers for a loud and a silent frame in a state. -/
def records (run : PauseRun) (loudFrame : Bool) : List (Nat × Bool) :=
  (encodeFrame 64 100 2 5 run ((if loudFrame then loud else zeroSamples).map BitVec.toInt)).2.map fun r =>
    (r.frames, r.isLost)

theorem witness_VoiceFrameIsPlaced :
    records { silent := 2, pending := 0, lost := 0 } false = [] ∧
    records { silent := 6, pending := 4, lost := 0 } false = [(5, false)] ∧
    records PauseRun.reset true = [(1, false)] ∧
    records { silent := 5, pending := 3, lost := 0 } true = [(3, false), (1, false)] ∧
    (∀ mode ∈ [TakeMode.append, .overwrite], ∀ next ∈ [2, 126, 127], ∀ ready ∈ [0, 2, 3, 4],
      let r := (takeAt mode next ready PauseRun.reset).row 2
      firstWaiting r.queue = none ∧ r.queue.length = ready ∧ r.length + 5 ≤ 120000 ∧
      AtCursor r [{ span0 with sheet := 41, first := 1, count := next - 1, frames := next - 1 }] [span0] ∧
      r.sheet = some { sheet := 41, next := next, card := 3, take := 1 } ∧
      Extends [{ span0 with sheet := 41, first := 1, count := next - 1, frames := next - 1 }] true
        r.ctx.instruct { sheet := 41, next := next, card := 3, take := 1 } ∧
      ¬ Extends [{ span0 with sheet := 41, first := 1, count := next - 1, frames := next - 1 }] true
        r.ctx.instruct { sheet := 41, next := 1, card := 3, take := 1 }) ∧
    TakeMode.append ≠ .overwrite ∧ 0 < span0.frames ∧ span0.first ≤ 127 ∧ span0.sheet ≠ 41 ∧
    slotFrames records0 span0.sheet span0.first = 1 ∧ take0.removed < take0.recorded + 1 ∧
    take0.recorded + 1 ≤ take0.removed + 1 ∧ recording2.live span0.sheet = 10 ∧
    (stocked 40 1 (takeAt .append 128 0 PauseRun.reset)).sheets.stack = [50] ∧
    (stocked 40 1 (takeAt .append 128 0 PauseRun.reset)).sheets.waiting = [] ∧
    ((takeAt .append 128 0 PauseRun.reset).row 2).ctx.letter =
      some { card := 3, priority := .routine, takes := 1 } ∧
    (∀ c : Chan, ((takeAt .overwrite 2 0 PauseRun.reset).row c).sheet.map WriteSheet.sheet ≠ some span0.sheet) := by
  refine ⟨by decide +kernel, by decide +kernel, by decide +kernel, by decide +kernel, ?_, by decide +kernel⟩
  intro mode hm next hn ready hr
  fin_cases hm <;> fin_cases hn <;> fin_cases hr <;>
    exact ⟨by decide, by decide, by decide, ⟨by decide, by decide, by decide⟩, rfl,
      ⟨rfl, _, rfl, by decide⟩, fun h => by obtain ⟨-, sp, h1, h2, h3, -⟩ := h; cases h1; revert h3; decide⟩

/-- Channel 2 PLAYING at a position, the record of a slot of sheet 40 in front of its read-ahead with its bytes or
not, output begun or not; its input frame of this frame has come. -/
def playingAt (p slot start frames : Nat) (data : Option (List Byte)) (began : Bool) : State :=
  let s := playing2.modRow 2 fun r => { r with
    began := began, ahead := [{ sheet := 40, slot := slot, start := start, frames := frames, data := data }],
    ctx := { r.ctx with playPos := some p } }
  { s with inputs := s.inputs.set 2 { s.inputs[(2 : Timeslot)] with
      assembly := some { samples := [], word := some 0#32 } } }

theorem witness_FrameBoundaryFillsOutputs :
    (inPart .faulted).regs.part = .faulted ∧ playing2.regs.part ≠ .faulted ∧
    playing2.outputs[(0 : Timeslot)].owner = none ∧ playing2.outputs[(2 : Timeslot)].owner = some 2 ∧
    ready2.outputs[(2 : Timeslot)].owner = some 2 ∧ ready2.chanState 2 ≠ .playing ∧
    (∀ s ∈ [playingAt 7 6 5 30 none true, playingAt 7 6 5 30 (some (padded 64 [0x0F#8, 30#8])) false,
        playingAt 33 6 5 30 (some (padded 64 [0x0F#8, 30#8])) true,
        playingAt 34 6 5 30 (some (padded 64 [0x0F#8, 30#8])) true,
        playingAt 38 10 38 1 (some (padded 64 [])) true],
      s.regs.part ≠ .faulted ∧ s.chanState 2 = .playing ∧ s.lineOf 2 = some .up ∧
      (∀ j : Timeslot, s.outputs[j].owner = some 2 ↔ j = 2) ∧
      (∀ j : Timeslot, s.inputs[j].owner ≠ none → s.inputs[j].assembly ≠ none) ∧ (s.row 2).length = 39) ∧
    (33 + 1 < 5 + 30 ∧ 5 + 30 ≤ 34 + 1 ∧ 34 + 1 ≠ 39) ∧ 38 + 1 ≤ 38 + 1 ∧ 38 + 1 = 39 := by decide +kernel

/-- Channel 2 IDLE with a frame received and a notice in a frame of its life. -/
def noticed (n : Nat) : State :=
  let s := idle2.modCtx 2 fun x => { x with transient := some (.filed, n) }
  { s with inputs := s.inputs.set 2 { s.inputs[(2 : Timeslot)] with
      assembly := some { samples := loud, word := some 0#32 } } }

theorem witness_PanelStepShowsAndLowersNotices :
    (∀ n ∈ [0, 1, 2, 32], (noticed n).regs.part ≠ .faulted ∧ (noticed n).regs.part ≠ .starting ∧
      (noticed n).chanState 2 ≠ .unbound ∧
      (∀ k : Timeslot, (noticed n).inputs[k].owner ≠ none → (noticed n).inputs[k].assembly ≠ none) ∧
      ((noticed n).row 2).ctx.transient = some (.filed, n)) ∧
    (idle2.row 2).ctx.transient = none := by decide +kernel

/-- The part with a pacing count, and with an expiry not yet acted on. -/
def paced (n : Nat) (expired changed : Bool) (s : State) : State :=
  { s with desk := { s.desk with pacing := n, expired := expired, changed := changed } }

theorem witness_PacingTimerExpires :
    (paced 0 false false run).desk.pacing + 1 < run.setup.pacing ∧
    run.setup.pacing ≤ (paced 1 false false run).desk.pacing + 1 ∧ run.regs.part = .running ∧
    (inPart .starting).regs.part ≠ .running ∧ (inPart .starting).regs.part ≠ .quiescing ∧
    run.desk.expired = false ∧ (paced 0 true true run).desk.expired = true ∧
    (paced 0 true true run).regs.part = .running ∧
    (paced 0 true true (inPart .quiescing)).regs.part = .quiescing ∧
    (paced 0 true true (inPart .quiescing)).sheets.scan = .idle ∧
    (stocked 0 7 (inPart .quiescing)).sheets.stack.length < 8 ∧
    8 ≤ (stocked 0 8 (inPart .quiescing)).sheets.stack.length ∧
    (∀ c : Chan, (inPart .quiescing).chanState c = .unbound) ∧
    (lettered 2 .ready (inPart .quiescing)).chanState 2 ≠ .unbound := by decide +kernel

/-! ### Witnesses: keys -/

theorem witness_RefusedKeysLeaveNotice :
    KeyAtHead (keyed 2 4 0 idle2) 2 .idle 4 0 [] ∧ KeyAtHead (keyed 2 5 0 ready2) 2 .ready 5 0 [] ∧
    KeyAtHead (keyed 2 6 0 playing2) 2 .playing 6 0 [] ∧
    KeyAtHead (keyed 2 9 1 recording2) 2 .recording 9 1 [] ∧ KeyAtHead (keyed 2 0 1 idle2) 2 .idle 0 1 [] ∧
    KeyAtHead (keyed 2 15 1 ready2) 2 .ready 15 1 [] :=
  ⟨key_idle .., key_ready .., key_playing .., key_recording .., key_idle .., key_ready ..⟩

/-- The take with frames in the pending pause, so many READY records in its queue, and a live record in its sheet. -/
def pausing (next ready : Nat) : State :=
  let s := takeAt .append next ready { silent := 4, pending := 3, lost := 0 }
  { s with letters := { s.letters with live := [(40, 10), (41, 1)] } }

theorem witness_KeysEndATake :
    KeyAtHead (keyed 2 3 0 recorded2) 2 .recording 3 0 [] ∧
    KeyAtHead (keyed 2 5 9 recorded2) 2 .recording 5 9 [] ∧
    ((keyed 2 3 0 recorded2).row 2).sheet = some { sheet := 41, next := 2, card := 3, take := 1 } ∧
    ((keyed 2 3 0 recorded2).row 2).queue = [] ∧ ((keyed 2 3 0 recorded2).row 2).codec.pending = 0 ∧
    ((keyed 2 3 0 recorded2).row 2).codec.lost = 0 ∧ (keyed 2 3 0 recorded2).live 41 ≠ 0 ∧
    ((keyed 2 3 0 recorded2).row 2).placement.isSome = true ∧
    (∀ next ready, KeyAtHead (keyed 2 3 0 (pausing next ready)) 2 .recording 3 0 []) ∧
    (∀ next ∈ [2, 127], ∀ ready ∈ [0, 3, 4], let r := (keyed 2 3 0 (pausing next ready)).row 2
      r.sheet = some { sheet := 41, next := next, card := 3, take := 1 } ∧ r.placement = some take0 ∧
      firstWaiting r.queue = none ∧ r.codec.lost = 0 ∧ 0 < r.codec.pending ∧ r.queue.length = ready ∧
      r.length + r.codec.pending ≤ 120000 ∧ (keyed 2 3 0 (pausing next ready)).live 41 ≠ 0) :=
  ⟨key_recorded .., key_recorded .., rfl, rfl, rfl, rfl, by decide +kernel, rfl,
    fun _ _ => ⟨rfl, rfl, rfl, rfl⟩, by decide +kernel⟩

theorem witness_ModeKeysSetFlags :
    KeyAtHead (keyed 2 9 1 playing2) 2 .playing 9 1 [] ∧
    KeyAtHead (keyed 2 10 1 recording2) 2 .recording 10 1 [] ∧
    KeyAtHead (keyed 2 11 1 ready2) 2 .ready 11 1 [] ∧ KeyAtHead (keyed 2 14 0 idle2) 2 .idle 14 0 [] :=
  ⟨key_playing .., key_recording .., key_ready .., key_idle ..⟩

theorem witness_MovesInReadySetTheCursor :
    KeyAtHead (keyed 2 5 1 ready2) 2 .ready 5 1 [] ∧ KeyAtHead (keyed 2 6 255 ready2) 2 .ready 6 255 [] ∧
    KeyAtHead (keyed 2 7 0 ready2) 2 .ready 7 0 [] ∧ KeyAtHead (keyed 2 8 0 ready2) 2 .ready 8 0 [] :=
  ⟨key_ready .., key_ready .., key_ready .., key_ready ..⟩

theorem witness_PlaybackBeginsMovesAndStops :
    KeyAtHead (keyed 2 4 0 ready2) 2 .ready 4 0 [] ∧
    ((keyed 2 4 0 ready2).row 2).ctx.cursor < ((keyed 2 4 0 ready2).row 2).length ∧
    KeyAtHead (keyed 2 4 0 playing2) 2 .playing 4 0 [] ∧ KeyAtHead (keyed 2 3 0 playing2) 2 .playing 3 0 [] ∧
    KeyAtHead (keyed 2 3 0 idle2) 2 .idle 3 0 [] ∧ KeyAtHead (keyed 2 5 1 playing2) 2 .playing 5 1 [] ∧
    KeyAtHead (keyed 2 6 255 playing2) 2 .playing 6 255 [] ∧ KeyAtHead (keyed 2 7 0 playing2) 2 .playing 7 0 [] ∧
    KeyAtHead (keyed 2 8 0 playing2) 2 .playing 8 0 [] ∧
    snap records0 [span0] 0 < lengthOf [span0] ∧ lengthOf [span0] ≤ snap records0 [span0] 39 :=
  ⟨key_ready .., by decide +kernel, key_playing .., key_playing .., key_idle .., key_playing ..,
    key_playing .., key_playing .., key_playing .., by decide +kernel, by decide +kernel⟩

/-- The part with the storage hold set. -/
def held (s : State) : State := { s with sheets := { s.sheets with hold := true } }

/-- Channel 2 READY with the cursor at a position and a span list. -/
def withSpans (spans : List Span) (cursor : Nat) : State :=
  ready2.modRow 2 fun r => { r with spans := some spans, ctx := { r.ctx with cursor := cursor } }

/-- 120,000 frames, and 1024 spans. -/
def fullLetter : List Span := List.replicate 4 { span0 with count := 127, frames := 30000 }
def fullList : List Span := List.replicate 1024 { span0 with count := 1, frames := 1 }

theorem witness_RecordStartsATake :
    KeyAtHead (keyed 2 2 0 recording2) 2 .recording 2 0 [] ∧ KeyAtHead (keyed 2 2 0 ready2) 2 .ready 2 0 [] ∧
    KeyAtHead (keyed 2 2 0 playing2) 2 .playing 2 0 [] ∧
    (keyed 2 2 0 (held ready2)).sheets.hold = true ∧
    KeyAtHead (keyed 2 2 0 (held ready2)) 2 .ready 2 0 [] ∧
    KeyAtHead (keyed 2 2 0 (held playing2)) 2 .playing 2 0 [] ∧
    (∀ l, KeyAtHead (keyed 2 2 0 (withSpans l 5)) 2 .ready 2 0 []) ∧
    (withSpans fullLetter 5).sheets.hold = false ∧ 120000 ≤ ((withSpans fullLetter 5).row 2).length ∧
    ((withSpans fullList 0).row 2).length < 120000 ∧
    1024 < ((withSpans fullList 0).row 2).spanList.length + 1 ∧
    (ready2.row 2).spanList.length + 2 ≤ 1024 ∧ (ready2.row 2).length < 120000 ∧
    (∀ p ∈ [(1, 1), (5, 5), (6, 35), (9, 38)], p.1 < span0.count ∧
      ((withSpans [span0] p.2).row 2).spanList = [] ++ span0 :: [] ∧
      (∀ i, i < p.1 → 0 < slotFrames (withSpans [span0] p.2).letters.records span0.sheet (span0.first + i)) ∧
      p.2 = lengthOf [] + ((List.range p.1).map fun i =>
        slotFrames (withSpans [span0] p.2).letters.records span0.sheet (span0.first + i)).sum ∧ p.2 < span0.frames) ∧
    ∀ p ∈ [0, 39], insideSpan ((withSpans [span0] p).row 2).spanList p = false :=
  ⟨key_recording .., key_ready .., key_playing .., rfl, ⟨rfl, rfl, rfl, rfl⟩, ⟨rfl, rfl, rfl, rfl⟩,
    fun _ => ⟨rfl, rfl, rfl, rfl⟩, rfl, by decide +kernel⟩

theorem witness_IdleKeysOpenALetter :
    KeyAtHead (keyed 2 1 0 idle2) 2 .idle 1 0 [] ∧ KeyAtHead (keyed 2 2 0 idle2) 2 .idle 2 0 [] ∧
    KeyAtHead (keyed 2 1 0 (held idle2)) 2 .idle 1 0 [] ∧ (held idle2).sheets.hold = true ∧
    idle2.sheets.hold = false :=
  ⟨key_idle .., key_idle .., ⟨rfl, rfl, rfl, rfl⟩, rfl, rfl⟩

theorem witness_FileKeysBeginFiling :
    KeyAtHead (keyed 2 1 0 ready2) 2 .ready 1 0 [] ∧ KeyAtHead (keyed 2 12 0 playing2) 2 .playing 12 0 [] ∧
    ((keyed 2 12 0 playing2).row 2).length ≠ 0 ∧ KeyAtHead (keyed 2 1 0 (held ready2)) 2 .ready 1 0 [] ∧
    (held ready2).sheets.hold = true ∧ ready2.sheets.hold = false ∧
    (∀ code, KeyAtHead (keyed 2 code 0 (withSpans [] 0)) 2 .ready code 0 []) ∧
    ((keyed 2 1 0 (withSpans [] 0)).row 2).length = 0 ∧ (withSpans [] 0).sheets.hold = false ∧
    ((keyed 2 1 0 (withSpans [] 0)).row 2).ctx.letter = some { card := 3, priority := .routine, takes := 1 } :=
  ⟨key_ready .., key_playing .., by decide +kernel, ⟨rfl, rfl, rfl, rfl⟩, rfl, rfl, fun _ => ⟨rfl, rfl, rfl, rfl⟩,
    rfl, rfl, rfl⟩

theorem witness_DiscardHandsTheLetterOver :
    KeyAtHead (keyed 2 13 0 ready2) 2 .ready 13 0 [] ∧
    KeyAtHead (keyed 2 13 0 playing2) 2 .playing 13 0 [] ∧
    (∀ n ∈ [1, 127, 128], KeyAtHead (keyed 2 13 0 (atSlot n)) 2 .recording 13 0 [] ∧
      ((keyed 2 13 0 (atSlot n)).row 2).sheet = some { sheet := 41, next := n, card := 3, take := 1 } ∧
      ((keyed 2 13 0 (atSlot n)).row 2).ctx.letter = some { card := 3, priority := .routine, takes := 1 }) ∧
    KeyAtHead (keyed 2 12 0 (withSpans [] 0)) 2 .ready 12 0 [] ∧
    ((keyed 2 13 0 ready2).row 2).ctx.letter = some { card := 3, priority := .routine, takes := 1 } ∧
    ((keyed 2 13 0 playing2).row 2).ctx.letter = some { card := 3, priority := .routine, takes := 1 } ∧
    ((keyed 2 12 0 (withSpans [] 0)).row 2).length = 0 :=
  ⟨key_ready .., key_playing .., fun _ _ => ⟨⟨rfl, rfl, rfl, rfl⟩, rfl, rfl⟩, ⟨rfl, rfl, rfl, rfl⟩, rfl, rfl, rfl⟩

/-! ### Witnesses: the order book -/

/-- The 32 slots read, these of them POSTED. -/
def slotsRead (posted : List Nat) : List (List Byte) :=
  (List.range 32).map fun j => padded 64 [if j ∈ posted then 1#8 else 0#8]

theorem witness_SweepTakesPostedSlots :
    Due (reading .orderUnit (.slotRead true) (sweeping .reading run)) .orderUnit
      (readOf .orderUnit (.slotRead true) 0) [] ∧
    (∀ j : OrderSlot, byteAt ((slotsRead [0]).getD j.val []) 0 = 1 ↔ j = 0) ∧
    (∀ j : OrderSlot, byteAt ((slotsRead [31]).getD j.val []) 0 = 1 ↔ j = 31) ∧
    (∀ j : OrderSlot, byteAt ((slotsRead []).getD j.val []) 0 ≠ 1) ∧
    run.orders.finishedSet = [] ∧ (∀ j : OrderSlot, run.orders.accepted[j] = none) ∧
    OrderAt (ordered 0 [] run) 4 0 ∧ OrderAt (ordered 9 [] run) 4 9 :=
  ⟨due_flying _ _ rfl (by decide), by decide +kernel, by decide +kernel, by decide +kernel, rfl,
    by decide +kernel, ⟨rfl, rfl, rfl⟩, ⟨rfl, rfl, rfl⟩⟩

/-- Channel 2 IDLE with an open request, its search running or a card taken. -/
def asking (card : Option Nat) : State :=
  let s := idle2.modRow 2 fun r => { r with
    op := some (.opening card), ctx := { r.ctx with openRequest := some .new } }
  { s with cards := { s.cards with
      search := if card = none then some { channel := 2, examined := 3 } else none,
      holdings := (card.map fun n => (n, .opening 2)).toList } }

/-- The arguments of a STATION SETUP. -/
def setupArgs (channel input output threshold hangover maxPause recover priority : Nat) : List Byte :=
  bytesOf 1 channel ++ bytesOf 1 input ++ bytesOf 1 output ++ bytesOf 1 64 ++ bytesOf 2 threshold ++
    bytesOf 1 hangover ++ bytesOf 1 maxPause ++ bytesOf 1 recover ++ bytesOf 1 priority ++ bytesOf 2 9

theorem witness_StationSetupBindsOrRefuses :
    (∀ l s, s.regs.part = .running → slotKind ((ordered 1 l s).orders.slotData 4) = 1 →
      OrderAt (ordered 1 l s) 4 1) ∧
    (∀ l ∈ [setupArgs 32 6 7 100 2 5 2 0, setupArgs 5 6 7 32768 2 5 2 0, setupArgs 5 6 7 100 16 5 2 0,
        setupArgs 5 6 7 100 2 0 2 0, setupArgs 5 6 7 100 2 5 0 0, setupArgs 5 6 7 100 2 5 16 0,
        setupArgs 5 6 7 100 2 5 2 2, setupArgs 31 63 63 32767 15 255 15 1, setupArgs 2 2 6 0 0 1 1 0,
        setupArgs 5 2 6 100 2 5 2 0, setupArgs 5 6 2 100 2 5 2 0],
      slotKind ((ordered 1 l idle2).orders.slotData 4) = 1) ∧
    setupOrderOf ((ordered 1 (setupArgs 31 63 63 32767 15 255 15 1) idle2).orders.slotData 4) =
      { channel := 31, input := 63, output := 63, gain := 64, threshold := 32767, hangover := 15,
        maxPause := 255, recover := 15, priority := 1, author := 9 } ∧
    idle2.chanState 31 = .unbound ∧ idle2.chanState 2 = .idle ∧ ready2.chanState 2 = .ready ∧
    idle2.inputs[(2 : Timeslot)].owner = some 2 ∧ idle2.outputs[(2 : Timeslot)].owner = some 2 ∧
    idle2.inputs[(63 : Timeslot)].owner = none ∧ idle2.outputs[(63 : Timeslot)].owner = none ∧
    idle2.inputs[(6 : Timeslot)].owner = none ∧ (idle2.row 31).ctx.openRequest = none ∧
    (∀ card ∈ [none, some 5], ((asking card).row 2).ctx.openRequest ≠ none ∧ (asking card).chanState 2 = .idle ∧
      (asking card).regs.part = .running) ∧
    (asking none).cards.search = some { channel := 2, examined := 3 } ∧ (asking (some 5)).cards.search = none ∧
    ((asking (some 5)).row 2).op = some (.opening (some 5)) :=
  ⟨fun _ _ h k => ⟨h, rfl, k⟩, by decide +kernel⟩

/-- Channel 2 BUSY in a sub-state with the letter, or with a close or a file waiting. -/
def busy2 (sub : SubState) : State := lettered 2 (.busy sub) run
def closing2 : State := (busy2 .saving).modCtx 2 fun x => { x with pendingClose := some 9 }
def filing2 : State := (busy2 .saving).modCtx 2 fun x => { x with pendingFile := some 9 }

theorem witness_StationCloseActsByState :
    (∀ s ∈ [idle2, ready2, playing2, recorded2, busy2 .closing, busy2 .saving, closing2, filing2,
        withSpans [] 0, asking none, asking (some 5)], ∀ n ∈ [0, 2, 31, 32],
      (ordered 2 [BitVec.ofNat 8 n] s).regs.part = .running ∧
      (ordered 2 [BitVec.ofNat 8 n] s).orders.sweep = .acting 4 ∧
      slotKind ((ordered 2 [BitVec.ofNat 8 n] s).orders.slotData 4) = 2 ∧
      byteAt ((ordered 2 [BitVec.ofNat 8 n] s).orders.slotData 4) 8 = n) ∧
    idle2.chanState 31 = .unbound ∧ (busy2 .closing).chanState 2 = .busy .closing ∧
    (closing2.row 2).ctx.pendingClose = some 9 ∧ (ready2.row 2).ctx.pendingClose = none ∧
    (ready2.row 2).ctx.state = .ready ∧ (busy2 .saving).chanState 2 = .busy .saving ∧
    (idle2.row 2).ctx.state = .idle ∧ (idle2.row 2).ctx.openRequest = none ∧
    (idle2.row 2).ctx.pendingFile = none ∧
    (∀ card ∈ [none, some 5], ((asking card).row 2).ctx.openRequest ≠ none ∧
      ((asking card).row 2).ctx.pendingClose = none ∧ ((asking card).row 2).ctx.state = .idle ∧
      ((asking card).row 2).ctx.pendingFile = none) ∧
    (asking none).cards.search = some { channel := 2, examined := 3 } ∧ (asking (some 5)).cards.search = none ∧
    ((asking (some 5)).row 2).op = some (.opening (some 5)) ∧ (playing2.row 2).ctx.state = .playing ∧
    (playing2.row 2).ctx.pendingClose = none ∧ (recorded2.row 2).ctx.state = .recording ∧
    (recorded2.row 2).ctx.pendingClose = none ∧
    (recorded2.row 2).sheet = some { sheet := 41, next := 2, card := 3, take := 1 } ∧
    (recorded2.row 2).placement.isSome = true ∧ (recorded2.row 2).queue = [] ∧
    (recorded2.row 2).codec.pending = 0 ∧ (recorded2.row 2).codec.lost = 0 ∧ recorded2.live 41 ≠ 0 := by
  decide +kernel

theorem witness_FileLetterActsByState :
    (∀ s ∈ [idle2, ready2, playing2, recorded2, busy2 .closing, busy2 .saving, closing2, filing2,
        withSpans [] 0], ∀ n ∈ [0, 2, 31, 32],
      (ordered 3 [BitVec.ofNat 8 n] s).regs.part = .running ∧
      (ordered 3 [BitVec.ofNat 8 n] s).orders.sweep = .acting 4 ∧
      slotKind ((ordered 3 [BitVec.ofNat 8 n] s).orders.slotData 4) = 3 ∧
      byteAt ((ordered 3 [BitVec.ofNat 8 n] s).orders.slotData 4) 8 = n) ∧
    idle2.chanState 31 = .unbound ∧ idle2.chanState 2 = .idle ∧
    (busy2 .closing).chanState 2 = .busy .closing ∧ (closing2.row 2).ctx.pendingClose = some 9 ∧
    (filing2.row 2).ctx.pendingFile = some 9 ∧ (ready2.row 2).ctx.pendingFile = none ∧
    (ready2.row 2).length ≠ 0 ∧ (busy2 .saving).chanState 2 = .busy .saving ∧
    (playing2.row 2).ctx.state = .playing ∧ (playing2.row 2).ctx.pendingFile = none ∧
    (playing2.row 2).length ≠ 0 ∧ (recorded2.row 2).ctx.state = .recording ∧
    (recorded2.row 2).ctx.pendingFile = none ∧ ((withSpans [] 0).row 2).length = 0 ∧
    ((withSpans [] 0).row 2).ctx.state = .ready ∧ ((withSpans [] 0).row 2).ctx.letter =
      some { card := 3, priority := .routine, takes := 1 } := by decide +kernel

/-- The arguments of a REOPEN LETTER and of a RENDER. -/
def reopenArgs (channel card : Nat) : List Byte := bytesOf 1 channel ++ bytesOf 1 0 ++ bytesOf 2 card
def renderArgs (card selection start count length buffer : Nat) : List Byte :=
  bytesOf 2 card ++ bytesOf 2 selection ++ bytesOf 4 start ++ bytesOf 4 count ++ bytesOf 4 length ++
    bytesOf 8 buffer

/-- A render order of card 7, and the part with so many of them in the queue. -/
def render0 : RenderOrder :=
  { card := 7, start := 0, count := 0, selection := .both, buffer := 0x4000, length := 480 }
def rendering (slots : List OrderSlot) (s : State) : State :=
  { s with orders := { s.orders with
      renders := slots,
      accepted := slots.foldl (fun t (k : OrderSlot) => t.set k (some (.render render0))) s.orders.accepted } }

theorem witness_CardOrdersAreCheckedThenRead :
    (∀ l ∈ [reopenArgs 32 7, reopenArgs 2 16, reopenArgs 2 15, reopenArgs 31 7],
      slotKind ((ordered 4 l idle2).orders.slotData 4) = 4) ∧
    (∀ l ∈ [renderArgs 15 3 120000 120000 240 0x4000, renderArgs 16 1 0 0 240 0x4000,
        renderArgs 7 0 0 0 240 0x4000, renderArgs 7 4 0 0 240 0x4000, renderArgs 7 1 120001 0 240 0x4000,
        renderArgs 7 1 0 0 240 0x4001, renderArgs 7 1 0 0 238 0x4000, renderArgs 7 1 0 0 241 0x4000],
      slotKind ((ordered 5 l idle2).orders.slotData 4) = 5) ∧
    (∀ kind args s, slotKind ((ordered kind args s).orders.slotData 4) = kind → s.regs.part = .running →
      OrderAt (ordered kind args s) 4 kind) ∧
    fieldAt ((ordered 5 (renderArgs 15 3 120000 120000 240 0x4000) idle2).orders.slotData 4) 0x18 8 = 0x4000 ∧
    fieldAt ((ordered 5 (renderArgs 15 3 120000 120000 240 0x4000) idle2).orders.slotData 4) 0x10 4 = 120000 ∧
    (idle2.row 31).ctx.state = .unbound ∧ (idle2.row 2).ctx.state = .idle ∧
    Table.get idle2.cards.holdings 15 = none ∧ Table.get ready2.cards.holdings 3 = some (.held 2) ∧
    (∀ j : OrderSlot, idle2.orders.accepted[j] = none) ∧
    (rendering [0, 1, 2] idle2).orders.renders.length < 4 ∧
    (rendering [0, 1, 2] idle2).orders.accepted[(0 : OrderSlot)] = some (.render render0) ∧
    4 ≤ (rendering [0, 1, 2, 3] idle2).orders.renders.length :=
  ⟨by decide +kernel, by decide +kernel, fun _ _ _ k h => ⟨h, rfl, k⟩, by decide +kernel⟩

/-- The sweep waits at slot 4 for the card line of its order. -/
def awaiting (kind : Nat) (args : List Byte) (s : State) : State :=
  reading .orderUnit .orderCardRead (sweeping (.awaiting 4) (ordered kind args s))

theorem witness_CardReadDecidesTheOrder :
    Due (awaiting 4 (reopenArgs 2 7) idle2) .orderUnit (readOf .orderUnit .orderCardRead 0) [] ∧
    Due (awaiting 5 (renderArgs 7 3 0 0 480 0x4000) idle2) .orderUnit (readOf .orderUnit .orderCardRead 0) [] ∧
    (awaiting 4 (reopenArgs 2 7) idle2).orders.sweep = .awaiting 4 ∧
    (∀ l ∈ [reopenArgs 2 7, reopenArgs 31 7], slotKind ((awaiting 4 l idle2).orders.slotData 4) = 4 ∧
      byteAt ((awaiting 4 l idle2).orders.slotData 4) 8 < 32) ∧
    slotKind ((awaiting 5 (renderArgs 7 3 0 0 480 0x4000) idle2).orders.slotData 4) = 5 ∧
    selectionOf (byteAt ((awaiting 5 (renderArgs 7 3 0 0 480 0x4000) idle2).orders.slotData 4) 0x0A) =
      some .both ∧
    (idle2.row 2).ctx.state = .idle ∧ Table.get idle2.cards.holdings 7 = none ∧
    (∀ j : OrderSlot, idle2.orders.accepted[j] = none) ∧
    (∀ state ∈ [2#8, 3#8], byteAt (padded 64 [state]) 0 = state.toNat ∧ byteAt (padded 64 [state]) 2 = 0) ∧
    byteAt (padded 64 [1#8]) 0 = 1 ∧ byteAt (padded 64 [2#8, 0#8, 1#8]) 2 ≠ 0 :=
  ⟨due_flying _ _ rfl (by decide), due_flying _ _ rfl (by decide), by decide +kernel⟩

/-- A slot of the sweep image reads these first bytes. -/
def shown (k : OrderSlot) (bytes : List Byte) (s : State) : State :=
  { s with orders := { s.orders with image := s.orders.image.map fun l => l.set k.val (padded 64 bytes) } }

/-- A render context that hands out frames, its first record of span 1 to come. -/
def context0 : RenderContext :=
  { slot := 7, order := render0, stage := .output, index := 39, spanCount := 1, line := 0, spans := [span0],
    start := 0, finish := 39, position := 0, nextIndex := 0, askSpan := 0, askIndex := 4, ahead := [],
    decode := none, total := 39, handed := 0, written := 0, failed := none, stop := false, truncated := false }

/-- The render order of slot 7 is active, in a context. -/
def active (x : RenderContext) (s : State) : State := { rendering [7] s with render := some x }

/-- A CANCEL of a slot. -/
def cancels (n : Nat) (s : State) : State := ordered 6 [BitVec.ofNat 8 n] s

theorem witness_CancelActsByTarget :
    (∀ n ∈ [0, 7, 31, 32], ∀ s ∈ [run, rendering [8, 7] run, active context0 run],
      (cancels n s).regs.part = .running ∧ (cancels n s).orders.sweep = .acting 4 ∧
      slotKind ((cancels n s).orders.slotData 4) = 6 ∧ byteAt ((cancels n s).orders.slotData 4) 8 = n) ∧
    (∀ j : OrderSlot, run.orders.accepted[j] = none) ∧ run.orders.finishedSet = [] ∧
    (∀ st ∈ [1#8, 2#8, 3#8], (shown 7 [st, 5#8] (cancels 7 run)).orders.slotData 7 = padded 64 [st, 5#8]) ∧
    (∀ kind ∈ [4#8, 6#8],
      (shown 7 [1#8, kind] (cancels 7 run)).orders.slotData 7 = padded 64 [1#8, kind]) ∧
    ({ run.orders with finishedSet := [7] } : OrderUnit).finishedSet = [7] ∧
    (rendering [8, 7] run).orders.accepted[(7 : OrderSlot)] = some (.render render0) ∧
    (rendering [8, 7] run).orders.renders.head? ≠ some 7 ∧
    (active context0 run).orders.renders.head? = some 7 ∧ (active context0 run).render = some context0 ∧
    ({ run.orders with accepted := run.orders.accepted.set 7 (some (.close 2)) } : OrderUnit).accepted[(7 :
      OrderSlot)] = some (.close 2) := by decide +kernel

/-- The active render in a stage, a record in decode or not. -/
def staged (stage : RenderStage) (d : Option Decode) : State :=
  active { context0 with stage := stage, decode := d } run

/-- What is left to hand over of a record: so many zero frames, in the record or behind its span's last one. -/
def zeroFrames (zeros tail : Nat) (inTail : Bool) : Decode :=
  { voice := none, zeros := zeros, tail := tail, inTail := inTail }

theorem witness_EnableClearBeginsQuiesce :
    (∀ s ∈ [idle2, ready2, recording2, playing2, rendering [7, 8] run, asking none, asking (some 5),
        staged .seek none, staged .draining none, staged .output none, staged .output (some (zeroFrames 2 3 false)),
        staged .output (some (zeroFrames 0 3 true))],
      s.regs.part = .running ∧ s.regs.enable = true) ∧
    softResetBit 2#32 = false ∧ enableBit 2#32 = false ∧
    idle2.chanState 2 = .idle ∧ idle2.chanState 0 = .unbound ∧ ready2.chanState 2 = .ready ∧
    recording2.chanState 2 = .recording ∧ playing2.chanState 2 = .playing ∧
    (lettered 2 (.busy .saving) run).chanState 2 = .busy .saving ∧
    (rendering [7, 8] run).orders.renders = 7 :: [8] ∧ (7 : OrderSlot) ∉ [(8 : OrderSlot)] ∧
    ((rendering [7, 8] run).orders.renders.drop 1)[0]? = some 8 ∧ (rendering [7, 8] run).render = none ∧
    (rendering [7, 8] run).orders.accepted[(7 : OrderSlot)] = some (.render render0) ∧
    (staged .seek none).orders.renders ≠ [] ∧
    (staged .seek none).render = some { context0 with stage := .seek } ∧
    (∀ card, (decide ((asking card).chanState 2 = .idle) && ((asking card).row 2).ctx.openRequest.isSome) = true) ∧
    (asking none).cards.search = some { channel := 2, examined := 3 } ∧
    ((asking (some 5)).row 2).op = some (.opening (some 5)) := by
  refine ⟨?_, by decide, by decide, by decide, by decide, by decide, by decide, by decide, by decide,
    rfl, by decide, rfl, rfl, by decide +kernel, by decide, rfl, ?_⟩
  · decide +kernel
  · exact ⟨fun _ => rfl, rfl, rfl⟩

theorem witness_NoticeSetsTheHostNotice :
    (∀ n ∈ [0, 2, 31, 32], ∀ v ∈ [0, 15, 16],
      OrderAt (ordered 7 [BitVec.ofNat 8 n, BitVec.ofNat 8 v] idle2) 4 7 ∧
      byteAt ((ordered 7 [BitVec.ofNat 8 n, BitVec.ofNat 8 v] idle2).orders.slotData 4) 8 = n ∧
      byteAt ((ordered 7 [BitVec.ofNat 8 n, BitVec.ofNat 8 v] idle2).orders.slotData 4) 9 = v) ∧
    idle2.chanState 0 = .unbound ∧ idle2.chanState 2 ≠ .unbound := by
  refine ⟨fun n hn v hv => ⟨⟨rfl, rfl, rfl⟩, ?_⟩, by decide +kernel⟩
  fin_cases hn <;> fin_cases hv <;> decide +kernel

theorem witness_ReturnRaisesTheTally :
    (∀ n ∈ [0, 1, 32768, 32769], ∀ s ∈ [stocked 2 0 run, stocked 0 7 run, stocked 0 8 run],
      (ordered 8 (bytesOf 4 n) s).regs.part = .running ∧
      (ordered 8 (bytesOf 4 n) s).orders.sweep = .acting 4 ∧
      slotKind ((ordered 8 (bytesOf 4 n) s).orders.slotData 4) = 8 ∧
      fieldAt ((ordered 8 (bytesOf 4 n) s).orders.slotData 4) 8 4 = n) ∧
    min (2 + 1) 64 + 0 < setup0.low ∧ setup0.low ≤ min (0 + 1) 64 + 7 ∧ min (0 + 1) 64 + 7 ≤ setup0.high ∧
    setup0.high < min (0 + 1) 64 + 8 ∧ (stocked 0 8 run).sheets.scan = .idle ∧
    8 ≤ (stocked 0 8 run).sheets.stack.length ∧ (stocked 0 7 run).sheets.stack.length < 8 := by
  decide +kernel

theorem witness_FinishingWriteHasTwoParts :
    Due (writing .orderUnit (.finishResult 4) run) .orderUnit
      (writeOf .orderUnit (.finishResult 4) 64 [7#8]) [] ∧
    Due (writing .orderUnit (.finishState 4) run) .orderUnit
      (writeOf .orderUnit (.finishState 4) 64 [7#8]) [] ∧
    run.regs.part = .running ∧ run.sweep.phase ≠ .answering ∧ (run.desk.finishes + 1#32).toNat < run.setup.orderMark ∧
    run.setup.orderMark ≤ (1#32 + 1#32 : Word).toNat ∧ run.desk.writing = false ∧
    (∀ phase, Due (writing .startSweep (.finishResult 4) (startingIn phase)) .startSweep
        (writeOf .startSweep (.finishResult 4) 64 [7#8]) [] ∧
      Due (writing .startSweep (.finishState 4) (startingIn phase)) .startSweep
        (writeOf .startSweep (.finishState 4) 64 [7#8]) [] ∧
      (writing .startSweep (.finishState 4) (startingIn phase)).engine.waiting = []) ∧
    nextDue .orderUnit [writeOf .startSweep (.finishState 4) 64 [7#8]] = none ∧
    (startingIn .answering).regs.part = .starting ∧ (startingIn .answering).sweep.phase = .answering ∧
    (startingIn (.slots 9)).sweep.phase ≠ .answering ∧ (startingIn .answering).desk.writing = false :=
  ⟨due_flying _ _ rfl (by decide), due_flying _ _ rfl (by decide), by decide, by decide, by decide, by decide, rfl,
    fun _ => ⟨due_flying _ _ rfl starting_unfaulted, due_flying _ _ rfl starting_unfaulted, rfl⟩, rfl, rfl, rfl,
    by decide, rfl⟩

/-! ### Witnesses: the memory engine -/

/-- The part with accesses waiting and a run count. -/
def waitingOn (l : List Access) (n : Nat) (s : State) : State :=
  { s with engine := { s.engine with waiting := l, run := n } }

def readA : Access := readOf (.channel 2) (.playbackRead true) 0x100000
def writeB : Access := writeOf .deskUnit .deskHeader 0x1100 [1#8, 2#8]
def two (n : Nat) (s : State) : State := waitingOn [readA, writeB] n s

theorem offered_readA (n : Nat) : Offered (two n run) (.channel 2) [] readA [writeB] :=
  { place := rfl, asked := rfl, oldest := by simp, line := by simp, header := by simp [readA, readOf] }

theorem offered_writeB (n : Nat) : Offered (two n run) .deskUnit [readA] writeB [] :=
  { place := rfl, asked := rfl, oldest := by simp [readA, readOf], line := by simp [readA, readOf],
    header := by simp [writeB, writeOf] }

theorem only_two_offer (n : Nat) (who : Requester) (h : Offers (two n run) who) :
    who = .channel 2 ∨ who = .deskUnit := by
  obtain ⟨before, a, after, h⟩ := h
  have ha : a ∈ (two n run).engine.waiting := by rw [h.place]; simp
  have hw := h.asked
  simp only [two, waitingOn, List.mem_cons, List.not_mem_nil, or_false] at ha
  obtain rfl | rfl := ha
  · exact .inl hw.symm
  · exact .inr hw.symm

theorem witness_ArbiterChoosesByClassAndTurn :
    (inPart .faulted).regs.part = .faulted ∧ (∀ who, ¬ Offers run who) ∧
    (∀ n, Offered (two n run) (.channel 2) [] readA [writeB] ∧
      Offered (two n run) .deskUnit [readA] writeB [] ∧ (∀ d, d ≠ 2 → ¬ Offers (two n run) (.channel d)) ∧
      ∀ who ∈ [Requester.sheetManager, .cardUnit, .orderUnit], ¬ Offers (two n run) who) ∧
    (two 7 run).engine.run < 8 ∧ 8 ≤ (two 8 run).engine.run ∧ run.engine.pointerA < 32 ∧
    run.engine.pointerB < 6 ∧ (∀ frame, readA.purpose ≠ .renderWrite frame true) ∧
    ∀ frame, writeB.purpose ≠ .renderWrite frame true := by
  refine ⟨rfl, ?_, fun n => ⟨offered_readA n, offered_writeB n, ?_, ?_⟩, by decide, by decide, by decide,
    by decide, by simp [readA, readOf], by simp [writeB, writeOf]⟩
  · rintro who ⟨before, a, after, h⟩
    simpa [run, inPart, State.reset, Engine.reset] using h.place
  · intro d hd h
    obtain h | h := only_two_offer n _ h
    · exact hd (Requester.channel.inj h)
    · cases h
  · intro who hw h
    obtain rfl | rfl := only_two_offer n _ h <;> simp at hw

/-- The take's first record READY for slot 1 of sheet 41, its write handed over. -/
def record41 : Rec := .pause 1 false
def write41 : Access := writeOf (.channel 2) (.recordWrite 3 41 1) 0x152040 record41.bytes
def readyRecord : State :=
  waitingOn [write41] 0 (recorded2.modRow 2 fun r => { r with queue := [.ready record41 3 41 1] })

theorem witness_GrantedWriteReachesMemory :
    ∃ t u v, exec .accessGrant readyRecord = .next t ∧ readyRecord.regs.part ≠ .faulted ∧
      t.engine.flight = readyRecord.engine.flight ++ [write41] ∧ write41.who = .channel 2 ∧
      write41.purpose = .recordWrite 3 41 1 ∧ (readyRecord.row 2).queue = [] ++ .ready record41 3 41 1 :: [] ∧
      exec .accessGrant (two 7 run) = .next u ∧ u.engine.flight = [] ++ [readA] ∧ readA.action = .read 64 ∧
      exec .accessGrant (two 8 run) = .next v ∧ v.engine.flight = [] ++ [writeB] ∧
      writeB.action = .write [1#8, 2#8] ∧ writeB.covers 0x1101 ∧ remarked.engine.flight = [] ++ audio3 :: ([] ++
        filed3 :: []) ∧ audio3.who ≠ .cardUnit ∧ filed3.who = .cardUnit ∧ filed3.purpose.quiet = false ∧
      audio3.covers filed3.address ∧ filed3.covers filed3.address ∧ ¬ writeB.covers 0x1102 := by
  refine ⟨_, _, _, rfl, by decide, by decide +kernel, rfl, rfl, by decide +kernel, rfl, by decide +kernel, rfl,
    rfl, by decide +kernel, rfl, ⟨_, rfl, by decide, by decide⟩, rfl, by decide, rfl, rfl,
    ⟨_, rfl, by decide, by decide⟩, ⟨_, rfl, by decide, by decide⟩, ?_⟩
  rintro ⟨bytes, h, h1, h2⟩
  cases h
  revert h2
  decide

theorem witness_FailureFaultsThePart :
    (flying writeB run).engine.flight = [] ++ writeB :: [] ∧ writeB.who = .deskUnit ∧
    (flying readA (inPart .quiescing)).engine.flight = [] ++ readA :: [] ∧ readA.who = .channel 2 ∧
    (∀ frame last, writeB.purpose ≠ .renderWrite frame last) ∧
    (∀ frame last, readA.purpose ≠ .renderWrite frame last) ∧
    run.regs.part = .running ∧ (inPart .quiescing).regs.part = .quiescing ∧
    (startingIn .setup).regs.part = .starting ∧
    (∀ b ∈ [readA, writeOf .deskUnit (.deskBody false) 0x1140 [3#8]], b.who = .deskUnit → b.purpose.quiet = true) ∧
    (writeOf .deskUnit (.deskBody true) 0x1140 [3#8]).purpose.quiet = false ∧
    remarked.engine.flight = [] ++ audio3 :: [filed3] ∧ filed3.covers audio3.address ∧
    ({ audio3 with later := [(filed3.address, 1)] } : Access).settledAt audio3.address = true ∧
    ({ audio3 with later := [(filed3.address, 1)] } : Access).settledAt (audio3.address + 1) = false ∧
    (∀ p, (reading .cardUnit p run).engine.flight = [] ++ readOf .cardUnit p 0 :: [] ∧
      (writing .cardUnit p run).engine.flight = [] ++ writeOf .cardUnit p 64 [7#8] :: []) :=
  ⟨rfl, rfl, rfl, rfl, by simp [writeB, writeOf], by simp [readA, readOf], rfl, rfl, rfl,
    by simp [readA, readOf, writeOf, Purpose.quiet], rfl, rfl, ⟨_, rfl, by decide, by decide⟩, by decide, by decide, fun _ => ⟨rfl, rfl⟩⟩

/-- The record's write under way, and a read-ahead of four places of which so many are ready. -/
def writingRecord : State :=
  flying write41 (recorded2.modRow 2 fun r => { r with queue := [.writing record41 3 41 1] })
def place0 (data : Option (List Byte)) : PlayPlace :=
  { sheet := 40, slot := 1, start := 0, frames := 1, data := data }
def aheadOf (n : Nat) : State :=
  reading (.channel 2) (.playbackRead true) (playing2.modRow 2 fun r => { r with
    ahead := List.replicate n (place0 (some (padded 64 []))) ++ List.replicate (4 - n) (place0 none) })

/-- The header of sheet 41 under way, a free of it by a block waiting or not. -/
def writingHeader (free : Option Requester) : State :=
  let s := writing (.channel 2) (.headerWrite 3 41) recorded2
  { s with sheets := { s.sheets with freeWait := (free.map fun who => { who := who, sheet := 41 }).toList } }

/-- The first of four records under way in a take with frames pending as lost. -/
def losing (lost : Nat) : State :=
  flying write41 ((takeAt .append 5 0 { PauseRun.reset with lost := lost }).modRow 2 fun r => { r with
    queue := .writing record41 3 41 1 :: List.replicate 3 (.ready record41 3 41 2) })

theorem witness_ChannelAccessesComplete :
    Due writingRecord (.channel 2) write41 [] ∧ (writingRecord.row 2).queue = [] ++ .writing record41 3 41 1 :: [] ∧
    firstWaiting (writingRecord.row 2).queue = none ∧ (writingRecord.row 2).op = none ∧
    (writingRecord.row 2).codec.lost = 0 ∧
    (∀ b, Due (writingHeader b) (.channel 2) (writeOf (.channel 2) (.headerWrite 3 41) 64 [7#8]) []) ∧
    (writingHeader none).sheets.freeWait = [] ∧
    (∀ who, (writingHeader (some who)).sheets.freeWait = [] ++ { who := who, sheet := 41 } :: [] ∧
      (writingHeader (some who)).engine.waiting = []) ∧
    (∀ n ∈ [1, 255, 256], Due (losing n) (.channel 2) write41 [] ∧
      firstWaiting ((losing n).row 2).queue = none ∧ ((losing n).row 2).queue.length = 4 ∧
      ((losing n).row 2).op = none ∧ ((losing n).row 2).ctx.state = .recording ∧
      ((losing n).row 2).codec.lost = n ∧ ((losing n).row 2).placement = some take0 ∧
      ((losing n).row 2).sheet = some { sheet := 41, next := 5, card := 3, take := 1 } ∧
      ((losing n).row 2).length + min n 255 ≤ 120000) ∧
    (∀ n, Due (aheadOf n) (.channel 2) (readOf (.channel 2) (.playbackRead true) 0) []) ∧
    (∀ n ∈ [0, 1, 3], ((aheadOf n).row 2).ahead = List.replicate n (place0 (some (padded 64 []))) ++
      place0 none :: List.replicate (3 - n) (place0 none)) ∧
    Due (reading (.channel 2) (.playbackRead false) ready2) (.channel 2)
      (readOf (.channel 2) (.playbackRead false) 0) [] :=
  ⟨due_flying _ _ rfl (by decide), by decide +kernel, by decide +kernel, by decide +kernel, by decide +kernel,
    fun _ => ⟨rfl, running_unfaulted⟩, rfl, fun _ => ⟨rfl, rfl⟩,
    (by intro n hn; fin_cases hn <;> exact ⟨⟨rfl, running_unfaulted⟩, by decide +kernel⟩),
    fun _ => ⟨rfl, running_unfaulted⟩, by decide +kernel, due_flying _ _ rfl (by decide)⟩

/-- A take of 119,998 frames with no sheet: a codec result of a pause and a voice frame waits. When the sheet comes
the pause is shortened to the two frames that are left, and in SAVING the voice is not placed (R29, R63). -/
def nearlyFull : State :=
  recording2.modRow 2 fun r => { r with
    spans := some (List.replicate 3 { span0 with frames := 30000 } ++ [{ span0 with frames := 29998 }]),
    ctx := { r.ctx with cursor := 119998 }, sheet := none,
    queue := [.waiting (.pause 3 false) false, .waiting record41 true] }

theorem test_voice_of_a_shortened_result_is_discarded :
    ((nearlyFull.serveTake 2 41).row 2).queue = [.ready (.pause 2 false) 3 41 1] ∧
    (nearlyFull.serveTake 2 41).chanState 2 = .busy .saving := by
  decide +kernel

/-! ### Witnesses: the sheet map and the cards -/

/-- A claim scan that reads: cursor, entries examined, sheets in the stack. -/
def scanning (cursor examined stack : Nat) : State :=
  let s := reading .sheetManager .scanRead (stocked 40 stack run)
  { s with sheets := { s.sheets with scan := .reading, cursor := cursor, examined := examined } }

/-- A claim scan at the last entry of a line, the take of channel 2 waiting for a sheet with a record held. -/
def servingTake : State :=
  let s := recording2.modRow 2 fun r => { r with sheet := none, queue := [.waiting record41 false] }
  let s := reading .sheetManager .scanRead s
  { s with sheets := { s.sheets with
      scan := .reading, cursor := 63, tally := 5, waiting := [.take 2, .index 4] } }

/-- The scan at its last entry, channel 4 waiting too, for the index sheet of card 9. -/
def stormed : State :=
  let s := bound 4 .idle servingTake
  { s.modRow 4 fun r => { r with
      op := some (.opening (some 9)), ctx := { r.ctx with openRequest := some .new } } with
    sheets := { s.sheets with examined := 63 }, cards := { s.cards with holdings := [(9, .opening 4)] } }

/-- A map line with these of its entries FREE and the others AUDIO. -/
def mapLine (free : List Nat) : List Byte :=
  ((List.range 32).map fun i => if i ∈ free then [0#8, 0#8] else [2#8, 3#8]).flatten

theorem witness_ClaimScanWorksThroughTheMap :
    (∀ cursor examined stack, Due (scanning cursor examined stack) .sheetManager
      (readOf .sheetManager .scanRead 0) []) ∧
    Due servingTake .sheetManager (readOf .sheetManager .scanRead 0) [] ∧
    Due stormed .sheetManager (readOf .sheetManager .scanRead 0) [] ∧
    AtCursor (servingTake.row 2) [span0] [] ∧
    ({ run with sheets := { run.sheets with scan := .starting } } : State).sheets.scan = .starting ∧
    run.regs.part = .running ∧
    (∀ cursor ∈ [0, 31, 32, 63], (scanning cursor 0 7).sheets.cursor < setup0.sheetCount) ∧
    (∀ n ∈ [0, 7, 13], (scanning 0 0 n).sheets.stack.length + 2 < 16 ∧ (scanning 0 0 n).sheets.waiting = []) ∧
    (scanning 0 31 0).sheets.examined + 32 < setup0.sheetCount ∧
    16 ≤ (scanning 0 0 16).sheets.stack.length ∧ (scanning 63 63 0).sheets.stack = [] ∧
    setup0.sheetCount ≤ (scanning 63 63 0).sheets.examined + 1 ∧
    byteAt (mapLine [0, 31]) (2 * (0 % 32)) = 0 ∧ byteAt (mapLine [0, 31]) (2 * (63 % 32)) = 0 ∧
    byteAt (mapLine [0]) (2 * (63 % 32)) ≠ 0 ∧
    (∀ n ∈ [14, 15], (scanning 0 0 n).sheets.stack.length < 16 ∧
      16 ≤ (scanning 0 0 n).sheets.stack.length + 2) ∧
    ((List.range 32).filter fun n => byteAt (mapLine [0, 31]) (2 * (n % 32)) == 0) = [0, 31] ∧
    0 + 1 < 32 ∧ 32 ≤ 31 + 1 ∧
    (let s := stormed
     s.regs.part = .running ∧ s.sheets.stack = [] ∧ s.sheets.scanAgain = false ∧ s.sheets.waiting.Nodup ∧
      s.setup.sheetCount ≤ s.sheets.examined + 1 ∧ s.sheets.waiting = [.take 2, .index 4] ∧
      (s.row 2).ctx.state = .recording ∧ (s.row 2).sheet = none ∧ (s.row 2).codec.pending = 0 ∧
      (s.row 2).codec.lost = 0 ∧ (s.row 4).ctx.state = .idle ∧ (s.row 4).op = some (.opening (some 9))) ∧
    servingTake.sheets.waiting = .take 2 :: [.index 4] ∧ servingTake.sheets.stack = [] ∧
    min (32 * (63 / 32 + 1)) 64 = 63 + 1 ∧ (servingTake.row 2).ctx.state = .recording ∧
    (servingTake.row 2).op = none ∧ (servingTake.row 2).codec.lost = 0 ∧ record41.isLost = false ∧
    (servingTake.row 2).queue = [] ++ .waiting record41 false :: [] ∧
    firstWaiting [] = none ∧ (servingTake.row 2).placement.isSome = true ∧
    (servingTake.row 2).length + record41.frames ≤ 120000 :=
  ⟨fun _ _ _ => ⟨rfl, running_unfaulted⟩, ⟨rfl, running_unfaulted⟩, ⟨rfl, running_unfaulted⟩,
    ⟨rfl, by decide, by decide⟩, by decide +kernel⟩

/-- R82: a search that has wrapped answers each request storage out. -/
theorem test_full_wrap_answers_every_request :
    after (exec (.mapLineReadComplete (mapLine [])) stormed) fun t =>
      t.chanState 2 == .busy .saving && (t.row 2).queue == [] && (t.row 4).ctx.openRequest == none &&
        (t.row 4).ctx.transient == some (.storageOut, 32) := by decide +kernel

/-- A part in QUIESCING whose channels are UNBOUND, with so many sheets in the stack. -/
def settled (n : Nat) : State := stocked 40 n (inPart .quiescing)

theorem witness_StackReturnFreesTheStack :
    (settled 7).regs.part = .quiescing ∧ (settled 7).cards.openQueue = [] ∧ (settled 7).cards.search = none ∧
    (settled 7).sheets.scan = .idle ∧ (∀ c : Chan, (settled 7).chanState c = .unbound ∧
      ((settled 7).row c).op = none ∧ ((settled 7).row c).discards = []) ∧
    (settled 7).stackReturned = false ∧ (settled 7).sheets.tally ≤ (settled 7).setup.sheetCount ∧
    run.regs.part ≠ .quiescing := by decide +kernel

/-- A card search at a card for channel 2 by a key, so many cards examined, with a tally and one sheet stacked. -/
def searching (cursor examined : Nat) (cause : OpenCause := .new) (tally : Nat := 40) : State :=
  let s := reading .cardUnit .searchRead
    ((stocked tally 1 idle2).modRow 2 fun r => { r with
      op := some (.opening none), ctx := { r.ctx with openRequest := some cause } })
  { s with cards := { s.cards with
      cursor := cursor, search := some { channel := 2, examined := examined } } }

theorem witness_CardSearchFindsAVacantCard :
    ({ run with cards := { run.cards with openQueue := [2] } } : State).cards.openQueue = [2] ∧
    run.cards.search = none ∧ run.regs.part = .running ∧
    (∀ cursor examined cause tally,
      Due (searching cursor examined cause tally) .cardUnit (readOf .cardUnit .searchRead 0) [] ∧
      (searching cursor examined cause tally).cards.search = some { channel := 2, examined := examined } ∧
      ((searching cursor examined cause tally).row 2).ctx.openRequest = some cause) ∧
    byteAt (padded 64 [1#8]) 0 ≠ 0 ∧ byteAt (padded 64 []) 0 = 0 ∧
    (∀ card ∈ [0, 14, 15], Table.get (searching card 0).cards.holdings card = none) ∧
    14 + 1 < setup0.cardCount ∧ setup0.cardCount ≤ 15 + 1 ∧ (searching 15 0).sheets.stack = 50 :: [] ∧
    (searching 15 0).sheets.waiting = [] ∧ (searching 15 0 .record 3).sheets.hold = false ∧
    setup0.low ≤ 4 + 0 ∧ 3 + 0 < setup0.low ∧
    (∃ t, exec (.cardSearchReadComplete (padded 64 [])) (searching 15 0 .record 4) = .next t ∧
      t.sheets.hold = false ∧ t.chanState 2 = .recording) ∧
    ∃ t, exec (.cardSearchReadComplete (padded 64 [])) (searching 15 0 .record 3) = .next t ∧
      t.sheets.hold = true ∧ t.chanState 2 = .ready :=
  ⟨rfl, rfl, rfl, fun _ _ _ _ => ⟨⟨rfl, running_unfaulted⟩, rfl, rfl⟩, by decide +kernel, by decide +kernel,
    by decide +kernel, by decide, by decide, rfl, rfl, rfl, by decide, by decide,
    ⟨_, rfl, by decide +kernel⟩, _, rfl, by decide +kernel⟩

/-- Channel 2 BUSY with an operation of the card unit on its letter. -/
def operating (sub : SubState) (op : CardOp) (s : State) : State :=
  s.modRow 2 fun r => { r with op := some op, ctx := { r.ctx with state := .busy sub } }

/-- The same with no span in the letter. -/
def emptied (s : State) : State := s.modRow 2 fun r => { r with spans := some [] }

theorem witness_CheckpointRunsInStages :
    (∀ op ∈ [CardOp.checkpoint .draining, .filing .draining false, .filing .draining true, .suspending .draining],
      ∀ s ∈ [operating .saving op ready2, emptied (operating .closing op ready2)],
        (s.row 2).ctx.letter = some { card := 3, priority := .routine, takes := 1 } ∧
        Table.get s.cards.images 3 = some card0 ∧ (s.row 2).op = some op ∧ s.regs.part = .running ∧
        s.drained 2 = true ∧ s.cardWriteRunning 3 = false) ∧
    (∀ s, s.regs.part = .running →
      ∀ p ∈ [Purpose.cardWriting 2, .indexWrite 2 true, .cardBody 3 [7#8] (.checkpoint 2) true],
        Due (writing .cardUnit p s) .cardUnit (writeOf .cardUnit p 64 [7#8]) []) ∧
    (ready2.row 2).spanList ≠ [] ∧ ((emptied ready2).row 2).spanList = [] :=
  ⟨by decide +kernel, fun s hs p hp => due_flying _ _ (by fin_cases hp <;> rfl) (by rw [hs]; decide),
    by decide +kernel⟩

/-- Channel 2 at the end of an operation's card write, with a close, a file and an opening to follow. -/
def endOf (sub : SubState) (op : CardOp) (after : Bool) (close file : Option OrderSlot) (s : State) : State :=
  (operating sub op s).modCtx 2 fun x => { x with openAfter := after, pendingClose := close, pendingFile := file }

/-- The checkpoint's VALID write under way at the end of SAVING. -/
def savingEnds (close file : Option OrderSlot) (s : State) : State :=
  writing .cardUnit (.cardFirst 3 (.checkpoint 2)) (endOf .saving (.checkpoint .valid) false close file s)

/-- Channel 2 READY with the letter in a part that is QUIESCING. -/
def leaving2 : State := lettered 2 .ready (inPart .quiescing)

theorem witness_CheckpointLeadsOn :
    (∀ op ∈ [CardOp.checkpoint .valid, .filing .valid false, .filing .filed true, .suspending .valid,
        .suspending .filed],
      ((operating .saving op ready2).row 2).op = some op ∧
      ((operating .saving op ready2).row 2).ctx.letter =
        some { card := 3, priority := .routine, takes := 1 } ∧
      ((operating .saving op ready2).row 2).ctx.pendingClose = none ∧
      ((operating .saving op ready2).row 2).ctx.pendingFile = none ∧
      Table.get (operating .saving op ready2).cards.images 3 = some card0) ∧
    (∀ op, Due (writing .cardUnit (.cardFirst 3 (.checkpoint 2)) (operating .saving op ready2)) .cardUnit
      (writeOf .cardUnit (.cardFirst 3 (.checkpoint 2)) 64 [7#8]) []) ∧
    (∀ op, Due (writing .cardUnit (.filedWrite 2 true) (operating .saving op ready2)) .cardUnit
      (writeOf .cardUnit (.filedWrite 2 true) 64 [7#8]) []) ∧ ready2.cards.sequence ≠ 4294967295 ∧
    (∀ s ∈ [ready2, emptied ready2, leaving2], ∀ close file, Due (savingEnds close file s) .cardUnit
      (writeOf .cardUnit (.cardFirst 3 (.checkpoint 2)) 64 [7#8]) []) ∧
    (∀ s ∈ [ready2, emptied ready2, leaving2], ∀ close ∈ [none, some (9 : OrderSlot)],
      ∀ file ∈ [none, some (8 : OrderSlot)],
      (s.regs.part = .running ∨ s.regs.part = .quiescing) ∧
      ((savingEnds close file s).row 2).op = some (.checkpoint .valid) ∧
      ((savingEnds close file s).row 2).ctx.letter = some { card := 3, priority := .routine, takes := 1 } ∧
      Table.get (savingEnds close file s).cards.images 3 = some card0 ∧
      ((savingEnds close file s).row 2).ctx.pendingClose = close ∧
      ((savingEnds close file s).row 2).ctx.pendingFile = file) ∧
    leaving2.regs.part = .quiescing ∧ (ready2.row 2).length ≠ 0 ∧ ((emptied ready2).row 2).length = 0 :=
  ⟨by decide +kernel, fun _ => ⟨rfl, running_unfaulted⟩, fun _ => ⟨rfl, running_unfaulted⟩, by decide,
    (fun s hs close file => by
      fin_cases hs <;>
        first | exact ⟨rfl, running_unfaulted⟩ | exact ⟨rfl, show PartState.quiescing ≠ .faulted by decide⟩),
    by decide +kernel⟩

/-- A filing of channel 2 whose last card write is under way, by an order or a key, the roll so long. -/
def filingEnds (byOrder : Bool) (roll : Nat) : State :=
  let s := endOf .filing (.filing .card byOrder) false none (if byOrder then some 9 else none) ready2
  writing .cardUnit (.cardFirst 3 (.filed 2)) { s with cards := { s.cards with
    roll := List.replicate roll { card := 1, sequence := 9, priority := .routine } } }

/-- The same with a close, a file and an opening to follow. -/
def filingLeads (byOrder after : Bool) (close file : Option OrderSlot) (s : State) : State :=
  writing .cardUnit (.cardFirst 3 (.filed 2)) (endOf .filing (.filing .card byOrder) after close file s)

theorem witness_FilingEndsInIdle :
    (∀ s ∈ [ready2, held ready2, leaving2], ∀ byOrder ∈ [true, false], ∀ after ∈ [true, false],
      ∀ close ∈ [none, some (9 : OrderSlot)], ∀ file ∈ [none, some (8 : OrderSlot)],
      let t := filingLeads byOrder after close file s
      (nextDue .cardUnit t.engine.flight = some (writeOf .cardUnit (.cardFirst 3 (.filed 2)) 64 [7#8], []) ∧
        t.regs.part ≠ .faulted) ∧
      (t.row 2).ctx.letter = some { card := 3, priority := .routine, takes := 1 } ∧
      Table.get t.cards.images 3 = some card0 ∧ (t.row 2).op = some (.filing .card byOrder) ∧
      (t.row 2).ctx.openAfter = after ∧ (t.row 2).ctx.pendingClose = close ∧ (t.row 2).ctx.pendingFile = file ∧
      (t.row 2).ctx.openRequest = none) ∧
    ready2.sheets.hold = false ∧ (held ready2).sheets.hold = true ∧ ready2.regs.part = .running ∧
    leaving2.regs.part = .quiescing ∧
    ∀ byOrder, ∀ roll ∈ [0, 15, 16],
      Due (filingEnds byOrder roll) .cardUnit (writeOf .cardUnit (.cardFirst 3 (.filed 2)) 64 [7#8]) [] ∧
      (filingEnds byOrder roll).regs.part = .running ∧
      ((filingEnds byOrder roll).row 2).ctx.letter = some { card := 3, priority := .routine, takes := 1 } ∧
      Table.get (filingEnds byOrder roll).cards.images 3 = some card0 ∧
      ((filingEnds byOrder roll).row 2).op = some (.filing .card byOrder) ∧
      ((filingEnds byOrder roll).row 2).ctx.openAfter = false ∧
      ((filingEnds byOrder roll).row 2).ctx.pendingClose = none ∧
      ((filingEnds byOrder roll).row 2).ctx.pendingFile = (if byOrder then some 9 else none) ∧
      (filingEnds byOrder roll).cards.roll.length = roll := by
  refine ⟨by decide +kernel, rfl, rfl, rfl, rfl, ?_⟩
  intro byOrder roll hr
  refine ⟨⟨rfl, running_unfaulted⟩, ?_⟩
  fin_cases hr <;> cases byOrder <;> decide +kernel

/-- A suspension of channel 2 whose last card write is under way, for a close or for quiesce. -/
def suspensionEnds (close : Option OrderSlot) : State :=
  writing .cardUnit (.cardFirst 3 (.suspended 2))
    ((operating .closing (.suspending .card) ready2).modCtx 2 fun x => { x with pendingClose := close })

/-- A letter of channel 2 in the discard list, its card 3, index sheet 39 and sheet 40. -/
def discarding2 (queue : List QueueEntry) : State :=
  let s := bound 2 .idle (stocked 40 7 run)
  { s.modRow 2 fun r => { r with discards := [{ card := 3, index := 39, sheets := [40] }], queue := queue } with
    cards := { s.cards with holdings := [(3, .discarding 2)], images := [(3, card0)] } }

theorem witness_SuspensionAndDiscardEndLetters :
    (∀ close ∈ [none, some (9 : OrderSlot)],
      Due (suspensionEnds close) .cardUnit (writeOf .cardUnit (.cardFirst 3 (.suspended 2)) 64 [7#8]) [] ∧
      (suspensionEnds close).regs.part = .running ∧
      ((suspensionEnds close).row 2).ctx.letter = some { card := 3, priority := .routine, takes := 1 } ∧
      ((suspensionEnds close).row 2).ctx.openRequest = none ∧
      ((suspensionEnds close).row 2).ctx.pendingFile = none ∧
      ((suspensionEnds close).row 2).ctx.pendingClose = close) ∧
    (∀ q ∈ [[], [QueueEntry.waiting record41 false]],
      ((discarding2 q).row 2).discards = [{ card := 3, index := 39, sheets := [40] }] ∧
      Table.get (discarding2 q).cards.images 3 = some card0 ∧ ((discarding2 q).row 2).queue = q ∧
      (discarding2 q).engine.waiting ++ (discarding2 q).engine.flight = [] ∧
      (discarding2 q).sheets.tally ≤ (discarding2 q).setup.sheetCount) ∧
    Due (writing .cardUnit (.cardBody 3 [7#8] (.discarded 2) true) (discarding2 [])) .cardUnit
      (writeOf .cardUnit (.cardBody 3 [7#8] (.discarded 2) true) 64 [7#8]) [] ∧
    ((discarding2 []).row 2).discards = [] ++ { card := 3, index := 39, sheets := [40] } :: [] := by
  refine ⟨fun close hc => ⟨⟨rfl, running_unfaulted⟩, ?_⟩, by decide +kernel, ⟨rfl, running_unfaulted⟩, rfl⟩
  fin_cases hc <;> decide +kernel

/-- Channel 2 LOADING card 7 by the order of slot 9, at a stage. -/
def loading (stage : ReopenStage) (held : Bool) : State :=
  let s := (bound 2 (.busy .loading) run).modRow 2 fun r => { r with
    spans := some [], op := some (.reopening stage) }
  { s with
    orders := { s.orders with accepted := s.orders.accepted.set (9 : OrderSlot) (some (.reopen 7 2)) },
    cards := if held then { s.cards with holdings := [(7, .held 2)], images := [(7, card0)] } else s.cards }

/-- A card as its 256 bytes: state, DAMAGED, index sheet, span count. -/
def cardBytes (state damaged index spans : Nat) : List Byte :=
  padded 256 (bytesOf 1 state ++ [0#8] ++ bytesOf 1 damaged ++ zeroBytes 61 ++ bytesOf 2 index ++ bytesOf 2 spans)

/-- Nine entries of one record each in sheet 40, and the map line that notes sheets 39 and 40 for card 7. -/
def entry0 (k : Nat) : Span := { sheet := 40, first := k, count := 2, frames := 2, instruction := false }
def notedLine : List Byte :=
  ((List.range 32).map fun i => if i = 7 ∨ i = 8 ∨ i = 31 then [4#8, 7#8] else [0#8, 0#8]).flatten

theorem loading_due (p : Purpose) (hp : p.quiet = false) (stage : ReopenStage) (held : Bool) :
    Due (reading .cardUnit p (loading stage held)) .cardUnit (readOf .cardUnit p 0) [] :=
  due_flying _ _ hp (by cases held <;> exact running_unfaulted)

/-- The reopen of channel 2 at the end of LOADING, a record in its letter, a close and a file to follow. -/
def loadingEnds (stage : ReopenStage) (close file : Option OrderSlot) (part : PartState) : State :=
  let s := (loading stage true).modRow 2 fun r => { r with
    spans := some [entry0 1], ctx := { r.ctx with pendingClose := close, pendingFile := file } }
  { s with regs := { s.regs with part := part } }

theorem witness_ReopenReadsTheLetterBack :
    ((∀ part ∈ [PartState.running, .quiescing], ∀ close ∈ [none, some (5 : OrderSlot)],
      ∀ file ∈ [none, some (6 : OrderSlot)], ∀ stage ∈ [ReopenStage.card 7, .map card0 1 [39, 40]],
      let s := loadingEnds stage close file part
      part ≠ .faulted ∧ s.regs.part = part ∧ (s.row 2).ctx.pendingClose = close ∧
      (s.row 2).ctx.pendingFile = file ∧ (s.row 2).ctx.openRequest = none ∧ (s.row 2).op = some (.reopening stage) ∧
      s.reopenCardOf 2 = some 7 ∧ Table.get s.cards.images 7 = some card0 ∧ (s.row 2).spanList = [entry0 1] ∧
      (s.row 2).length ≠ 0 ∧ s.orders.accepted[(9 : OrderSlot)] = some (.reopen 7 2) ∧
      ∀ i : OrderSlot, i < 9 → s.orders.accepted[i] = none) ∧
    card0.index ∈ [39, 40] ∧ (entry0 1).sheet ∈ [39, 40]) ∧
    (∀ stage held, Due (reading .cardUnit (.reopenCardRead 2 true) (loading stage held)) .cardUnit
        (readOf .cardUnit (.reopenCardRead 2 true) 0) [] ∧
      Due (reading .cardUnit (.reopenIndexRead 2) (loading stage held)) .cardUnit
        (readOf .cardUnit (.reopenIndexRead 2) 0) [] ∧
      Due (reading .cardUnit (.reopenRecordRead 2) (loading stage held)) .cardUnit
        (readOf .cardUnit (.reopenRecordRead 2) 0) [] ∧
      Due (reading .cardUnit (.reopenMapRead 2) (loading stage held)) .cardUnit
        (readOf .cardUnit (.reopenMapRead 2) 0) []) ∧
    (∀ held, (loading (.card 7) held).regs.part = .running ∧ ((loading (.card 7) held).row 2).ctx.pendingClose = none ∧
      ((loading (.card 7) held).row 2).ctx.pendingFile = none ∧
      ((loading (.card 7) held).row 2).op = some (.reopening (.card 7)) ∧
      ∀ j : OrderSlot, (loading (.card 7) held).orders.accepted[j] = if j = 9 then some (.reopen 7 2) else none) ∧
    (cardOf (cardBytes 2 0 63 1)).state = 2 ∧ (cardOf (cardBytes 3 0 63 1024)).spanCount = 1024 ∧
    (cardOf (cardBytes 3 0 63 1024)).index < setup0.sheetCount ∧ (cardOf (cardBytes 1 0 0 0)).state = 1 ∧
    (cardOf (cardBytes 2 1 0 0)).damaged = true ∧
    ((loading (.index { card0 with spanCount := 9 } 0 []) true).reopenCardOf 2) = some 7 ∧
    0 + 1 < (9 + 7) / 8 ∧ [entry0 1][0]? = some (entry0 1) ∧ 0 + 1 < (entry0 1).count ∧
    (recordEntryOf (padded 64 [])).frames ≠ 0 ∧ (recordEntryOf (padded 64 [0x0F#8, 0#8])).frames = 0 ∧
    (∀ p ∈ [(cardBytes 2 0 63 1025, 63, 1025), (cardBytes 3 0 64 1, 64, 1), (cardBytes 3 0 63 0, 63, 0)],
      (cardOf p.1).damaged = false ∧ (cardOf p.1).index = p.2.1 ∧ (cardOf p.1).spanCount = p.2.2 ∧
      (cardOf p.1).length = 0) ∧
    (9 + 7) / 8 ≤ 1 + 1 ∧ min 8 (9 - 8 * 1) = 1 ∧ (entry0 1).count ≤ 1 + 1 ∧
    1 + (recordEntryOf (padded 64 [])).frames = (entry0 1).frames ∧
    2 + (recordEntryOf (padded 64 [])).frames ≠ (entry0 1).frames ∧
    ((loading (.records card0 [entry0 1] 1 1) true).row 2).spanList = [] ∧ 39 ∈ [7, 39] ∧ 39 ∉ [7, 40] ∧
    32 * (0 + 1) < setup0.sheetCount ∧
    setup0.sheetCount ≤ 32 * (1 + 1) ∧ ((List.range 32).filter fun i =>
      byteAt notedLine (2 * i) == 4 && byteAt notedLine (2 * i + 1) == 7) = [7, 8, 31] := by
  refine ⟨by decide +kernel,
    fun stage held => ⟨loading_due _ rfl .., loading_due _ rfl .., loading_due _ rfl .., loading_due _ rfl ..⟩, ?_⟩
  decide +kernel

/-! ### Witnesses: renders -/

/-- A record of a voice frame, and of a pause of 3 frames. -/
def voiceData : List Byte := padded 64 [3#8]
def pauseData : List Byte := padded 64 [0x0F#8, 3#8]

/-- The render reads in a stage. -/
def renderReads (p : Purpose) (x : RenderContext) : State := reading .render p (active x run)

theorem renderReads_due (p : Purpose) (hp : p.quiet = false) (x : RenderContext) :
    Due (renderReads p x) .render (readOf .render p 0) [] :=
  due_flying _ _ hp running_unfaulted

/-- Three spans, the middle one of the instruction kind, and the render's last index line of their letter. -/
def mixedSpans : List Span := [span0, { span0 with sheet := 41, instruction := true }, { span0 with sheet := 42 }]
def indexed (selection : Selection) (start count : Nat) : RenderContext :=
  { context0 with
    stage := .index, line := 1, spanCount := 9, spans := mixedSpans,
    order := { render0 with selection := selection, start := start, count := count } }

/-- SEEK at the last record of a span of 45 frames, its start frame at a position, with these frames to render. -/
def seekingLast (start count : Nat) : RenderContext :=
  { context0 with
    stage := .seek, spans := [{ span0 with frames := 45 }], position := 38, finish := start + count,
    order := { render0 with start := start, count := count } }

theorem witness_RenderReadsItsLetter :
    (∀ selection start count, (indexed selection start count).stage = .index ∧
      ((indexed selection start count).spanCount + 7) / 8 ≤ (indexed selection start count).line + 1 ∧
      (indexed selection start count).ahead = [] ∧ (indexed selection start count).spans = mixedSpans) ∧
    ((mixedSpans.map Span.frames).sum = 117 ∧ (∀ e ∈ mixedSpans, 1 ≤ e.frames ∧ 1 ≤ e.count) ∧
    (min 1 (9 - 8 * 1) = 1 ∧ (spanAt (padded 64 []) 0).count = 0) ∧
    mixedSpans = [] ++ span0 :: (mixedSpans.drop 1) ∧
    mixedSpans = [span0] ++ { span0 with sheet := 41, instruction := true } :: [{ span0 with sheet := 42 }] ∧
    (∀ p ∈ [(38, 0), (39, 10), (78, 39), (116, 1)], p.1 < min (p.1 + (if p.2 = 0 then 117 else p.2)) 117) ∧
    (∀ p ∈ [(0, 39), (39, 78), (78, 117)], p.1 < p.2) ∧
    (∀ start ∈ [39, 43], (seekingLast start 2).position + 1 ≤ start ∧
      start ≤ 38 + 1 + 4 ∧ 38 + 1 + 1 < min (0 + 45) (seekingLast start 2).finish) ∧
    (seekingLast 39 2).spans[0]? = some { span0 with frames := 45 } ∧ span0.count ≤ 9 + 1 ∧
    480 ≤ ({ render0 with length := 480 } : RenderOrder).length) ∧
    (rendering [7, 8] run).regs.part = .running ∧ (rendering [7, 8] run).render = none ∧
    (rendering [7, 8] run).orders.renders = 7 :: [8] ∧
    (rendering [7, 8] run).orders.accepted[(7 : OrderSlot)] = some (.render render0) ∧
    (∀ x, Due (renderReads (.renderCardRead true) x) .render (readOf .render (.renderCardRead true) 0) [] ∧
      Due (renderReads .renderIndexRead x) .render (readOf .render .renderIndexRead 0) [] ∧
      (∀ n i, Due (renderReads (.renderRecordRead n i) x) .render
        (readOf .render (.renderRecordRead n i) 0) []) ∧
      ∀ p, (renderReads p x).render = some x) ∧
    fieldAt (cardBytes 2 0 63 1) 0x40 2 = 63 ∧ fieldAt (cardBytes 2 0 63 1) 0x42 2 = 1 ∧
    setup0.sheetCount ≤ fieldAt (cardBytes 2 0 64 1) 0x40 2 ∧ fieldAt (cardBytes 2 0 63 0) 0x42 2 = 0 ∧
    0 + 1 < (9 + 7) / 8 ∧
    (match context0 with
      | x => x.stage = .output ∧ x.spans[0]? = some span0 ∧ 8 + 1 < span0.count ∧ x.spans ≠ []) ∧
    (let next := 0 + (if byteAt pauseData 0 % 16 = 15 then max 1 (byteAt pauseData 1) else 1)
     (∀ start ∈ [4, 38], next < ({ render0 with start := start } : RenderOrder).start) ∧
     ({ render0 with start := 3 } : RenderOrder).start = next ∧ next < context0.finish ∧
     (∀ start ∈ [0, 2], ({ render0 with start := start } : RenderOrder).start < next)) ∧
    render0.selection = .both ∧ ((context0.spans.take 0).map Span.frames).sum ≤ 0 ∧
    3 < ((context0.spans.take 0).map Span.frames).sum + span0.frames ∧ context0.ahead = [] := by
  refine ⟨fun _ _ _ => ⟨rfl, (show (9 + 7) / 8 ≤ 1 + 1 by decide), rfl, rfl⟩, by decide +kernel, rfl, rfl,
    rfl, by decide +kernel, fun x => ⟨renderReads_due _ rfl x, renderReads_due _ rfl x,
    fun _ _ => renderReads_due _ rfl x, fun _ => rfl⟩, by decide +kernel⟩

/-- The render with its front record read: a place of the letter, its bytes, and the share of the frame. -/
def decoding (index position handed : Nat) (data : List Byte) : State :=
  let s := active { context0 with
    ahead := [{ span := 0, index := index, data := some data }], position := position, handed := handed,
    order := { render0 with length := 9600 } } run
  { s with codec := { s.codec with renderLeft := 1 } }

/-- The same with so many frames to hand over in all, and a buffer of so many. -/
def decodingOf (index position handed : Nat) (data : List Byte) (total room : Nat) : State :=
  let s := decoding index position handed data
  { s with render := s.render.map fun x => { x with
      total := total, order := { x.order with length := 240 * room } } }

theorem witness_RenderOperationHandsAFrame :
    (∀ p ∈ [(decodingOf 9 38 37 voiceData 39 39, 38, 9, 1), (decodingOf 5 37 5 pauseData 39 40, 37, 5, 3),
        (decodingOf 9 36 5 pauseData 7 7, 36, 9, 3), (decodingOf 0 0 0 voiceData 1 40, 0, 0, 1),
        (decodingOf 0 0 0 voiceData 39 1, 0, 0, 1)],
      p.1.regs.part = .running ∧ 0 < p.1.codec.renderLeft ∧ p.1.engine.waiting ++ p.1.engine.flight = [] ∧
      p.1.render.map RenderContext.stage = some .output ∧ p.1.render.bind RenderContext.decode = none ∧
      p.1.render.map RenderContext.position = some p.2.1 ∧
      p.1.render.map RenderContext.finish = some 39 ∧ p.2.1 < 0 + span0.frames) ∧
    (span0.count ≤ 9 + 1 ∧ 0 + span0.frames ≤ 37 + 3 ∧ 37 + 1 < 39 ∧ 5 + 1 < 7 ∧ 0 + 1 = 1) ∧
    ∀ p ∈ [(decoding 0 0 0 voiceData, 0, 1, 0), (decoding 8 37 37 voiceData, 37, 1, 8),
        (decoding 5 5 5 pauseData, 5, 3, 5)],
      p.1.regs.part = .running ∧ 0 < p.1.codec.renderLeft ∧
      ∃ x, p.1.render = some x ∧ x.stage = .output ∧ x.decode = none ∧ x.spans[0]? = some span0 ∧
        x.position = p.2.1 ∧ spanStart x.spans 0 = 0 ∧ p.2.2.2 + 1 < span0.count ∧
        p.2.1 + p.2.2.1 < 0 + span0.frames ∧ p.2.1 < x.finish ∧ x.handed + 1 < x.total ∧
        x.handed + 1 < x.order.length / 240 := by
  refine ⟨by decide +kernel, by decide, ?_⟩
  intro p hp
  fin_cases hp <;> exact ⟨rfl, by decide, _, rfl, by decide +kernel⟩

/-- A buffer write of a frame under way, a frame failed before or not. -/
def bufferWriting (frame : Nat) (last : Bool) (failed : Option Nat) : State :=
  writing .render (.renderWrite frame last) (active { context0 with failed := failed } run)

/-- The last write of a frame waits for its grant, a record in decode, some frames handed over, the render stopped
or not. -/
def granting (d : Decode) (handed total : Nat) (stop : Bool) : State :=
  waitingOn [writeOf .render (.renderWrite 5 true) 64 [7#8]] 0
    (active { context0 with decode := some d, handed := handed, total := total, stop := stop } run)

theorem witness_RenderWritesCountAndEnd :
    (∀ p ∈ [(zeroFrames 0 0 false, 6, 39, false), (zeroFrames 0 0 true, 6, 39, true),
        (zeroFrames 2 3 false, 0, 39, false), (zeroFrames 0 1 true, 0, 39, true), (zeroFrames 1 0 false, 38, 39, false),
        (zeroFrames 1 0 false, 1, 39, false)],
      after (exec .accessGrant (granting p.1 p.2.1 p.2.2.1 p.2.2.2)) fun t =>
        t.engine.flight.map Access.purpose == [.renderWrite 5 true]) ∧
    (∀ d handed total stop, (granting d handed total stop).engine.flight = [] ∧
      (granting d handed total stop).render = some { context0 with
        decode := some d, handed := handed, total := total, stop := stop }) ∧
    (0 + 1 < render0.length / 240 ∧ 1 + 1 = render0.length / 240 ∧ 38 + 1 = 39) ∧
    (∀ frame last failed, Due (bufferWriting frame last failed) .render
        (writeOf .render (.renderWrite frame last) 64 [7#8]) [] ∧
      (bufferWriting frame last failed).render = some { context0 with failed := failed }) ∧
    (∀ n, some 6 = some n → 5 < n) ∧ (∀ n, (none : Option Nat) = some n → 5 < n) ∧
    (∃ n, some 5 = some n ∧ n ≤ 5) ∧
    (∀ frame last failed, (bufferWriting frame last failed).engine.flight =
      [] ++ writeOf .render (.renderWrite frame last) 64 [7#8] :: []) ∧
    (active { context0 with stage := .draining } run).regs.part = .running ∧
    (active { context0 with stage := .draining } run).render = some { context0 with stage := .draining } ∧
    (active { context0 with stage := .draining } run).engine.waiting = [] ∧
    (active { context0 with stage := .draining } run).engine.flight = [] :=
  ⟨by decide +kernel, fun _ _ _ _ => ⟨rfl, rfl⟩, by decide,
    fun _ _ _ => ⟨⟨rfl, running_unfaulted⟩, rfl⟩, by simp, by simp, ⟨5, rfl, by decide⟩, fun _ _ _ => rfl, rfl, rfl, rfl, rfl⟩

/-- The letter of the worked sequence of chapter 8 rendered from 48 for 12 frames: slot 5 of the last span holds a
pause, and until it has been read no later record is known to begin below 60 (R151). -/
def farStart : RenderContext :=
  { context0 with
    spans := [{ sheet := 50, first := 1, count := 4, frames := 43, instruction := false },
      { sheet := 51, first := 1, count := 5, frames := 5, instruction := true },
      { sheet := 50, first := 5, count := 6, frames := 25, instruction := false }],
    start := 48, position := 48, finish := 60, askSpan := 2, askIndex := 0,
    order := { render0 with start := 48, count := 12 } }

theorem test_render_asks_no_record_that_may_begin_past_the_end :
    ((active farStart run).askOn.render.map fun x => x.ahead.map fun p => (p.span, p.index)) = some [(2, 0)] := by
  decide +kernel

/-! ### Witnesses: the desk block -/

/-- A desk write asked for, and one under way. -/
def deskAsked (s : State) : State := { s with desk := { s.desk with requested := true } }
def deskWriting (s : State) : State := { s with desk := { s.desk with writing := true, generation := 1#32 } }

theorem witness_DeskWriteSamplesAndWrites :
    (deskAsked run).regs.part = .running ∧ (deskAsked (startingIn .desk)).regs.part = .starting ∧
    (deskAsked (inPart .quiescing)).regs.part = .quiescing ∧ (deskAsked run).desk.requested = true ∧
    (deskAsked run).desk.writing = false ∧ run.cards.roll.length ≤ 16 ∧
    (List.replicate 16 ({ card := 1, sequence := 9, priority := .urgent } : RollEntry)).length ≤ 16 ∧
    Due (writing .deskUnit .deskOpening (deskWriting run)) .deskUnit
      (writeOf .deskUnit .deskOpening 64 [7#8]) [] ∧
    Due (writing .deskUnit (.deskBody true) (deskWriting run)) .deskUnit
      (writeOf .deskUnit (.deskBody true) 64 [7#8]) [] :=
  ⟨rfl, rfl, rfl, rfl, rfl, by decide, by decide, due_flying _ _ rfl running_unfaulted,
    due_flying _ _ rfl running_unfaulted⟩

/-- A header line of the desk block under way. -/
def deskEnds (s : State) : State := writing .deskUnit .deskHeader (deskWriting s)

/-- QUIESCING with ENABLE clear, the final desk write asked for and running, or not. -/
def quiescing0 (final : Bool) : State :=
  let s := inPart .quiescing
  { s with
    regs := { s.regs with enable := false }, stackReturned := true,
    desk := { s.desk with finalAsked := final, finalRunning := final } }

/-- R128, R183: quiesce waits for both parts of a finishing write. -/
theorem test_quiesce_waits_for_a_finishing_write :
    (∀ p ∈ [Purpose.finishResult 4, .finishState 4],
      after (exec .quiesceWorkDone (writing .orderUnit p (quiescing0 false))) fun t => !t.desk.finalAsked) ∧
    after (exec .quiesceWorkDone (quiescing0 false)) fun t => t.desk.finalAsked := by decide +kernel

theorem witness_DeskWriteCompletes :
    (∀ s ∈ [run, startingIn .desk, quiescing0 true, quiescing0 false], Due (deskEnds s) .deskUnit
      (writeOf .deskUnit .deskHeader 64 [7#8]) []) ∧
    (deskEnds run).regs.part = .running ∧ (deskEnds (quiescing0 false)).desk.finalRunning = false ∧
    (deskEnds (startingIn .desk)).regs.part = .starting ∧ (deskEnds (startingIn .desk)).regs.enable = true ∧
    (deskEnds (quiescing0 true)).regs.part = .quiescing ∧ (deskEnds (quiescing0 true)).desk.finalRunning = true ∧
    (deskEnds (quiescing0 true)).regs.enable = false ∧
    (quiescing0 false).stackReturned = true ∧ (∀ k : OrderSlot, (quiescing0 false).orders.accepted[k] = none) ∧
    (quiescing0 false).orders.renders = [] ∧ (∀ c : Chan, ((quiescing0 false).row c).queue = []) ∧
    (quiescing0 false).engine.waiting ++ (quiescing0 false).engine.flight = [] ∧
    (quiescing0 false).desk.finalAsked = false ∧
    (writing .orderUnit (.finishState 4) (quiescing0 false)).engine.flight =
      [writeOf .orderUnit (.finishState 4) 64 [7#8]] ∧
    (inPart .quiescing).stackReturned = false ∧ (quiescing0 true).desk.finalAsked = true ∧
    (startingIn .desk).orders.renders = [] ∧ (∀ c : Chan, (startingIn .desk).chanState c = .unbound) := by
  refine ⟨fun s hs => ?_, by decide +kernel⟩
  fin_cases hs <;> exact ⟨rfl, by decide⟩

/-! ### Witnesses: the codec and the laws of every step -/

theorem witness_VoiceRecordDecodesToReconstruction :
    (loud.map BitVec.toInt).length = 120 ∧ 1 ≤ 1 ∧ 255 ≤ 255 ∧
    64 * (32768 : Int) ≤ 16384 * (128 : Nat) + 32 ∧ (16384 : Int) * (128 : Nat) + 32 < 64 * (32768 + 1) ∧
    (scaleOf (voiceRecord 64 (loud.map BitVec.toInt)).bytes) = 9 ∧
    (decodeVoice (voiceRecord 64 (loud.map BitVec.toInt)).bytes)[0]? = some 1000 ∧
    ((2 : Int) ^ (7 + 1) * (-5) ≤ 2 * (-640) + 2 ^ 7 ∧ 2 * (-640) + 2 ^ 7 < (2 : Int) ^ (7 + 1) * (-5 + 1)) ∧
    (100 ≤ ((loud.map BitVec.toInt).map fun x => (gainSample 64 x).natAbs).sum / 128) ∧
    ((zeroSamples.map BitVec.toInt).map fun x => (gainSample 64 x).natAbs).sum / 128 < 100 := by decide +kernel

theorem canonical_of_tables (s : State) (h : Memory.wf s.written ∧ Table.wf s.letters.live ∧
    (∀ e ∈ s.letters.live, 0 < e.2) ∧ Table.wf s.letters.records ∧ Table.wf s.cards.holdings ∧
    Table.wf s.cards.images) : Canonical s :=
  ⟨h.1, h.2.1, h.2.2.1, h.2.2.2.1, h.2.2.2.2.1, h.2.2.2.2.2⟩

theorem witness_StepsKeepCanonicalForm :
    (∀ s ∈ [State.reset, recorded2, readyRecord], Canonical s) ∧
    ∃ t, step { readyRecord with pending := [.accessGrant] } = .next t ∧ t.written ≠ [] := by
  refine ⟨fun s hs => canonical_of_tables s ?_, _, rfl, by decide +kernel⟩
  fin_cases hs <;> decide +kernel

theorem witness_StepsKeepQueuesAndOwners :
    (∀ s ∈ [State.reset, recorded2, queued 8 idle2], KeysBounded s ∧ QueuesBounded s ∧ OwnersAgree s) ∧
    ∃ t, step { recorded2 with pending := [.frameBoundary] } = .next t := by
  refine ⟨fun s hs => ?_, _, rfl⟩
  have h : (∀ c, (s.row c).ctx.keys.length ≤ Config.keyLimit) ∧
      (∀ c, (s.row c).queue.length ≤ Config.writeQueueLimit) ∧
      (∀ (c : Chan) (t : Timeslot), (s.row c).ctx.inSlot = some t ↔ s.inputs[t].owner = some c) ∧
      ∀ (c : Chan) (t : Timeslot), (s.row c).ctx.outSlot = some t ↔ s.outputs[t].owner = some c := by
    fin_cases hs <;> decide +kernel
  exact ⟨h.1, h.2.1, h.2.2.1, h.2.2.2⟩

theorem witness_StepsKeepFaultedAndExchangeBase :
    run.regs.exchangeLo &&& 0xFFF#32 = 0#32 ∧ (inPart .faulted).regs.part = .faulted ∧
    run.regs.part ≠ .disabled ∧ (Instr.isReset .accessGrant) = false ∧ (Instr.isReset (.softReset 4#32)) = true ∧
    (∃ t, exec (.deskAckWrite 0#32) (inPart .faulted) = .next t) ∧ ∃ t, exec .frameBoundary run = .next t :=
  ⟨rfl, rfl, by decide, rfl, by decide, ⟨_, rfl⟩, _, rfl⟩

end Sys2Proof.Tests
end

section
/-! PROOFS. The order book: what a rise of the tally and an event of R80 leave in the sheet manager, an order
that changes the sheet manager alone, and RETURN from these. -/

namespace Sys2Proof.Machine

open Sys2Proof

variable {s t u : State} {k : OrderSlot} {kind code first second n : Nat}

/-! ### The storage hold and the tally -/

/-- The hold that a total of tally and stack count leaves (R90). -/
def heldAt (p : Setup) (total : Nat) (hold : Bool) : Bool :=
  if total < p.low then true else if p.high < total then false else hold

theorem heldAt_below {p : Setup} {total : Nat} {hold : Bool} (h : total < p.low) :
    heldAt p total hold = true := if_pos h

theorem heldAt_above {p : Setup} {total : Nat} {hold : Bool} (hl : p.low ≤ total) (hh : p.high < total) :
    heldAt p total hold = false := by
  rw [heldAt, if_neg (Nat.not_lt.2 hl), if_pos hh]

theorem heldAt_between {p : Setup} {total : Nat} {hold : Bool} (hl : p.low ≤ total) (hh : total ≤ p.high) :
    heldAt p total hold = hold := by
  rw [heldAt, if_neg (Nat.not_lt.2 hl), if_neg (Nat.not_lt.2 hh)]

/-- Evaluating the hold sets the hold alone (R90). -/
theorem evaluateHold_eq (s : State) : s.evaluateHold = { s with sheets := { s.sheets with
    hold := heldAt s.setup (s.sheets.tally + s.sheets.stack.length) s.sheets.hold } } := by
  simp only [State.evaluateHold, heldAt]
  split
  · rfl
  · split <;> rfl

/-- The tally rises to the sheet count at most, and the hold is told from the new total (R87, R90). -/
theorem raiseTally_eq (s : State) (n : Nat) : s.raiseTally n = { s with sheets := { s.sheets with
    tally := min (s.sheets.tally + n) s.setup.sheetCount,
    hold := heldAt s.setup (min (s.sheets.tally + n) s.setup.sheetCount + s.sheets.stack.length)
      s.sheets.hold } } := by
  rw [State.raiseTally, evaluateHold_eq]

/-! ### The events that start a claim scan -/

/-- An event of R80 changes nothing but the scan, its count and scan again. -/
theorem scanEvent_frame (s : State) (marks : Bool) : ∃ (w : ScanState) (n : Nat) (a : Bool),
    s.scanEvent marks = { s with sheets := { s.sheets with scan := w, examined := n, scanAgain := a } } := by
  unfold State.scanEvent
  split
  · split
    · exact ⟨_, _, _, rfl⟩
    · exact ⟨_, _, _, rfl⟩
  · split
    · exact ⟨_, _, _, rfl⟩
    · exact ⟨_, _, _, rfl⟩

theorem scanAllowed_running (h : s.regs.part = .running) : s.scanAllowed = true := by
  simp [State.scanAllowed, h]

/-- While a scan runs, a free or a RETURN sets scan again and lets the scan run on. -/
theorem scanEvent_busy (h : s.sheets.scan ≠ .idle) :
    (s.scanEvent true).sheets.scan = s.sheets.scan ∧ (s.scanEvent true).sheets.scanAgain = true := by
  unfold State.scanEvent
  split
  case h_1 hidle => exact absurd hidle h
  case h_2 => exact ⟨rfl, rfl⟩

/-- With fewer than 8 sheets on the stack the event starts a scan in RUNNING. -/
theorem scanEvent_starts {marks : Bool} (hrun : s.regs.part = .running) (h : s.sheets.scan = .idle)
    (hs : s.sheets.stack.length < 8) : (s.scanEvent marks).sheets.scan = .starting := by
  simp [State.scanEvent, h, scanAllowed_running hrun, Config.scanBelow, hs]

/-- With 8 sheets or more on the stack no scan starts. -/
theorem scanEvent_stays {marks : Bool} (h : s.sheets.scan = .idle) (hs : 8 ≤ s.sheets.stack.length) :
    (s.scanEvent marks).sheets.scan = .idle := by
  have : ¬ s.sheets.stack.length < 8 := Nat.not_lt.2 hs
  simp [State.scanEvent, h, Config.scanBelow, this]

/-! ### An order that changes the sheet manager -/

/-- What a finishing write leaves is told from the order unit and the engine alone. -/
theorem Answered.of_units_eq (h : Answered s t k code first second) (ho : u.orders = t.orders)
    (he : u.engine = t.engine) : Answered s u k code first second := by
  obtain ⟨hcounter, haccepted, hfinished, hrenders, hcount, hwrite⟩ := h
  unfold HandedOver at hwrite
  rw [← ho] at hcounter haccepted hfinished hrenders hcount
  exact ⟨hcounter, haccepted, hfinished, hrenders, hcount, he.trans hwrite⟩

/-- Where the sweep has gone on to is told from the order unit alone. -/
theorem SweptOn.of_orders_eq (h : SweptOn s t k) (ho : u.orders = t.orders) : SweptOn s u k := by
  obtain ⟨hnext, hended⟩ := h
  rw [← ho] at hnext hended
  exact ⟨hnext, hended⟩

/-- An order command whose body sets the sheet manager and answers its order; the change of the hold is
reported to the desk unit. -/
theorem answered_sheets {p : Nat → Bool} {body : OrderSlot → List Byte → State} {x : SheetManager}
    (h : OrderAt s k kind) (hp : p kind = true) (hc : code < 256)
    (hb : body k (s.orders.slotData k) = ({ s with sheets := x } : State).finish k code first second) :
    ∃ v, done s (s.takeOrder p body) = .next v ∧ Answered s v k code first second ∧ SweptOn s v k ∧
      DeskReported s v ∧
      v = { s with sheets := x, orders := v.orders, engine := v.engine, desk := v.desk } := by
  obtain ⟨hans, hswept, hframe⟩ := finish_answered (b := { s with sheets := x }) (first := first)
    (second := second) h.acting hc rfl rfl rfl
  rw [takeOrder_finish h hp hb rfl]
  generalize (({ s with sheets := x } : State).finish k code first second).sweepOn (k.val + 1) = t at *
  have hpart : t.regs.part ≠ .starting := by rw [hframe]; simp [h.running]
  have hdesk : t.desk = s.desk := by rw [hframe]
  obtain ⟨v, hv, hreported, hvt, -⟩ := done_reported hpart hdesk
  have ho : v.orders = t.orders := by rw [hvt]
  have he : v.engine = t.engine := by rw [hvt]
  refine ⟨v, hv, hans.of_units_eq ho he, hswept.of_orders_eq ho, hreported, ?_⟩
  rw [ho, he]
  exact hvt.trans (congrArg (fun y : State => { y with desk := v.desk }) hframe)

/-! ### RETURN -/

/-- A RETURN of a count out of range is refused (R142). -/
theorem returnOrder_out_of_range (h : OrderAt s k 8)
    (hr : ¬ (1 ≤ returnCount (s.orders.slotData k) ∧ returnCount (s.orders.slotData k) ≤ 32768)) :
    ∃ t, exec .returnOrder s = .next t ∧ AnsweredOnly s t k 17 0 0 :=
  answered_only h rfl (by decide) (if_neg hr)

/-- The sheet manager behind a RETURN. -/
def State.sheetsReturned (s : State) (count : Nat) : SheetManager := ((s.raiseTally count).scanEvent true).sheets

/-- A RETURN changes the sheet manager and answers with the new tally and the stack count. -/
theorem returnSheets_eq (s : State) (k : OrderSlot) (count : Nat) :
    s.returnSheets k count = ({ s with sheets := s.sheetsReturned count } : State).finish k 0
      (s.sheetsReturned count).tally (s.sheetsReturned count).stack.length := by
  obtain ⟨w, n, a, h⟩ := scanEvent_frame (s.raiseTally count) true
  have hs : (s.raiseTally count).scanEvent true = { s with sheets := s.sheetsReturned count } := by
    rw [State.sheetsReturned, h, raiseTally_eq]
  rw [State.returnSheets, hs]
  rfl

/-- The tally and the hold are as raised, and stack and waiting requests stand. -/
theorem sheetsReturned_counts (s : State) (count : Nat) :
    (s.sheetsReturned count).tally = min (s.sheets.tally + count) s.setup.sheetCount ∧
    (s.sheetsReturned count).stack = s.sheets.stack ∧
    (s.sheetsReturned count).waiting = s.sheets.waiting ∧
    (s.sheetsReturned count).hold = heldAt s.setup
      (min (s.sheets.tally + count) s.setup.sheetCount + s.sheets.stack.length) s.sheets.hold := by
  obtain ⟨w, n, a, h⟩ := scanEvent_frame (s.raiseTally count) true
  rw [State.sheetsReturned, h, raiseTally_eq]
  exact ⟨rfl, rfl, rfl, rfl⟩

/-- A RETURN while a scan runs sets scan again (R88). -/
theorem sheetsReturned_busy {count : Nat} (h : s.sheets.scan ≠ .idle) :
    (s.sheetsReturned count).scan = s.sheets.scan ∧ (s.sheetsReturned count).scanAgain = true := by
  rw [State.sheetsReturned, raiseTally_eq]
  exact scanEvent_busy h

theorem sheetsReturned_starts {count : Nat} (hrun : s.regs.part = .running) (h : s.sheets.scan = .idle)
    (hs : s.sheets.stack.length < 8) : (s.sheetsReturned count).scan = .starting := by
  rw [State.sheetsReturned, raiseTally_eq]
  exact scanEvent_starts hrun h hs

theorem sheetsReturned_stays {count : Nat} (h : s.sheets.scan = .idle) (hs : 8 ≤ s.sheets.stack.length) :
    (s.sheetsReturned count).scan = .idle := by
  rw [State.sheetsReturned, raiseTally_eq]
  exact scanEvent_stays h hs

/-- A RETURN of a count in range sets the sheet manager, reports the hold and answers DONE (R142). -/
theorem returnOrder_in_range (h : OrderAt s k 8) (hn : returnCount (s.orders.slotData k) = n)
    (hr : 1 ≤ n ∧ n ≤ 32768) :
    ∃ t, exec .returnOrder s = .next t ∧
      Answered s t k 0 (s.sheetsReturned n).tally (s.sheetsReturned n).stack.length ∧ SweptOn s t k ∧
      DeskReported s t ∧
      t = { s with sheets := s.sheetsReturned n, orders := t.orders, engine := t.engine, desk := t.desk } := by
  subst hn
  exact answered_sheets h rfl (by decide) ((if_pos hr).trans (returnSheets_eq s k _))

/-- Settles O38: outside the range the order is only answered; in it the sheet manager is `sheetsReturned`,
whose counts, hold and scan are told by the lemmas above. -/
theorem returnRaisesTheTally : Obligations.ReturnRaisesTheTally := by
  intro s k h count tally total
  constructor
  · intro hout
    refine returnOrder_out_of_range h fun hr => ?_
    change 1 ≤ count ∧ count ≤ 32768 at hr
    omega
  · intro hmin hmax
    obtain ⟨t, ht, hans, hswept, hdesk, hframe⟩ := returnOrder_in_range h (n := count) rfl ⟨hmin, hmax⟩
    obtain ⟨htally, hstack, hwaiting, hhold⟩ := sheetsReturned_counts s count
    have hsheets : t.sheets = s.sheetsReturned count := by rw [hframe]
    rw [htally, hstack] at hans
    rw [← hsheets] at hframe
    refine ⟨t, ht, hans, hswept, hdesk, ?_, ?_, ?_, ?_, ?_, ?_, ?_, ?_, ?_, hframe⟩ <;> rw [hsheets]
    · exact htally
    · exact hstack
    · exact hwaiting
    · exact fun hlow => hhold.trans (heldAt_below hlow)
    · exact fun hlow hhigh => hhold.trans (heldAt_above hlow hhigh)
    · exact fun hlow hhigh => hhold.trans (heldAt_between hlow hhigh)
    · exact sheetsReturned_busy
    · exact sheetsReturned_starts h.running
    · exact sheetsReturned_stays

end Sys2Proof.Machine
end

section
/-! PROOFS. The interrupt: what an acknowledgement does in each of its four cases, and DESK_ACK from these. -/

namespace Sys2Proof.Machine

open Sys2Proof

variable {s : State} {v : Word}

theorem active_iff :
    s.active = true ↔ s.regs.part = .starting ∨ s.regs.part = .running ∨ s.regs.part = .quiescing := by
  simp [State.active, or_assoc]

/-! ### The acknowledgement (R167) -/

theorem acknowledge_inactive (h : ¬ s.active) : s.acknowledge v = s := if_pos h

theorem acknowledge_latest (h : s.active) (hv : v = s.desk.latest) :
    s.acknowledge v = { s with desk := { s.desk with armed := true } } := by
  rw [State.acknowledge, if_neg (not_not_intro h), if_pos hv]

/-- An older generation with INT_ENABLE set: one MSI, and the part is disarmed. -/
theorem acknowledge_older_raises (h : s.active) (hv : v ≠ s.desk.latest) (hi : s.regs.intEnable = true) :
    s.acknowledge v = { s with desk := { s.desk with armed := false }, msi := s.msi + 1 } := by
  rw [State.acknowledge, if_neg (not_not_intro h), if_neg hv, if_pos hi]

/-- An older generation with INT_ENABLE clear: the part is armed and sends nothing. -/
theorem acknowledge_older_arms (h : s.active) (hv : v ≠ s.desk.latest) (hi : s.regs.intEnable = false) :
    s.acknowledge v = { s with desk := { s.desk with armed := true } } := by
  rw [State.acknowledge, if_neg (not_not_intro h), if_neg hv, if_neg (Bool.eq_false_iff.1 hi)]

/-! ### The register -/

/-- The state with a value stored in DESK_ACK. -/
def State.storeDeskAck (s : State) (v : Word) : State := { s with regs := { s.regs with deskAck := v } }

/-- Storing the value leaves the part state, so it does not decide whether the desk unit acts. -/
theorem storeDeskAck_active : (s.storeDeskAck v).active = s.active := rfl

/-- DESK_ACK_WRITE stores the value in every state, then acknowledges with it (R167, R177). -/
theorem exec_deskAckWrite : exec (.deskAckWrite v) s = .next ((s.storeDeskAck v).acknowledge v) := rfl

/-- Settles O9: the value is stored, and the four cases of the acknowledgement are told on the state that
holds it, whose part state, latest generation and INT_ENABLE are those before the write. -/
theorem deskAckComparesLatest : Obligations.DeskAckComparesLatest := by
  intro s v written acts
  have hacts : (s.storeDeskAck v).active = true ↔ acts := storeDeskAck_active ▸ active_iff
  refine ⟨fun ha hv => ?latest, fun ha hv hi => ?raises, fun ha hv hi => ?arms, fun ha => ?inactive⟩ <;>
    rw [exec_deskAckWrite]
  case latest => rw [acknowledge_latest (hacts.2 ha) hv]; rfl
  case raises => rw [acknowledge_older_raises (hacts.2 ha) hv hi]; rfl
  case arms => rw [acknowledge_older_arms (hacts.2 ha) hv hi]; rfl
  case inactive => rw [acknowledge_inactive (mt hacts.1 ha)]; rfl

end Sys2Proof.Machine
end

section
/-! PROOFS. What the operations of letters, orders, cards and renders leave alone: `Tame` carried on from
Laws/Tame.lean to the operations that stand behind the commands. -/

namespace Sys2Proof.Machine

open Sys2Proof

variable {s t : State} {c : Chan}

/-! ### Rests and branches -/

theorem Tame.ite {p : Prop} [Decidable p] {a b : State} (ha : Tame s a) (hb : Tame s b) :
    Tame s (if p then a else b) := by
  split
  · exact ha
  · exact hb

theorem Tame.fst_ite {α : Type} {p : Prop} [Decidable p] {a b : State × α} (ha : Tame s a.1) (hb : Tame s b.1) :
    Tame s (if p then a else b).1 := by
  split
  · exact ha
  · exact hb

/-- A completion is tame where its body is. -/
theorem Tame.onComplete {who : Requester} {kind : Purpose → Bool} {body : Access → State → State}
    (h : ∀ a u, u.regs.part ≠ .faulted → Tame s u → Tame s (body a u)) :
    Tame s (s.onComplete who kind body) := by
  unfold State.onComplete State.complete
  rcases nextDue who s.engine.flight with _ | ⟨a, rest⟩
  · exact Tame.refl
  · by_cases hk : kind a.purpose = true
    · simp only [hk, if_true]
      split
      · exact Tame.refl.engine
      · exact h _ _ ‹_› Tame.refl.engine
    · simp only [hk]
      exact Tame.refl

theorem Tame.endSweep (h : Tame s t) : Tame s t.endSweep := h.orders

theorem Tame.sweepOn {n : Nat} (h : Tame s t) : Tame s (t.sweepOn n) := by
  unfold State.sweepOn; split
  · exact h.orders
  · exact h.endSweep

/-- An order command is tame where its body is. -/
theorem Tame.takeOrder {kind : Nat → Bool} {body : OrderSlot → List Byte → State}
    (h : ∀ k data, Tame s (body k data)) : Tame s (s.takeOrder kind body) := by
  unfold State.takeOrder; split
  · simp only
    split
    · split
      · exact (h _ _).sweepOn
      · exact h _ _
    · exact Tame.refl
  · exact Tame.refl

/-- A key command is tame where its body is. -/
theorem Tame.takeKey {code : Nat → Bool} {body : Key → State} (h : ∀ k, Tame s (body k)) :
    Tame s (s.takeKey c code body) := by
  unfold State.takeKey; split
  · split
    · exact h _
    · exact Tame.refl
  · exact Tame.refl

/-- A fold of tame operations is tame. -/
theorem Tame.foldl {α : Type} {f : State → α → State} (hf : ∀ {u : State} (a : α), Tame s u → Tame s (f u a))
    (l : List α) (h : Tame s t) : Tame s (l.foldl f t) := by
  induction l generalizing t with
  | nil => exact h
  | cons a rest ih => exact ih (hf a h)

/-! ### Timeslots -/

/-- Timeslots change their owners together with the row of a channel that they are bound to (R113). -/
theorem Tame.rebound {r : ChanRow} {I : Vector InputSlot 64} {O : Vector OutputSlot 64} (h : Tame s t)
    (hk : r.ctx.keys.length ≤ (t.row c).ctx.keys.length)
    (hq : r.queue.length ≤ (t.row c).queue.length)
    (hs : O.map (fun o => (o.samples, o.word)) = t.outputs.map (fun o => (o.samples, o.word)))
    (hi : OwnersAgree t → ∀ (d : Chan) (k : Timeslot),
      (if d = c then r.ctx.inSlot else (t.row d).ctx.inSlot) = some k ↔ I[k].owner = some d)
    (ho : OwnersAgree t → ∀ (d : Chan) (k : Timeslot),
      (if d = c then r.ctx.outSlot else (t.row d).ctx.outSlot) = some k ↔ O[k].owner = some d) :
    Tame s (({ t with inputs := I, outputs := O } : State).setRow c r) := by
  have hrow : ∀ d, (({ t with inputs := I, outputs := O } : State).setRow c r).row d =
      if d = c then r else t.row d := fun d => row_setRow
  refine h.trans ⟨rfl, rfl, rfl, rfl, hs, fun d => ?_, fun q d => ?_, fun o => ⟨fun d k => ?_, fun d k => ?_⟩,
    fun k => ⟨k.1, k.2, k.3, k.4, k.5, k.6⟩⟩
  · rw [hrow]; split
    · subst d; exact hk
    · exact Nat.le_refl _
  · rw [hrow]; split
    · subst d; exact Nat.le_trans hq (q c)
    · exact q d
  · rw [hrow, setRow_inputs, ← hi o d k]
    split <;> rfl
  · rw [hrow, setRow_outputs, ← ho o d k]
    split <;> rfl

/-- What a channel is bound to once its timeslot has been released: nothing, and nobody owns the slot. -/
theorem agree_released {m n : Nat} {slot : Fin m → Option (Fin n)} {owner : Fin n → Option (Fin m)}
    (h : ∀ c t, slot c = some t ↔ owner t = some c) (c d : Fin m) (k : Fin n) :
    (if d = c then none else slot d) = some k ↔ (if slot c = some k then none else owner k) = some d := by
  by_cases hd : d = c
  · subst hd
    by_cases hk : slot d = some k <;> simp [hk, ← h]
  · by_cases hk : slot c = some k
    · have : owner k = some c := (h c k).1 hk
      have hne : ¬ c = d := fun e => hd e.symm
      simp [hd, hk, h, this, hne]
    · simp [hd, hk, h]

/-- What a channel is bound to once a timeslot of nobody else has taken the place of its own. -/
theorem agree_bound {m n : Nat} {slot : Fin m → Option (Fin n)} {owner : Fin n → Option (Fin m)}
    (h : ∀ c t, slot c = some t ↔ owner t = some c) (c d : Fin m) (i k : Fin n)
    (hi : ∀ e, owner i = some e → e = c) :
    (if d = c then some i else slot d) = some k ↔
      (if k = i then some c else if slot c = some k then none else owner k) = some d := by
  by_cases hki : k = i
  · subst hki
    by_cases hd : d = c
    · simp [hd]
    · have : slot d ≠ some k := fun e => hd (hi d ((h d k).1 e))
      have hne : ¬ c = d := fun e => hd e.symm
      simp [hd, this, hne]
  · have := agree_released h c d k
    by_cases hd : d = c
    · have hne : ¬ i = k := fun e => hki e.symm
      simp only [hd, if_true] at this ⊢
      simp only [hki, if_false, ← this, Option.some.injEq, hne]
      simp
    · simp only [hd, if_false] at this ⊢
      simp only [hki, if_false, ← this]

theorem owner_releaseInput {x : Option Timeslot} {k : Timeslot} :
    (s.releaseInput x).inputs[k].owner = if x = some k then none else s.inputs[k].owner := by
  rcases x with _ | i
  · simp [State.releaseInput]
  · simp only [State.releaseInput, Option.some.injEq, Fin.getElem_fin, Vector.getElem_set, Fin.val_inj]
    split <;> rfl

theorem owner_releaseOutput {x : Option Timeslot} {k : Timeslot} :
    (s.releaseOutput x).outputs[k].owner = if x = some k then none else s.outputs[k].owner := by
  rcases x with _ | i
  · simp [State.releaseOutput]
  · simp only [State.releaseOutput, Option.some.injEq, Fin.getElem_fin, Vector.getElem_set, Fin.val_inj]
    split <;> rfl

theorem released_eq (x y : Option Timeslot) : (s.releaseInput x).releaseOutput y =
    { s with inputs := (s.releaseInput x).inputs, outputs := (s.releaseOutput y).outputs } := by
  rcases x with _ | i <;> rcases y with _ | j <;> rfl

/-- Releasing a timeslot leaves what it sends. -/
theorem shown_releaseOutput {x : Option Timeslot} :
    (s.releaseOutput x).outputs.map (fun o => (o.samples, o.word)) =
      s.outputs.map (fun o => (o.samples, o.word)) := by
  rcases x with _ | i
  · rfl
  · ext k hk <;> simp only [State.releaseOutput, Vector.getElem_map, Vector.getElem_set] <;> split <;>
      simp_all

theorem row_abandonIf {b : Bool} {kind : Purpose → Bool} :
    (if b = true then s.abandon kind else s).row c = s.row c := by
  cases b <;> rfl

/-- A withdrawal takes the open request and the operation that serves it from the row, and nothing else. -/
theorem row_withdrawOpen : (s.withdrawOpen c).row c =
    if (s.row c).ctx.openRequest.isNone then s.row c
    else { s.row c with op := none, ctx := { (s.row c).ctx with openRequest := none } } := by
  unfold State.withdrawOpen
  split
  · rfl
  · simp only [row_modRow_self]
    split
    · exact congrArg (fun r : ChanRow => { r with op := none, ctx := { r.ctx with openRequest := none } })
        row_abandonIf
    · exact congrArg (fun r : ChanRow => { r with op := none, ctx := { r.ctx with openRequest := none } })
        row_abandonIf

theorem withdrawOpen_inSlot : ((s.withdrawOpen c).row c).ctx.inSlot = (s.row c).ctx.inSlot := by
  rw [row_withdrawOpen]; split <;> rfl

theorem withdrawOpen_outSlot : ((s.withdrawOpen c).row c).ctx.outSlot = (s.row c).ctx.outSlot := by
  rw [row_withdrawOpen]; split <;> rfl

theorem withdrawOpen_queue : ((s.withdrawOpen c).row c).queue = (s.row c).queue := by
  rw [row_withdrawOpen]; split <;> rfl

/-- The channel loses its timeslots, which nobody owns then. -/
theorem Tame.released {r : ChanRow} (h : Tame s t) (hk : r.ctx.keys = [])
    (hq : r.queue.length ≤ (t.row c).queue.length) (hi : r.ctx.inSlot = none) (ho : r.ctx.outSlot = none) :
    Tame s (((t.releaseInput (t.row c).ctx.inSlot).releaseOutput (t.row c).ctx.outSlot).setRow c r) := by
  rw [released_eq]
  refine h.rebound (by simp [hk]) hq shown_releaseOutput (fun o d k => ?_) (fun o d k => ?_)
  · rw [hi, owner_releaseInput]
    exact agree_released (slot := fun d => (t.row d).ctx.inSlot) (owner := fun k => t.inputs[k].owner) o.input c d k
  · rw [ho, owner_releaseOutput]
    exact agree_released (slot := fun d => (t.row d).ctx.outSlot) (owner := fun k => t.outputs[k].owner) o.output c d k

/-! ### Suspending, unbinding, pending actions -/

theorem Tame.unbind {n m : Nat} (h : Tame s t) : Tame s (t.unbind c n m) := by
  have key : Tame s ((((t.withdrawOpen c).releaseInput (t.row c).ctx.inSlot).releaseOutput
      (t.row c).ctx.outSlot).modRow c fun r => { r with
        ctx := Context.reset, codec := PauseRun.reset, flush := none, placement := none, sheet := none,
        ahead := [], began := false, op := none }) := by
    rw [← withdrawOpen_inSlot, ← withdrawOpen_outSlot]
    refine h.withdrawOpen.released rfl (Nat.le_of_eq ?_) rfl rfl
    rw [released_eq]
    rfl
  unfold State.unbind
  simp only
  split <;> split
  · exact key.finish.finish
  · exact key.finish
  · exact key.finish
  · exact key

theorem Tame.actClose (h : Tame s t) : Tame s (t.actClose c) := by
  unfold State.actClose; split
  · exact Tame.stopTake (h.modCtx (Nat.zero_le _) rfl rfl)
  · exact h.stopPlayback.suspend
  · exact h.suspend
  · exact h.unbind
  · exact h

theorem Tame.fileNow {b : Bool} (h : Tame s t) : Tame s (t.fileNow c b) := by
  unfold State.fileNow
  simp only
  split
  · split
    · exact (Tame.modCtx h.discardLetter (Nat.le_refl _) rfl rfl).finish
    · exact h.discardLetter
  · exact h.modRow (Nat.le_refl _) id rfl rfl

theorem Tame.actFile (h : Tame s t) : Tame s (t.actFile c) := by
  unfold State.actFile; split
  · exact h.stopTake
  · exact h.stopPlayback.fileNow
  · exact h.fileNow
  · split
    · exact (h.modCtx (Nat.le_refl _) rfl rfl).finish
    · exact h
  · exact h

theorem Tame.leaveBusy (h : Tame s t) : Tame s (t.leaveBusy c) := by
  unfold State.leaveBusy
  simp only
  have hf : Tame s (if (t.row c).ctx.pendingFile.isSome = true then t.actFile c else t) := h.actFile.ite h
  exact h.actClose.ite (hf.actClose.ite hf)

theorem Tame.answerOpen {a : OpenAnswer} (h : Tame s t) : Tame s (t.answerOpen c a) := by
  have hn : Tame s (t.modRow c fun r => { r with op := none, ctx := { r.ctx with openRequest := none } }) :=
    h.modRow (Nat.le_refl _) id rfl rfl
  unfold State.answerOpen
  cases a
  case noCard =>
    simp only; split
    · exact hn.raise.actClose
    · exact hn.raise
  case storageOut =>
    simp only; split
    · exact hn.raise.actClose
    · exact hn.raise
  case card n =>
    have hc := (Tame.setHolding (n := n) (x := .held c) hn).modRow (c := c) (f := fun r => { r with
        spans := some [],
        ctx := { r.ctx with
          letter := some { card := n, priority := r.ctx.defaultPriority, takes := 0 },
          cursor := 0, state := .ready } }) (Nat.le_refl _) id rfl rfl
    simp only; split
    · exact hc.actClose
    · split
      · exact hc.startTake
      · exact hc

theorem Tame.openWithSheet {n : Nat} (h : Tame s t) : Tame s (t.openWithSheet c n) := by
  unfold State.openWithSheet; split
  · exact h.sendMapEntry.setImage.writeCard.answerOpen
  · exact h

theorem Tame.openWithoutSheet (h : Tame s t) : Tame s (t.openWithoutSheet c) := by
  unfold State.openWithoutSheet
  refine Tame.answerOpen ?_
  split
  · exact h.endHolding
  · exact h

/-! ### The claim scan -/

theorem Tame.readScanLine (h : Tame s t) : Tame s t.readScanLine := h.sheets.sendRead

theorem Tame.serveClaim (h : Tame s t) : Tame s t.serveClaim := by
  unfold State.serveClaim; split
  · simp only; split
    · exact h.sheets.popStack.serveTake
    · exact h.sheets.popStack.openWithSheet
  · exact h

theorem Tame.claim {n : Nat} (h : Tame s t) : Tame s (t.claim n) :=
  h.sendMapEntry.sheets.evaluateHold.serveClaim

theorem Tame.refuseRequest {q : SheetRequest} (h : Tame s t) : Tame s (t.refuseRequest q) := by
  cases q
  · exact h.refuseTake
  · exact h.openWithoutSheet

theorem Tame.endScan (h : Tame s t) : Tame s t.endScan := by
  have key : Tame s (if t.sheets.stack.isEmpty = true then
      t.sheets.waiting.foldl State.refuseRequest
        { ({ t with sheets := { t.sheets with scan := .idle, scanAgain := false } } : State) with
          sheets := { t.sheets with scan := .idle, scanAgain := false, storageOut := true, waiting := [] } }
      else { t with sheets := { t.sheets with scan := .idle, scanAgain := false } }) := by
    split
    · exact Tame.foldl (fun _ hu => hu.refuseRequest) _ h.sheets
    · exact h.sheets
  unfold State.endScan
  simp only
  split
  · exact Tame.scanEvent key
  · exact key

theorem Tame.examine {line : List Byte} {n m : Nat} (h : Tame s t) : Tame s (State.examine line n m t) := by
  induction n generalizing m t with
  | zero => exact h.readScanLine
  | succ n ih =>
    simp only [State.examine]; split
    · exact h.endScan
    · split
      · exact ih h.sheets.claim
      · split
        · exact h.sheets.endScan
        · exact ih h.sheets

theorem Tame.returnStack (h : Tame s t) : Tame s t.returnStack := by
  have key : Tame s (t.sheets.stack.foldl State.returnOne t) :=
    Tame.foldl (fun _ hu => hu.sheets.sendMapEntry.raiseTally) _ h
  exact (key.sheets (x := { (t.sheets.stack.foldl State.returnOne t).sheets with
    stack := [], storageOut := false })).stackReturned (x := true)

/-! ### Sweeps, renders and quiesce -/

theorem Tame.requestSweep (h : Tame s t) : Tame s t.requestSweep := by
  unfold State.requestSweep; split
  · split <;> exact h.orders
  · exact h

theorem Tame.cutSweep (h : Tame s t) : Tame s t.cutSweep := h.abandon.orders

theorem Tame.setRender {x : RenderContext} (h : Tame s t) : Tame s (t.setRender x) := h.render

theorem Tame.dropRenderReads (h : Tame s t) : Tame s t.dropRenderReads := h.abandon

theorem Tame.stopRender (h : Tame s t) : Tame s t.stopRender := by
  unfold State.stopRender; split
  · exact h.dropRenderReads.render
  · split
    · exact h.render
    · exact h
  · exact h

theorem Tame.quiesceRenders (h : Tame s t) : Tame s t.quiesceRenders := by
  unfold State.quiesceRenders; split
  · exact h
  · exact (Tame.foldl (fun _ hu => hu.finish) _ h.orders).stopRender

/-- Quiesce begins with the part state; all the rest of it is tame. -/
theorem Tame.beginQuiesce :
    Tame ({ s with regs := { s.regs with part := .quiescing } } : State) s.beginQuiesce :=
  Tame.foldl (fun _ hu => hu.actClose) _ Tame.refl.cutSweep.quiesceRenders

/-! ### Cards -/

theorem Tame.readSearchCard (h : Tame s t) : Tame s t.readSearchCard := h.sendRead

theorem Tame.startSearch (h : Tame s t) : Tame s t.startSearch := by
  unfold State.startSearch; split
  · refine Tame.readSearchCard (Tame.cards h ?_ ?_) <;> rfl
  · exact h

theorem Tame.takeCard {n : Nat} (h : Tame s t) : Tame s (t.takeCard c n) := by
  have ho : Tame s ((({ t with cards := { t.cards with search := none } } : State).setHolding n
      (.opening c)).setOp c (some (.opening (some n)))) := by
    refine Tame.setOp (Tame.setHolding (Tame.cards h ?_ ?_)) <;> rfl
  have hr := Tame.requestSheet (q := .index c) ho
  unfold State.takeCard
  simp only
  split <;> rename_i heq <;> rw [heq] at hr
  · exact hr.openWithSheet
  · exact hr
  · exact hr.openWithoutSheet

theorem Tame.searchCard {q : Search} {line : List Byte} (h : Tame s t) : Tame s (t.searchCard q line) := by
  have ht : ∀ n, Tame s ({ t with cards := { t.cards with cursor := n } } : State) := fun n => h.cards rfl rfl
  unfold State.searchCard
  simp only
  split
  · exact (ht _).takeCard
  · split
    · refine Tame.readSearchCard (Tame.cards (ht _) ?_ ?_) <;> rfl
    · refine Tame.answerOpen (Tame.cards (ht _) ?_ ?_) <;> rfl

theorem Tame.beginCheckpoint (h : Tame s t) : Tame s (t.beginCheckpoint c) := by
  unfold State.beginCheckpoint; split
  · exact h
  · split
    · exact h
    · exact h.setImage.setStage.sendWrite

theorem Tame.writeValid (h : Tame s t) : Tame s (t.writeValid c) := by
  unfold State.writeValid; split
  · exact h
  · exact h.setImage.setStage.writeCard

theorem Tame.writeIndex {spans : List Span} {n k m : Nat} (h : Tame s t) :
    Tame s (State.writeIndex c k spans n m t) := by
  induction n generalizing m t with
  | zero => exact h
  | succ n ih => exact ih h.sendWrite

theorem Tame.indexStage (h : Tame s t) : Tame s (t.indexStage c) := by
  unfold State.indexStage; split
  · exact h
  · simp only; split
    · exact h.writeValid
    · exact h.setStage.writeIndex

theorem Tame.endDiscard {n : Nat} (h : Tame s t) : Tame s (t.endDiscard c n) := by
  unfold State.endDiscard; split
  · exact h
  · exact (Tame.foldl (fun _ hu => hu.freeClosed) _ h.endHolding).modRow (Nat.le_refl _) id rfl rfl

theorem Tame.writeFirst {n : Nat} {line : List Byte} {e : CardWrite} (h : Tame s t) :
    Tame s (t.writeFirst n line e) := by
  unfold State.writeFirst
  simp only
  split
  · exact h.sendWrite.endDiscard
  · exact h.sendWrite

theorem Tame.writeFiled {n : Nat} {l : List Nat} (h : Tame s t) : Tame s (State.writeFiled c n l t) := by
  induction l generalizing t with
  | nil => exact h
  | cons a rest ih => exact ih h.sendMapEntry

theorem Tame.checkpointDone (h : Tame s t) : Tame s (t.checkpointDone c) := by
  unfold State.checkpointDone; split
  · exact (h.modRow (Nat.le_refl _) id rfl rfl).leaveBusy
  · split
    · exact h
    · exact h.setStage.writeFiled

theorem Tame.writeLastCard (h : Tame s t) : Tame s (t.writeLastCard c) := by
  unfold State.writeLastCard; split
  · refine Tame.writeCard (Tame.setStage (Tame.setImage (Tame.cards h ?_ ?_))) <;> rfl
  · exact h.setImage.setStage.writeCard
  · exact h

theorem Tame.openNext (h : Tame s t) : Tame s (t.openNext c) := by
  have ht : Tame s (t.modCtx c fun x => { x with openAfter := false }) := h.modCtx (Nat.le_refl _) rfl rfl
  unfold State.openNext
  simp only
  split
  · exact ht.openLetter
  · exact ht

theorem Tame.filingDone (h : Tame s t) : Tame s (t.filingDone c) := by
  unfold State.filingDone
  split
  · exact h
  · rename_i l image _
    have key : ∀ roll, Tame s (((((({ t with cards := { t.cards with roll := roll } } : State).handOff
        c).2.endHolding l.card).modRow c fun r => { r with
        op := none, ctx := { r.ctx with letter := none, cursor := 0, state := .idle } }).raise c
        .filed).reportFiling l.priority) := fun roll => by
      refine Tame.reportFiling (Tame.raise (Tame.modRow (Tame.endHolding (Tame.handOff
        (Tame.cards h ?_ ?_))) (Nat.le_refl _) id rfl rfl)) <;> rfl
    simp only
    refine Tame.openNext (Tame.leaveBusy ?_)
    split
    · exact (Tame.modCtx (key _) (Nat.le_refl _) rfl rfl).finish
    · exact key _

theorem Tame.suspensionDone (h : Tame s t) : Tame s (t.suspensionDone c) := by
  unfold State.suspensionDone; split
  · exact h
  · exact h.handOff.endHolding.unbind

theorem Tame.performDiscard {d : Discard} (h : Tame s t) : Tame s (t.performDiscard c d) := by
  unfold State.performDiscard; split
  · exact h.setImage.writeCard
  · exact h.endDiscard

/-! ### Renders -/

theorem Tame.readRenderCard {n : Nat} (h : Tame s t) : Tame s (t.readRenderCard n) :=
  h.sendRead.sendRead.sendRead.sendRead

theorem Tame.readRenderIndex {x : RenderContext} (h : Tame s t) : Tame s (t.readRenderIndex x) :=
  h.setRender.sendRead

theorem Tame.askRender {n : Nat} (h : Tame s t) : Tame s (State.askRender n t) := by
  induction n generalizing t with
  | zero => exact h
  | succ n ih =>
    unfold State.askRender
    split
    · exact h
    split
    · exact h
    split
    · exact h
    split
    · exact h
    exact Tame.ite (Tame.ite (ih h.setRender.sendRead) h) (ih h.setRender)

theorem Tame.askOn (h : Tame s t) : Tame s t.askOn := h.askRender

theorem Tame.sendFrame {n : Nat} {l : List (Nat × List Byte)} (h : Tame s t) :
    Tame s (State.sendFrame n l t) := by
  induction l generalizing t with
  | nil => exact h
  | cons a rest ih => exact ih h.sendWrite

theorem Tame.drainRender {b : Bool} (h : Tame s t) : Tame s (t.drainRender b) := by
  unfold State.drainRender; split
  · exact h
  · exact h.dropRenderReads.render

theorem Tame.settleHanded (h : Tame s t) : Tame s t.settleHanded := by
  unfold State.settleHanded
  split
  · exact h
  split
  · split
    · exact h.drainRender
    · split
      · exact h.drainRender
      · exact h
  · exact h

theorem Tame.handOn (h : Tame s t) : Tame s t.handOn := by
  unfold State.handOn; split
  · exact h
  · split
    · split
      · exact h.setRender.sendFrame.settleHanded
      · split
        · exact h.drainRender
        · exact h.setRender
    · exact h

theorem Tame.activateRender (h : Tame s t) : Tame s t.activateRender := by
  unfold State.activateRender; split
  · split
    · exact h.setRender.readRenderCard
    · exact h
  · exact h

theorem Tame.beginOutput {x : RenderContext} (h : Tame s t) : Tame s (t.beginOutput x) := by
  unfold State.beginOutput
  simp only
  split
  · exact h.setRender.drainRender
  · exact h.setRender.askOn

theorem Tame.fixRange {x : RenderContext} (h : Tame s t) : Tame s (t.fixRange x) := by
  unfold State.fixRange
  simp only
  split
  · exact h.setRender.drainRender
  split
  · exact h.setRender.drainRender
  split
  · exact h.setRender.drainRender
  split
  · exact h.beginOutput
  split
  · exact h.setRender.sendRead
  · exact h.beginOutput

theorem Tame.takeRenderCard {x : RenderContext} {data : List Byte} (h : Tame s t) :
    Tame s (t.takeRenderCard x data) := by
  unfold State.takeRenderCard
  simp only
  split
  · exact h.fixRange
  · exact h.readRenderIndex

theorem Tame.takeRenderLine {x : RenderContext} {data : List Byte} (h : Tame s t) :
    Tame s (t.takeRenderLine x data) := by
  unfold State.takeRenderLine
  simp only
  split
  · exact h.readRenderIndex
  · exact h.fixRange

theorem Tame.seekRecord {x : RenderContext} {n m : Nat} {data : List Byte} (h : Tame s t) :
    Tame s (t.seekRecord x n m data) := by
  unfold State.seekRecord
  split
  · exact h
  simp only
  split
  · exact h.beginOutput
  split
  · exact h.beginOutput.handOn
  split
  · exact h.beginOutput
  · exact h.setRender.sendRead

theorem Tame.dropStale {x : RenderContext} {n : Nat} (h : Tame s t) : Tame s (t.dropStale x n).1 :=
  h.abandon (k := fun p => match p with
    | .renderRecordRead m _ => m == n
    | _ => false)

theorem Tame.decodeRecord {x : RenderContext} {p : RenderPlace} {data : List Byte} (h : Tame s t) :
    Tame s (t.decodeRecord x p data) := by
  unfold State.decodeRecord
  split
  · exact h
  simp only
  refine Tame.handOn (Tame.askOn (Tame.setRender (Tame.codec ?_)))
  exact Tame.fst_ite h.dropStale h

theorem Tame.frameWritten {n : Nat} (h : Tame s t) : Tame s (t.frameWritten n) := by
  unfold State.frameWritten
  split
  · exact h
  exact Tame.ite h.setRender h

theorem Tame.frameFailed {n : Nat} (h : Tame s t) : Tame s (t.frameFailed n) := by
  unfold State.frameFailed
  split
  · exact h
  · exact h.setRender.drainRender

theorem Tame.endRender {x : RenderContext} (h : Tame s t) : Tame s (t.endRender x) := by
  have hr : Tame s ({ t with render := none } : State) := h.render
  exact Tame.finish (Tame.orders hr (x := { t.orders with renders := t.orders.renders.tail }))

end Sys2Proof.Machine
end

section
/-! PROOFS. What the bodies of the key, start sweep, order and reopen commands leave alone. -/

namespace Sys2Proof.Machine

open Sys2Proof

variable {s t : State} {c : Chan}

/-! ### Completions of a channel's accesses -/

theorem Tame.headerDone {n : Nat} (h : Tame s t) : Tame s (t.headerDone n) := by
  unfold State.headerDone
  exact h.ite (Tame.foldl (fun _ hu => hu.freeSheet) _ h.sheets)

theorem length_dropWriting {q : List QueueEntry} : (dropWriting q).length ≤ q.length := by
  induction q with
  | nil => simp [dropWriting]
  | cons e rest ih => cases e <;> simp [dropWriting, ih]

theorem Tame.recordWritten (h : Tame s t) :
    Tame s ((t.modRow c fun r => { r with queue := dropWriting r.queue }).settled c) :=
  (h.modRow (Nat.le_refl _) (fun a => Nat.le_trans length_dropWriting a) rfl rfl).settled

theorem Tame.takeRecord {data : List Byte} (h : Tame s t) : Tame s (t.modRow c (ChanRow.takeRecord data)) :=
  h.modRow (Nat.le_refl _) id rfl rfl

/-! ### Frames heard and lines lost -/

theorem Tame.lineLost (h : Tame s t) : Tame s (t.lineLost c) := by
  unfold State.lineLost; split
  · exact h.stopTake
  · exact h.stopPlayback
  · exact h

theorem Tame.hearFrame {xs : List Sample} (h : Tame s t) : Tame s (t.hearFrame c xs) := by
  unfold State.hearFrame; split
  · simp only
    refine Tame.offerAll (Tame.codec ?_)
    exact h.modRow (Nat.le_refl _) id rfl rfl
  · exact h

theorem Tame.endRecord (h : Tame s t) : Tame s (t.endRecord c) := by
  have ht : Tame s (t.modRow c fun r => { r with
      ahead := r.ahead.tail, ctx := { r.ctx with cursor := r.ctx.playPos.getD r.ctx.cursor } }) :=
    h.modRow (Nat.le_refl _) id rfl rfl
  exact ht.endPlayback.ite ht.askPlayback

theorem Tame.playFrame (h : Tame s t) : Tame s (t.playFrame c).2 := by
  unfold State.playFrame
  simp only
  split
  · split
    · exact h
    · split
      · have hp : ∀ n : Nat, Tame s (t.modCtx c fun x => { x with playPos := some n }) :=
          fun n => h.modCtx (Nat.le_refl _) rfl rfl
        exact (hp _).endRecord.ite (hp _)
      · have hp : ∀ n m : Nat, Tame s (({ t with codec := { t.codec with inputOps := m } } : State).modCtx c
            fun x => { x with playPos := some n }) :=
          fun n m => h.codec.modCtx (Nat.le_refl _) rfl rfl
        exact (hp _ _).endRecord.ite (hp _ _)
  · exact h

/-! ### Keys -/

theorem Tame.popKey (h : Tame s t) : Tame s (t.popKey c) :=
  h.modCtx (by simp) rfl rfl

theorem Tame.refuseKey (h : Tame s t) : Tame s (t.refuseKey c) := h.popKey.raise

theorem Tame.letterKey {act : State → State} (h : Tame s t) (ha : ∀ {u}, Tame s u → Tame s (act u)) :
    Tame s (t.letterKey c act) := by
  unfold State.letterKey; split
  · exact h.refuseKey
  · exact h.stopTake
  · exact ha h.popKey

theorem Tame.fileThenOpen (h : Tame s t) : Tame s (t.fileThenOpen c) := by
  have ht : Tame s (if t.chanState c = .playing then t.stopPlayback c else t) := h.stopPlayback.ite h
  exact ht.fileNow.openLetter.ite (Tame.modCtx ht.fileNow (Nat.le_refl _) rfl rfl)

theorem Tame.actNew (h : Tame s t) : Tame s (t.actNew c) := by
  unfold State.actNew; split
  · exact h.popKey.openLetter
  · exact h.stopTake
  · exact h.popKey.raise.ite h.popKey.fileThenOpen

theorem Tame.actRecord (h : Tame s t) : Tame s (t.actRecord c) := by
  unfold State.actRecord
  simp only
  split
  · exact h.popKey.openLetter
  · exact h.popKey.startTake
  · exact h.popKey.stopPlayback.startTake
  · exact h.popKey

theorem Tame.actStop (h : Tame s t) : Tame s (t.actStop c) := by
  unfold State.actStop
  simp only
  split
  · exact h.popKey.stopTake
  · exact h.popKey.stopPlayback
  · exact h.popKey

theorem Tame.actPlay (h : Tame s t) : Tame s (t.actPlay c) := h.playFrom.ite h

theorem Tame.moveTo {n : Nat} (h : Tame s t) : Tame s (t.moveTo c n) := by
  unfold State.moveTo
  simp only
  split
  · exact h.playFrom.ite h.endPlayback
  · exact h.modCtx (Nat.le_refl _) rfl rfl

/-! ### The start sweep -/

theorem Tame.setPhase {x : StartPhase} (h : Tame s t) : Tame s (t.setPhase x) := h.sweep

theorem Tame.readStartCard {n : Nat} (h : Tame s t) : Tame s (t.readStartCard n) := h.setPhase.sendRead

theorem Tame.readStartMap {n : Nat} (h : Tame s t) : Tame s (t.readStartMap n) := h.setPhase.sendRead

theorem Tame.readStartSlot {n : Nat} (h : Tame s t) : Tame s (t.readStartSlot n) := h.setPhase.sendRead

theorem Tame.decideCard {n : Nat} {data : List Byte} (h : Tame s t) : Tame s (t.decideCard n data) := by
  unfold State.decideCard
  simp only
  have key : ∀ (x : StartSweep) (b : List Byte) (k : Nat), Tame s (if byteAt data 0 = cardOpen then
      ({ t with sweep := x } : State).sendWrite .startSweep .startCardWrite k b
      else { t with sweep := x }) := fun x b k => (Tame.sendWrite h.sweep).ite h.sweep
  split
  · exact (key _ _ _).readStartCard
  · refine Tame.readStartMap (Tame.cards (key _ _ _) ?_ ?_) <;> rfl

theorem Tame.decideEntry {n m k : Nat} (h : Tame s t) : Tame s (t.decideEntry n m k) := by
  have key : ∀ x : StartSweep, ∀ p : Prop, [Decidable p] → Tame s (if p then { t with sweep := x } else t) :=
    fun x p _ => Tame.ite h.sweep h
  unfold State.decideEntry
  simp only
  split
  · exact (key _ _).sendMapEntry
  · exact key _ _

theorem Tame.decideEntries {line : List Byte} {n m : Nat} (h : Tame s t) :
    Tame s (State.decideEntries line n m t) := by
  induction n generalizing m t with
  | zero => exact h
  | succ n ih => exact ih h.decideEntry

theorem Tame.decideLine {n : Nat} {data : List Byte} (h : Tame s t) : Tame s (t.decideLine n data) :=
  h.decideEntries.readStartMap.ite (Tame.readStartSlot h.decideEntries.sheets)

theorem Tame.endAnswers (h : Tame s t) : Tame s t.endAnswers := h.setPhase.requestDesk.ite h

theorem Tame.decideSlot {k : OrderSlot} {data : List Byte} (h : Tame s t) : Tame s (t.decideSlot k data) := by
  have key : Tame s (if slotState data = slotAccepted then t.finishBy .startSweep k codeResetLost 0 0 else t) :=
    h.finishBy.ite h
  exact key.readStartSlot.ite key.setPhase.endAnswers

/-! ### The order book -/

theorem Tame.readSlots (h : Tame s t) : Tame s t.readSlots :=
  Tame.foldl (fun _ hu => hu.sendRead) _ h.orders

theorem abandonIf_inputs {b : Bool} {kind : Purpose → Bool} :
    (if b = true then s.abandon kind else s).inputs = s.inputs := by
  cases b <;> rfl

theorem abandonIf_outputs {b : Bool} {kind : Purpose → Bool} :
    (if b = true then s.abandon kind else s).outputs = s.outputs := by
  cases b <;> rfl

theorem withdrawOpen_inputs : (s.withdrawOpen c).inputs = s.inputs := by
  unfold State.withdrawOpen
  split
  · rfl
  · simp only [modRow_inputs]
    split <;> exact abandonIf_inputs

theorem withdrawOpen_outputs : (s.withdrawOpen c).outputs = s.outputs := by
  unfold State.withdrawOpen
  split
  · rfl
  · simp only [modRow_outputs]
    split <;> exact abandonIf_outputs

/-- A timeslot that no other channel owns is the channel's own or nobody's. -/
theorem owner_of_otherOwner {x : Option Chan} (h : otherOwner x c = none) : ∀ e, x = some e → e = c := by
  rintro e rfl
  simpa [otherOwner, Option.filter] using h

theorem owner_setInput {I : Vector InputSlot 64} {i j : Timeslot} {x : InputSlot} :
    (I.set i x)[j].owner = if j = i then x.owner else I[j].owner := by
  simp only [Fin.getElem_fin, Vector.getElem_set, eq_comm (a := j), Fin.ext_iff]
  split <;> rfl

theorem owner_setOutput {O : Vector OutputSlot 64} {i j : Timeslot} {x : OutputSlot} :
    (O.set i x)[j].owner = if j = i then x.owner else O[j].owner := by
  simp only [Fin.getElem_fin, Vector.getElem_set, eq_comm (a := j), Fin.ext_iff]
  split <;> rfl

/-- A change of the owner leaves what a timeslot sends. -/
theorem shown_setOwner {O : Vector OutputSlot 64} {i : Timeslot} {x : Option Chan} :
    (O.set i { O[i] with owner := x }).map (fun o => (o.samples, o.word)) =
      O.map (fun o => (o.samples, o.word)) := by
  ext k hk <;> simp only [Vector.getElem_map, Vector.getElem_set] <;> split <;> simp_all

/-- Binding gives the channel two timeslots that no other channel owns (R2, R136). -/
theorem Tame.bind {o : SetupOrder} {i k : Timeslot} (h : Tame s t)
    (hi : otherOwner t.inputs[i].owner c = none) (hk : otherOwner t.outputs[k].owner c = none) :
    Tame s (t.bind c o i k) := by
  rw [← withdrawOpen_inputs (c := c)] at hi
  rw [← withdrawOpen_outputs (c := c)] at hk
  unfold State.bind
  simp only [released_eq]
  rw [← withdrawOpen_inSlot, ← withdrawOpen_outSlot]
  refine h.withdrawOpen.rebound (Nat.zero_le _) (Nat.le_refl _)
    (shown_setOwner.trans shown_releaseOutput) (fun o d j => ?_) (fun o d j => ?_)
  · rw [owner_setInput, owner_releaseInput]
    exact agree_bound (slot := fun d => ((t.withdrawOpen c).row d).ctx.inSlot)
      (owner := fun j => (t.withdrawOpen c).inputs[j].owner) o.input c d i j (owner_of_otherOwner hi)
  · rw [owner_setOutput, owner_releaseOutput]
    exact agree_bound (slot := fun d => ((t.withdrawOpen c).row d).ctx.outSlot)
      (owner := fun j => (t.withdrawOpen c).outputs[j].owner) o.output c d k j (owner_of_otherOwner hk)

theorem Tame.stationSetup {k : OrderSlot} {o : SetupOrder} (h : Tame s t) : Tame s (t.stationSetup k o) := by
  unfold State.stationSetup
  refine Tame.ite ?_ h.finish
  simp only
  have key : ∀ c i j, Tame s (match otherOwner t.inputs[i].owner c, otherOwner t.outputs[j].owner c with
      | some d, _ => t.finish k codeRefusedSlotTaken d.val 0
      | none, some d => t.finish k codeRefusedSlotTaken d.val 0
      | none, none => (t.bind c o i j).finish k codeDone 0 0) := by
    intro c i j
    split
    · exact h.finish
    · exact h.finish
    · exact (h.bind ‹_› ‹_›).finish
  split
  · exact key _ _ _
  · exact key _ _ _
  · exact h.finish

theorem Tame.stationClose {k : OrderSlot} (h : Tame s t) : Tame s (t.stationClose k c) :=
  h.finish.ite (Tame.modCtx h.accept (Nat.le_refl _) rfl rfl).actClose

theorem Tame.fileLetter {k : OrderSlot} (h : Tame s t) : Tame s (t.fileLetter k c) :=
  (Tame.modCtx h.accept (Nat.le_refl _) rfl rfl).actFile.ite h.finish

theorem Tame.readOrderCard {k : OrderSlot} {n : Nat} (h : Tame s t) : Tame s (t.readOrderCard k n) :=
  Tame.sendRead h.orders

theorem Tame.reopenOrder {k : OrderSlot} {data : List Byte} (h : Tame s t) : Tame s (t.reopenOrder k data) := by
  unfold State.reopenOrder
  simp only
  split
  · split
    · split
      · exact h.finish
      · exact h.readOrderCard
    · exact h.finish
  · exact h.finish

theorem Tame.renderCheck {k : OrderSlot} {data : List Byte} (h : Tame s t) : Tame s (t.renderCheck k data) := by
  unfold State.renderCheck
  refine h.ite ?_
  split
  · exact h.finish
  · simp only
    split
    · exact h.finish
    · exact h.readOrderCard

theorem Tame.acceptReopen {k : OrderSlot} {n : Nat} (h : Tame s t) : Tame s (t.acceptReopen k n c) :=
  (Tame.modRow h.accept (Nat.le_refl _) id rfl rfl).sendRead.sendRead.sendRead.sendRead

theorem Tame.decideReopen {k : OrderSlot} {data line : List Byte} (h : Tame s t) :
    Tame s (t.decideReopen k data line) := by
  unfold State.decideReopen
  split
  · split
    · exact h.finish
    · exact h.finish
    · exact h.acceptReopen
  · exact h

theorem Tame.decideRender {k : OrderSlot} {data line : List Byte} (h : Tame s t) :
    Tame s (t.decideRender k data line) := by
  unfold State.decideRender
  split
  · exact h.finish
  · exact Tame.orders h.accept
  · exact h

theorem Tame.cancel {k j : OrderSlot} (h : Tame s t) : Tame s (t.cancel k j) := by
  unfold State.cancel
  split
  · exact h.stopRender.finish
  · exact (Tame.finish h.orders).finish
  · exact h.finish.finish
  · exact h.finish
  · exact h.finish

theorem Tame.notice {k : OrderSlot} {n : Nat} (h : Tame s t) : Tame s (t.notice k c n) :=
  h.finish.ite (h.modCtx (Nat.le_refl _) rfl rfl).finish

theorem Tame.returnSheets {k : OrderSlot} {n : Nat} (h : Tame s t) : Tame s (t.returnSheets k n) :=
  h.raiseTally.scanEvent.finish

/-! ### Reopens -/

theorem Tame.answerReopen {n m k : Nat} (h : Tame s t) : Tame s (t.answerReopen c n m k) := by
  unfold State.answerReopen; split
  · exact h.finish
  · exact h

theorem Tame.failReopen {n : Nat} (h : Tame s t) : Tame s (t.failReopen c n) :=
  (h.modRow (Nat.le_refl _) id rfl rfl).answerReopen.leaveBusy

theorem Tame.undoReopen {l : List Span} (h : Tame s t) : Tame s (t.undoReopen c l) := by
  have key : ∀ l p, Tame s { t with letters := {
      live := List.foldl (fun table n => Count.set table n 0) t.letters.live l,
      records := t.letters.records.filter p } } := fun l p =>
    h.letters (fun a b => ⟨wf_countFold a, pos_countFold b⟩) fun a => wf_filter a
  unfold State.undoReopen
  refine Tame.modRow (key _ _) ?_ ?_ ?_ ?_ <;> simp

theorem Tame.damageReopen {n : Nat} {k : Card} {l : List Span} (h : Tame s t) :
    Tame s (t.damageReopen c n k l) :=
  h.undoReopen.writeCard.endHolding.failReopen

theorem Tame.readReopenMap {k : Card} {n : Nat} {l : List Nat} (h : Tame s t) :
    Tame s (t.readReopenMap c k n l) := h.setOp.sendRead

theorem Tame.reconcile {n m k : Nat} (h : Tame s t) : Tame s (t.reconcile n m k) :=
  h.sendMapEntry.ite (h.sendMapEntry.ite h.freeClosed)

theorem Tame.completeReopen {n : Nat} {k : Card} (h : Tame s t) : Tame s (t.completeReopen c n k) :=
  (h.modRow (Nat.le_refl _) id rfl rfl).answerReopen.leaveBusy

theorem Tame.endMap {n : Nat} {k : Card} {l : List Nat} (h : Tame s t) : Tame s (t.endMap c n k l) :=
  Tame.ite (Tame.completeReopen (Tame.foldl (fun _ hu => hu.reconcile) _ h)) h.damageReopen

theorem Tame.noteLine {n m : Nat} {k : Card} {l : List Nat} {data : List Byte} (h : Tame s t) :
    Tame s (t.noteLine c n k m l data) := h.readReopenMap.ite h.endMap

theorem Tame.nextEntry {n : Nat} {k : Card} {l : List Span} (h : Tame s t) : Tame s (t.nextEntry c n k l) := by
  unfold State.nextEntry
  simp only
  refine h.damageReopen.ite ?_
  split
  · exact h.readReopenMap.ite h.damageReopen
  · exact h.setOp.sendRead.ite h.damageReopen

theorem Tame.keepRecord {n m j : Nat} {k : Card} {l : List Span} {data : List Byte} (h : Tame s t) :
    Tame s (t.keepRecord c n k l m j data) := by
  unfold State.keepRecord
  split
  · exact h
  · simp only
    refine h.damageReopen.ite ?_
    exact (Tame.sendRead h.entered.setOp).ite (h.entered.damageReopen.ite
      (Tame.nextEntry (Tame.modRow h.entered (Nat.le_refl _) id rfl rfl)))

theorem Tame.readReopenIndex {n m : Nat} {k : Card} {l : List Span} (h : Tame s t) :
    Tame s (t.readReopenIndex c n k m l) := h.setOp.sendRead.ite h.nextEntry

theorem Tame.reopenCardRead {n : Nat} {data : List Byte} (h : Tame s t) :
    Tame s (t.reopenCardRead c n data) := by
  have key : Tame s ((((t.setImage n (reopenedImage (cardOf data) c)).setHolding n (.held c)).writeCard n
      (reopenedImage (cardOf data) c) .plain).modRow c fun r => { r with spans := some [] }) :=
    h.setImage.setHolding.writeCard.modRow (Nat.le_refl _) id rfl rfl
  exact h.failReopen.ite (h.failReopen.ite (key.damageReopen.ite key.readReopenIndex))

/-! ### The desk write -/

theorem Tame.sample (h : Tame s t) : Tame s t.sample := Tame.sendWrite h.desk

theorem Tame.sendBody {n m : Nat} (h : Tame s t) : Tame s (State.sendBody n m t) := by
  induction n generalizing m t with
  | zero => exact h
  | succ n ih => exact ih h.sendWrite

theorem Tame.writeAgain (h : Tame s t) : Tame s t.writeAgain := h.desk.ite h

/-- What follows the beginning of the start sweep's part state is tame. -/
theorem Tame.expire (h : Tame s t) : Tame s t.expire := by
  unfold State.expire
  refine Tame.ite ?_ h
  have hx : ∀ x : DeskUnit, Tame s ({ t with desk := x } : State) := fun x => h.desk
  refine Tame.ite ?_ (hx _)
  exact (hx _).requestSweep.scanEvent.requestDesk.ite (hx _).requestSweep.scanEvent

end Sys2Proof.Machine
end

section
/-! PROOFS. The laws of every step: each command is tame but for what the highway, the registers, a grant, a
failure, the end of a desk write and a reset change; for these the laws are told apart, and the three
statements follow for every command. -/

namespace Sys2Proof.Machine

open Sys2Proof

variable {s t u : State} {c : Chan} {i : Instr}

/-! ### The laws of the tables, queues and owners alone -/

/-- `t` keeps of the laws of Safety.lean those that stand apart from the registers. -/
structure Held (s t : State) : Prop where
  canonical : Canonical s → Canonical t
  keys : KeysBounded s → KeysBounded t
  queues : QueuesBounded s → QueuesBounded t
  owners : OwnersAgree s → OwnersAgree t

theorem Held.refl : Held s s := ⟨id, id, id, id⟩

theorem Held.trans (h : Held s t) (g : Held t u) : Held s u :=
  ⟨g.canonical ∘ h.canonical, g.keys ∘ h.keys, g.queues ∘ h.queues, g.owners ∘ h.owners⟩

theorem Tame.held (h : Tame s t) : Held s t :=
  ⟨h.canonical, fun hk c => (h.keys c).trans (hk c), h.queues, h.owners⟩

/-- The laws of the tables and queues are told from these fields. -/
theorem Held.of_fields (hc : t.chans = s.chans) (hi : t.inputs = s.inputs) (ho : t.outputs = s.outputs)
    (hl : t.letters = s.letters) (hk : t.cards = s.cards) (hw : t.written = s.written) : Held s t := by
  have hr : ∀ c, t.row c = s.row c := fun c => by rw [State.row, hc]; rfl
  refine ⟨fun h => ⟨hw ▸ h.1, hl ▸ h.2, hl ▸ h.3, hl ▸ h.4, hk ▸ h.5, hk ▸ h.6⟩, fun h c => ?_, fun h c => ?_,
    fun h => ⟨fun c k => ?_, fun c k => ?_⟩⟩
  · rw [hr]; exact h c
  · rw [hr]; exact h c
  · rw [hr, hi]; exact h.input c k
  · rw [hr, ho]; exact h.output c k

/-- Registers, the MSIs, the base and the waiting commands are in no law of the tables and queues. -/
theorem Held.registers {r : Registers} {n b : Nat} {l : List Instr} (h : Held s t) :
    Held s { t with regs := r, msi := n, base := b, pending := l } :=
  h.trans ⟨fun h => ⟨h.1, h.2, h.3, h.4, h.5, h.6⟩, id, id, fun h => ⟨h.1, h.2⟩⟩

theorem Held.written {m : List Host.Cell} (h : Held s t) (hm : Memory.wf t.written → Memory.wf m) :
    Held s { t with written := m } :=
  h.trans ⟨fun h => ⟨hm h.1, h.2, h.3, h.4, h.5, h.6⟩, id, id, fun h => ⟨h.1, h.2⟩⟩

/-! ### Steps that keep registers, host memory and the MSIs -/

/-- `t` comes from `s` without a change of the registers, of host memory or of the MSIs. -/
structure Steady (s t : State) : Prop extends Held s t where
  regs : t.regs = s.regs
  written : t.written = s.written
  msi : t.msi = s.msi

theorem Steady.refl : Steady s s := ⟨Held.refl, rfl, rfl, rfl⟩

theorem Steady.trans (h : Steady s t) (g : Steady t u) : Steady s u :=
  ⟨h.toHeld.trans g.toHeld, g.regs.trans h.regs, g.written.trans h.written, g.msi.trans h.msi⟩

theorem Tame.steady (h : Tame s t) : Steady s t := ⟨h.held, h.regs, h.written, h.msi⟩

/-- Timeslots that keep their owners. -/
theorem Steady.slots {I : Vector InputSlot 64} {O : Vector OutputSlot 64} (h : Steady s t)
    (hi : ∀ k : Timeslot, I[k].owner = t.inputs[k].owner)
    (ho : ∀ k : Timeslot, O[k].owner = t.outputs[k].owner) : Steady s { t with inputs := I, outputs := O } :=
  h.trans ⟨⟨fun h => ⟨h.1, h.2, h.3, h.4, h.5, h.6⟩, id, id, fun h =>
    ⟨fun c k => by rw [hi]; exact h.input c k, fun c k => by rw [ho]; exact h.output c k⟩⟩, rfl, rfl, rfl⟩

theorem row_mapRows {f : ChanRow → ChanRow} :
    ({ s with chans := s.chans.map f } : State).row c = f (s.row c) := by
  simp [State.row]

/-- The same change of every row. -/
theorem Steady.mapRows {f : ChanRow → ChanRow} (h : Steady s t)
    (hk : ∀ r, (f r).ctx.keys = r.ctx.keys) (hq : ∀ r, (f r).queue.length ≤ r.queue.length)
    (hi : ∀ r, (f r).ctx.inSlot = r.ctx.inSlot) (ho : ∀ r, (f r).ctx.outSlot = r.ctx.outSlot) :
    Steady s { t with chans := t.chans.map f } := by
  refine h.trans ⟨⟨fun h => ⟨h.1, h.2, h.3, h.4, h.5, h.6⟩, fun g c => ?_, fun g c => ?_, fun g =>
    ⟨fun c k => ?_, fun c k => ?_⟩⟩, rfl, rfl, rfl⟩
  · rw [row_mapRows, hk]; exact g c
  · rw [row_mapRows]; exact (hq _).trans (g c)
  · rw [row_mapRows, hi]; exact g.input c k
  · rw [row_mapRows, ho]; exact g.output c k

/-! ### What a command may do -/

/-- What the laws say of a command that leads from one state to another (10.1, 10.5, 11.1, 11.2, 11.5). -/
structure Lawful (i : Instr) (s t : State) : Prop extends Held s t where
  aligned : ExchangeAligned s → ExchangeAligned t
  faulted : s.regs.part = .faulted → Instr.isReset i = false →
    t.regs.part = .faulted ∧ t.regs.fault = s.regs.fault ∧ t.msi = s.msi
  exchange : s.regs.part ≠ .disabled → i ≠ .coldReset →
    t.regs.exchangeLo = s.regs.exchangeLo ∧ t.regs.exchangeHi = s.regs.exchangeHi
  memory : i ≠ .accessGrant → ∀ n, Memory.read t.written n = Memory.read s.written n ∨
    (Memory.read t.written n = none ∧ (Instr.isReset i = true ∨ (∃ who place, i = .accessFailure who place) ∨
      i = .renderBufferWriteFailed))

/-- A command that keeps registers, MSIs and host memory. -/
theorem Lawful.of_steady (h : Steady s t) : Lawful i s t where
  toHeld := h.toHeld
  aligned ha := by rw [ExchangeAligned, h.regs]; exact ha
  faulted hf _ := by rw [h.regs]; exact ⟨hf, rfl, h.msi⟩
  exchange _ _ := by rw [h.regs]; exact ⟨rfl, rfl⟩
  memory _ n := by rw [h.written]; exact .inl rfl

theorem Lawful.of_tame (h : Tame s t) : Lawful i s t := .of_steady h.steady

/-- A command that keeps the exchange base and host memory, and does nothing in FAULTED. -/
theorem Lawful.of_working (h : Held s t) (hf : s.regs.part ≠ .faulted)
    (hl : t.regs.exchangeLo = s.regs.exchangeLo) (hh : t.regs.exchangeHi = s.regs.exchangeHi)
    (hw : t.written = s.written) : Lawful i s t where
  toHeld := h
  aligned ha := by rw [ExchangeAligned, hl]; exact ha
  faulted h _ := absurd h hf
  exchange _ _ := ⟨hl, hh⟩
  memory _ n := by rw [hw]; exact .inl rfl

theorem Lawful.trans_tame (h : Lawful i s t) (g : Tame t u) : Lawful i s u where
  toHeld := h.toHeld.trans g.held
  aligned ha := by rw [ExchangeAligned, g.regs]; exact h.aligned ha
  faulted hf hi := by rw [g.regs, g.msi]; exact h.faulted hf hi
  exchange hd hi := by rw [g.regs]; exact h.exchange hd hi
  memory hi n := by rw [g.written]; exact h.memory hi n

theorem tame_report : Tame t (s.report t) := by
  unfold State.report; split
  · exact Tame.refl
  · exact Tame.refl.desk

/-- The outcome of a step that reports its changes. -/
theorem Lawful.reported (h : Lawful i s t) (hd : Machine.done s t = .next u) : Lawful i s u := by
  obtain rfl : s.report t = u := by simpa [Machine.done] using hd
  exact h.trans_tame tame_report

/-- A completion is lawful where its body is on the state with the access out of flight. -/
theorem Lawful.onComplete {who : Requester} {kind : Purpose → Bool} {body : Access → State → State}
    (h : ∀ a rest, s.regs.part ≠ .faulted → Lawful i s (body a (s.landed rest))) :
    Lawful i s (s.onComplete who kind body) := by
  unfold State.onComplete State.complete
  rcases nextDue who s.engine.flight with _ | ⟨a, rest⟩
  · exact .of_tame Tame.refl
  · by_cases hk : kind a.purpose = true
    · simp only [hk, if_true]
      split
      · exact .of_tame Tame.refl.engine
      · exact h _ _ ‹_›
    · simp only [hk]
      exact .of_tame Tame.refl

/-! ### The highway -/

theorem Steady.keyArrives {k : Key} (h : Steady s t) : Steady s (t.keyArrives c k) := by
  unfold State.keyArrives
  split
  · split
    · rename_i hlen
      refine h.trans ⟨⟨fun h => ⟨h.1, h.2, h.3, h.4, h.5, h.6⟩, fun g d => ?_, fun g d => ?_, fun g =>
        ⟨fun d k => ?_, fun d k => ?_⟩⟩, rfl, rfl, rfl⟩
      · rcases eq_or_ne d c with rfl | hd
        · simpa using hlen
        · rw [row_modCtx_ne hd]; exact g d
      · rcases eq_or_ne d c with rfl | hd
        · simpa using g d
        · rw [row_modCtx_ne hd]; exact g d
      · rcases eq_or_ne d c with rfl | hd
        · simpa using g.input d k
        · rw [row_modCtx_ne hd]; exact g.input d k
      · rcases eq_or_ne d c with rfl | hd
        · simpa using g.output d k
        · rw [row_modCtx_ne hd]; exact g.output d k
    · exact h.trans Tame.refl.raise.steady
  · exact h

theorem Steady.judge {k : Timeslot} {xs : List Sample} {w : Option Word} (h : Steady s t) :
    Steady s (t.judge k xs w) := by
  unfold State.judge
  simp only
  split
  · rename_i c line _ _
    have key : ∀ l g, Steady s ({ t with inputs := t.inputs.set k { t.inputs[k] with line := l, good := g } } : State) := by
      refine fun l g => h.slots (fun j => ?_) fun _ => rfl
      rw [owner_setInput]
      split
      · subst j; rfl
      · rfl
    split
    · split
      · unfold State.deliver
        simp only
        have hh := (key (some (lineAfter (t.row c).ctx.recover line t.inputs[k].good (framePresent w)).1)
          (lineAfter (t.row c).ctx.recover line t.inputs[k].good (framePresent w)).2).trans
            (Tame.refl.hearFrame (c := c) (xs := xs)).steady
        split
        · split
          · exact hh.keyArrives
          · exact hh
        · exact hh
      · exact (key _ _).trans Tame.refl.lineLost.steady
    · exact key _ _
  · exact h

theorem Steady.ite {p : Prop} [Decidable p] {a b : State} (ha : Steady s a) (hb : Steady s b) :
    Steady s (if p then a else b) := by
  split
  · exact ha
  · exact hb

theorem Steady.inputComplete {k : Timeslot} {xs : List Sample} {w : Option Word} :
    Steady s (s.inputComplete k xs w) := by
  unfold State.inputComplete
  refine Steady.refl.ite ?_
  have key : Steady s { s with inputs := s.inputs.set k { s.inputs[k] with
      assembly := some { samples := xs, word := w } } } := by
    refine Steady.refl.slots (fun j => ?_) fun _ => rfl
    rw [owner_setInput]
    split
    · subst j; rfl
    · rfl
  exact key.ite key.judge

theorem Steady.foldl {α : Type} {f : State → α → State} (hf : ∀ {u : State} (a : α), Steady s u → Steady s (f u a))
    (l : List α) (h : Steady s t) : Steady s (l.foldl f t) := by
  induction l generalizing t with
  | nil => exact h
  | cons a rest ih => exact ih (hf a h)

theorem Steady.emptyAssemblies (h : Steady s t) : Steady s t.emptyAssemblies :=
  h.slots (fun k => by simp) fun _ => rfl

theorem Steady.silence (h : Steady s t) : Steady s t.silence :=
  h.slots (fun _ => rfl) fun k => by simp

theorem Steady.panelStep {hold : Bool} (h : Steady s t) :
    Steady s { t with chans := t.chans.map (ChanRow.panelStep hold) } := by
  have hl : ∀ x : Context, x.lowerNotice.keys = x.keys ∧ x.lowerNotice.inSlot = x.inSlot ∧
      x.lowerNotice.outSlot = x.outSlot := fun x => by
    unfold Context.lowerNotice
    split <;> exact ⟨rfl, rfl, rfl⟩
  have hp : ∀ r : ChanRow, (r.panelStep hold).ctx.keys = r.ctx.keys ∧ (r.panelStep hold).queue = r.queue ∧
      (r.panelStep hold).ctx.inSlot = r.ctx.inSlot ∧ (r.panelStep hold).ctx.outSlot = r.ctx.outSlot := fun r => by
    unfold ChanRow.panelStep
    split
    · exact ⟨rfl, rfl, rfl, rfl⟩
    · obtain ⟨h1, h2, h3⟩ := hl { r.ctx.advanceLamps hold with
        panel := panelWord { r with ctx := r.ctx.advanceLamps hold } hold }
      exact ⟨h1, rfl, h2, h3⟩
  exact h.mapRows (fun r => (hp r).1) (fun r => Nat.le_of_eq (congrArg _ (hp r).2.1)) (fun r => (hp r).2.2.1)
    fun r => (hp r).2.2.2

theorem Steady.composeOutput {k : Timeslot} (h : Steady s t) : Steady s (t.composeOutput k) := by
  have put : ∀ {u : State} (xs : List Sample) (w : List Byte), Steady s u →
      Steady s { u with outputs := u.outputs.set k { u.outputs[k] with samples := xs, word := w } } := by
    intro u xs w hu
    refine hu.slots (fun _ => rfl) fun j => ?_
    rw [owner_setOutput]
    split
    · subst j; rfl
    · rfl
  unfold State.composeOutput
  simp only
  split
  · exact put _ _ h
  · refine Steady.ite ?_ (put _ _ h)
    split
    · exact put _ _ (h.trans Tame.refl.playFrame.steady)
    · exact put _ _ h

theorem Tame.pace (h : Tame s t) : Tame s t.pace := (h.desk.ite h.desk).ite h

theorem Steady.boundary : Steady s s.boundary := by
  have hj : Steady s ((List.finRange 64).foldl State.judgeMissing s) :=
    Steady.foldl (fun _ hu => hu.judge.ite hu) _ Steady.refl
  have hp : Steady s { ((List.finRange 64).foldl State.judgeMissing s).emptyAssemblies with
      chans := ((List.finRange 64).foldl State.judgeMissing s).emptyAssemblies.chans.map
        (ChanRow.panelStep ((List.finRange 64).foldl State.judgeMissing s).emptyAssemblies.sheets.hold) } :=
    hj.emptyAssemblies.panelStep
  exact Steady.refl.emptyAssemblies.silence.ite
    ((Steady.foldl (fun _ hu => hu.composeOutput) _ hp).trans (Tame.pace Tame.refl.codec).steady)

/-! ### Registers and resets -/

theorem Held.beginStart : Held s s.beginStart := by
  have hb : Held s { s with
      regs := { s.regs with part := .starting }, base := exchangeBase s.regs } := Held.refl.registers
  have ht : Tame { s with regs := { s.regs with part := .starting }, base := exchangeBase s.regs } s.beginStart :=
    ⟨rfl, rfl, rfl, rfl, rfl, fun _ => Nat.le_refl _, id, fun h => ⟨h.1, h.2⟩,
      fun h => ⟨h.1, h.2, h.3, h.4, h.5, h.6⟩⟩
  exact hb.trans ht.held

theorem Held.beginQuiesce : Held s s.beginQuiesce :=
  (Held.refl.registers (r := { s.regs with part := .quiescing })).trans Tame.beginQuiesce.held

/-- What becomes of a byte when the bytes of a write are forgotten: known as before, or not known. -/
theorem read_forget (stands : Nat → Bool) (m : List Host.Cell) (k count n : Nat) :
    Memory.read (Memory.forget stands m k count) n = Memory.read m n ∨
      Memory.read (Memory.forget stands m k count) n = none := by
  by_cases h : n < k ∨ k + count ≤ n ∨ stands n = true
  · exact .inl (read_forget_kept h)
  · push Not at h
    obtain ⟨hk, hc, hs⟩ := h
    exact .inr (read_forget_lost hk hc (by simpa using hs))

theorem forgetFlight_cons (m : List Host.Cell) (a : Access) (rest : List Access) :
    forgetFlight m (a :: rest) = forgetFlight (forgetFlight m [a]) rest := rfl

theorem forgetFlight_read {m : List Host.Cell} {a : Access} {n : Nat} (h : a.action = .read n) :
    forgetFlight m [a] = m := by
  simp [forgetFlight, h]

theorem forgetFlight_write {m : List Host.Cell} {a : Access} {bytes : List Byte} (h : a.action = .write bytes) :
    forgetFlight m [a] = Memory.forget a.settledAt m a.address bytes.length := by
  simp [forgetFlight, h]

/-- The bytes of one access are forgotten, but for those that stand. -/
theorem read_forgetFlight_one (m : List Host.Cell) (a : Access) (n : Nat) :
    ((a.covers n → a.settledAt n = true) → Memory.read (forgetFlight m [a]) n = Memory.read m n) ∧
    (a.covers n → a.settledAt n = false → Memory.read (forgetFlight m [a]) n = none) := by
  cases h : a.action with
  | read k =>
    rw [forgetFlight_read h]
    exact ⟨fun _ => rfl, fun ⟨bytes, hb, _⟩ => by rw [h] at hb; cases hb⟩
  | write bytes =>
    rw [forgetFlight_write h]
    constructor
    · intro hs
      refine read_forget_kept ?_
      by_cases hc : a.covers n
      · exact .inr (.inr (hs hc))
      · have : ¬ (a.address ≤ n ∧ n < a.address + bytes.length) := fun hn => hc ⟨bytes, h, hn.1, hn.2⟩
        omega
    · rintro ⟨new, hb, h1, h2⟩ hs
      rw [h] at hb
      cases hb
      exact read_forget_lost h1 h2 hs

/-- A byte that no write cut has left unsettled is read as before (R176, R170). -/
theorem read_forgetFlight_kept {m : List Host.Cell} {flight : List Access} {n : Nat}
    (h : ∀ a ∈ flight, a.covers n → a.settledAt n = true) :
    Memory.read (forgetFlight m flight) n = Memory.read m n := by
  induction flight generalizing m with
  | nil => rfl
  | cons a rest ih =>
    rw [forgetFlight_cons, ih fun b hb => h b (List.mem_cons_of_mem a hb)]
    exact (read_forgetFlight_one m a n).1 (h a List.mem_cons_self)

theorem read_forgetFlight (m : List Host.Cell) (flight : List Access) (n : Nat) :
    Memory.read (forgetFlight m flight) n = Memory.read m n ∨ Memory.read (forgetFlight m flight) n = none := by
  induction flight generalizing m with
  | nil => exact .inl rfl
  | cons a rest ih =>
    rw [forgetFlight_cons]
    rcases ih (forgetFlight m [a]) with h | h
    · rw [h]
      by_cases hs : a.covers n → a.settledAt n = true
      · exact .inl ((read_forgetFlight_one m a n).1 hs)
      · push Not at hs
        exact .inr ((read_forgetFlight_one m a n).2 hs.1 (by simpa using hs.2))
    · exact .inr h

/-- A byte of a write cut that nothing has settled is not known (R176). -/
theorem read_forgetFlight_lost {m : List Host.Cell} {flight : List Access} {n : Nat} {a : Access}
    (ha : a ∈ flight) (hc : a.covers n) (hs : a.settledAt n = false) :
    Memory.read (forgetFlight m flight) n = none := by
  induction flight generalizing m with
  | nil => cases ha
  | cons b rest ih =>
    rw [forgetFlight_cons]
    rcases List.mem_cons.1 ha with rfl | ha
    · have hnone := (read_forgetFlight_one m a n).2 hc hs
      rcases read_forgetFlight (forgetFlight m [a]) rest n with h | h
      · exact h.trans hnone
      · exact h
    · exact ih ha

theorem row_coldReset : s.coldReset.row c = ChanRow.reset := by
  simp [State.row, State.coldReset, State.reset]

theorem Held.coldReset : Held s s.coldReset where
  canonical h := ⟨wf_forgetFlight h.memory, wf_nil, nofun, wf_nil, wf_nil, wf_nil⟩
  keys _ c := by rw [row_coldReset]; exact Nat.zero_le _
  queues _ c := by rw [row_coldReset]; exact Nat.zero_le _
  owners _ := by
    constructor <;> intro c k <;> rw [row_coldReset] <;>
      simp [State.coldReset, State.reset, ChanRow.reset, Context.reset, InputSlot.reset]

theorem Held.softReset : Held s s.softReset := Held.coldReset.registers

/-- A reset forgets the bytes of the writes in flight, and is the one command that leaves FAULTED. -/
theorem Lawful.of_reset (h : Held s t) (hi : Instr.isReset i = true)
    (hw : t.written = forgetFlight s.written s.engine.flight)
    (ha : ExchangeAligned s → ExchangeAligned t)
    (he : i ≠ .coldReset → t.regs.exchangeLo = s.regs.exchangeLo ∧ t.regs.exchangeHi = s.regs.exchangeHi) :
    Lawful i s t where
  toHeld := h
  aligned := ha
  faulted _ hr := by rw [hi] at hr; cases hr
  exchange _ := he
  memory _ n := by
    rw [hw]
    exact (read_forgetFlight _ _ n).imp id fun h => ⟨h, .inl hi⟩

theorem Lawful.coldReset : Lawful .coldReset s s.coldReset :=
  .of_reset Held.coldReset rfl rfl (fun _ => (rfl : 0#32 &&& 0xFFF#32 = 0#32)) fun h => absurd rfl h

theorem Lawful.softReset (hi : Instr.isReset i = true) : Lawful i s s.softReset :=
  .of_reset Held.softReset hi rfl id fun _ => ⟨rfl, rfl⟩

/-- A write of CONTROL resets with its SOFT_RESET bit alone; else it keeps the exchange base. -/
theorem Lawful.writeControl {v : Word} (hi : Instr.isReset i = softResetBit v) :
    Lawful i s (s.writeControl v) := by
  have hr : Held s { s with regs := { s.regs with enable := enableBit v, intEnable := intEnableBit v } } :=
    Held.refl.registers
  unfold State.writeControl
  split
  · rename_i hv
    exact Lawful.softReset (hi.trans hv)
  · simp only
    split
    · rename_i hv hd
      refine Lawful.trans_tame (.of_working (hr.trans Held.beginStart) ?_ rfl rfl rfl) tame_report
      rw [hd.1]; decide
    · split
      · rename_i hv _ hd
        have hq := Tame.beginQuiesce
          (s := { s with regs := { s.regs with enable := enableBit v, intEnable := intEnableBit v } })
        refine Lawful.trans_tame (.of_working (hr.trans Held.beginQuiesce) ?_ ?_ ?_ hq.written) tame_report
        · rw [hd.1]; decide
        · rw [hq.regs]
        · rw [hq.regs]
      · exact ⟨hr, id, fun h _ => ⟨h, rfl, rfl⟩, fun _ _ => ⟨rfl, rfl⟩, fun _ n => .inl rfl⟩

/-- The low 12 bits of a value taken for the exchange base are dropped (R177). -/
theorem exchangeLo_aligned (v : Word) : (v &&& 0xFFFFF000#32) &&& 0xFFF#32 = 0#32 := by
  rw [BitVec.and_assoc]
  simp

theorem Lawful.exchangeLo {v : Word} : Lawful i s
    (if s.regs.part = .disabled then { s with regs := { s.regs with exchangeLo := v &&& 0xFFFFF000#32 } } else s) := by
  split
  · rename_i hd
    exact ⟨Held.refl.registers, fun _ => exchangeLo_aligned v, fun h => absurd (hd.symm.trans h) (by decide),
      fun h => absurd hd h, fun _ n => .inl rfl⟩
  · exact .of_tame Tame.refl

theorem Lawful.exchangeHi {v : Word} : Lawful i s
    (if s.regs.part = .disabled then { s with regs := { s.regs with exchangeHi := v } } else s) := by
  split
  · rename_i hd
    exact ⟨Held.refl.registers, id, fun h => absurd (hd.symm.trans h) (by decide), fun h => absurd hd h, fun _ n => .inl rfl⟩
  · exact .of_tame Tame.refl

theorem Lawful.storeDeskAck {v : Word} : Lawful i s ((s.storeDeskAck v).acknowledge v) := by
  have hr : ∀ n, Held s { s.storeDeskAck v with msi := n } := fun n => Held.refl.registers
  have hs : Lawful i s (s.storeDeskAck v) :=
    ⟨hr s.msi, id, fun h _ => ⟨h, rfl, rfl⟩, fun _ _ => ⟨rfl, rfl⟩, fun _ n => .inl rfl⟩
  by_cases ha : (s.storeDeskAck v).active = true
  · have hf : s.regs.part ≠ .faulted := fun h => by simp [active_iff, State.storeDeskAck, h] at ha
    unfold State.acknowledge
    rw [if_neg (not_not_intro ha)]
    split
    · exact hs.trans_tame Tame.refl.desk
    · split
      · exact .of_working (.of_fields rfl rfl rfl rfl rfl rfl) hf rfl rfl rfl
      · exact hs.trans_tame Tame.refl.desk
  · rw [acknowledge_inactive ha]
    exact hs

/-! ### FAULTED and the end of a desk write -/

theorem Held.enterFaulted {k : FaultKind} {a : Area} {n : Nat} : Held s (s.enterFaulted k a n) := by
  have h1 := ((Tame.refl (s := s)).engine (x := { s.engine with waiting := [] })).desk
    (x := { s.desk with armed := s.desk.armed && !s.regs.intEnable })
  have h2 := h1.steady.mapRows (f := fun r => { r with queue := [], ahead := [] }) (fun _ => rfl)
    (fun _ => Nat.zero_le _) (fun _ => rfl) fun _ => rfl
  exact h2.toHeld.registers (r := { s.regs with
    part := .faulted, fault := { kind := k, area := a, field := n } }) (n := s.msi + flagCode s.regs.intEnable)

theorem Lawful.setupRead {data : List Byte} : Lawful i s
    (s.onComplete .startSweep (· == .setupRead true) fun _ t => t.takeSetup data) := by
  refine Lawful.onComplete fun a rest hf => ?_
  have hl : Held s (s.landed rest) := (Tame.refl.landed).held
  unfold State.takeSetup
  simp only
  split
  · exact .of_working (hl.trans Held.enterFaulted) hf rfl rfl rfl
  · exact .of_tame Tame.refl.landed.setup.readStartCard

theorem Held.applyMsi : Held s s.applyMsi := by
  unfold State.applyMsi
  split
  · exact .of_fields rfl rfl rfl rfl rfl rfl
  · exact Held.refl

/-- The MSI rule changes no register and no host memory. -/
theorem applyMsi_frame : s.applyMsi.regs = s.regs ∧ s.applyMsi.written = s.written := by
  unfold State.applyMsi
  split <;> exact ⟨rfl, rfl⟩

/-- A change of the part state behind work that keeps the exchange base, to RUNNING, QUIESCING, DISABLED or
STARTING. -/
structure Moved (s t : State) : Prop extends Held s t where
  lo : t.regs.exchangeLo = s.regs.exchangeLo
  hi : t.regs.exchangeHi = s.regs.exchangeHi
  written : t.written = s.written

theorem Moved.trans (h : Moved s t) (g : Moved t u) : Moved s u :=
  ⟨h.toHeld.trans g.toHeld, g.lo.trans h.lo, g.hi.trans h.hi, g.written.trans h.written⟩

theorem Tame.moved (h : Tame s t) : Moved s t := ⟨h.held, by rw [h.regs], by rw [h.regs], h.written⟩

theorem Moved.part {p : PartState} : Moved s { s with regs := { s.regs with part := p } } :=
  ⟨Held.refl.registers, rfl, rfl, rfl⟩

theorem Moved.beginStart : Moved s s.beginStart := ⟨Held.beginStart, rfl, rfl, rfl⟩

theorem Moved.beginQuiesce : Moved s s.beginQuiesce := Moved.part.trans Tame.beginQuiesce.moved

theorem Moved.endStart : Moved s s.endStart := by
  have ht : Moved s { s with sweep := StartSweep.reset, desk := { s.desk with pacing := 0 } } :=
    ⟨.of_fields rfl rfl rfl rfl rfl rfl, rfl, rfl, rfl⟩
  unfold State.endStart
  simp only
  split
  · exact (ht.trans Moved.part).trans (Tame.refl.evaluateHold.scanEvent).moved
  · exact ht.trans Moved.beginQuiesce

theorem Moved.endQuiesce : Moved s s.endQuiesce := by
  have ht : Moved s { s with regs := { s.regs with part := .disabled }, desk := { s.desk with
      again := false, requested := false, finalAsked := false, finalRunning := false } } :=
    ⟨.of_fields rfl rfl rfl rfl rfl rfl, rfl, rfl, rfl⟩
  unfold State.endQuiesce
  simp only
  split
  · exact ht.trans Moved.beginStart
  · exact ht

theorem Moved.deskComplete : Moved s s.deskComplete := by
  have ha : Moved s ({ s with desk := { s.desk with
      latest := s.desk.generation, writing := false } } : State).applyMsi := by
    refine (Tame.desk Tame.refl).moved.trans ⟨Held.applyMsi, ?_, ?_, applyMsi_frame.2⟩ <;>
      rw [applyMsi_frame.1]
  have hw := ha.trans Tame.refl.writeAgain.moved
  unfold State.deskComplete
  simp only
  split
  · exact hw.trans Moved.endStart
  · split
    · exact ha.trans Moved.endQuiesce
    · exact hw
  · exact hw

theorem Lawful.deskWritten : Lawful i s (s.onComplete .deskUnit (· == .deskHeader) fun _ t => t.deskComplete) := by
  refine Lawful.onComplete fun a rest hf => ?_
  have h := (Tame.refl (s := s)).landed (l := rest) |>.moved.trans Moved.deskComplete
  exact .of_working h.toHeld hf h.lo h.hi h.written

/-! ### Grants and failures -/

theorem length_beginWriting {q : List QueueEntry} : (beginWriting q).length = q.length := by
  induction q with
  | nil => rfl
  | cons e rest ih => cases e <;> simp [beginWriting, ih]

/-- A grant beside its write: an entry is WRITING, or the render hands on. -/
theorem tame_granted (a : Access) : ∃ m, (Memory.wf s.written → Memory.wf m) ∧
    Tame { s with written := m } (s.granted a) := by
  have key : ∀ m, Tame { s with written := m } (match a.who, a.purpose with
      | .channel c, .recordWrite .. => ({ s with written := m } : State).modRow c fun r => { r with
          queue := beginWriting r.queue }
      | _, .renderWrite _ true => ({ s with written := m } : State).handOn
      | _, _ => { s with written := m }) := by
    intro m
    split
    · exact Tame.refl.modRow (Nat.le_refl _) (fun h => Nat.le_trans (Nat.le_of_eq length_beginWriting) h) rfl rfl
    · exact Tame.refl.handOn
    · exact Tame.refl
  unfold State.granted
  cases a.action with
  | read n => exact ⟨s.written, id, key s.written⟩
  | write bytes => exact ⟨_, wf_write, key _⟩

theorem Lawful.grant : Lawful .accessGrant s s.grant := by
  unfold State.grant
  split
  · exact .of_tame Tame.refl
  rename_i hf
  split
  · exact .of_tame Tame.refl
  split
  · rename_i who e _ _ before a after _
    obtain ⟨m, hm, ht⟩ := tame_granted (s := { s with engine := { e with
      waiting := before ++ after, flight := e.flight ++ [a] } }) a
    have he : Held s { s with engine := { e with waiting := before ++ after, flight := e.flight ++ [a] } } :=
      .of_fields rfl rfl rfl rfl rfl rfl
    refine Lawful.trans_tame (t := { s with engine := { e with
      waiting := before ++ after, flight := e.flight ++ [a] }, written := m }) ?_ ht
    exact { toHeld := he.written hm, aligned := id, faulted := fun h => absurd h hf,
            exchange := fun _ _ => ⟨rfl, rfl⟩, memory := fun h => absurd rfl h }
  · exact .of_tame Tame.refl

/-- A failure forgets the bytes of its write; a part that works then enters FAULTED. -/
theorem Lawful.fail {who : Requester} {n : Nat} (hi : i = .accessFailure who n) : Lawful i s (s.fail who n) := by
  unfold State.fail
  split
  · exact .of_tame Tame.refl
  rename_i a rest _
  have ht : Lawful i s { s with
      engine := { s.engine with flight := rest }, written := forgetFlight s.written [a] } := by
    have he : Held s { s with engine := { s.engine with flight := rest } } := (Tame.engine Tame.refl).held
    refine ⟨he.written wf_forgetFlight, id, fun h _ => ⟨h, rfl, rfl⟩, fun _ _ => ⟨rfl, rfl⟩, fun _ m => ?_⟩
    exact (read_forgetFlight _ _ m).imp id fun h => ⟨h, .inr (.inl ⟨who, n, hi⟩)⟩
  simp only
  split
  · rename_i ha
    have hf : s.regs.part ≠ .faulted := fun h => by simp [active_iff, h] at ha
    exact ⟨ht.toHeld.trans Held.enterFaulted, ht.aligned, fun h => absurd h hf, ht.exchange, ht.memory⟩
  · exact ht

theorem Lawful.bufferWriteFailed (hi : i = .renderBufferWriteFailed) : Lawful i s
    (match s.complete .render Purpose.isRenderWrite with
    | none => s
    | some (a, t) =>
      let t := { t with written := forgetFlight t.written [a.under (grantedAfter .render s.engine.flight)] }
      match t.regs.part, a.purpose with
      | .faulted, _ => t
      | _, .renderWrite frame _ => t.frameFailed frame
      | _, _ => t) := by
  unfold State.complete
  rcases nextDue .render s.engine.flight with _ | ⟨a, rest⟩
  · exact .of_tame Tame.refl
  have ht : ∀ b : Access, Lawful i s { s with
      engine := { s.engine with flight := rest }, written := forgetFlight s.written [b] } := by
    intro b
    have he : Held s { s with engine := { s.engine with flight := rest } } := (Tame.engine Tame.refl).held
    refine ⟨he.written wf_forgetFlight, id, fun h _ => ⟨h, rfl, rfl⟩, fun _ _ => ⟨rfl, rfl⟩, fun _ m => ?_⟩
    exact (read_forgetFlight _ _ m).imp id fun h => ⟨h, .inr (.inr hi)⟩
  by_cases hk : Purpose.isRenderWrite a.purpose = true
  · simp only [hk, if_true]
    split
    · exact ht _
    · exact (ht _).trans_tame Tame.refl.frameFailed
    · exact ht _
  · simp only [hk]
    exact .of_tame Tame.refl

end Sys2Proof.Machine
end

section
/-! PROOFS. Every command is lawful, and the three statements on what every step keeps. -/

namespace Sys2Proof.Machine

open Sys2Proof

variable {s t : State} {i : Instr}

/-- A tame command that reports its changes. -/
theorem Lawful.tame_done {u : State} (ht : Tame s u) (h : Machine.done s u = .next t) : Lawful i s t :=
  (Lawful.of_tame ht).reported h

/-- A command whose outcome is a state is lawful where that state is. -/
theorem Lawful.next {u : State} (hu : Lawful i s u) (h : (.next u : Host.Outcome State Fault Refusal) = .next t) :
    Lawful i s t := by
  cases h
  exact hu

/-- Every command keeps the laws (10.1, 10.5, 11.1, 11.2, 11.5). -/
theorem exec_lawful (h : exec i s = .next t) : Lawful i s t := by
  cases i with
  | coldReset => exact .next .coldReset h
  | softReset v => exact .next (.writeControl rfl) h
  | functionLevelReset => exact .next (.softReset rfl) h
  | enableSet v => exact .next (.writeControl rfl) h
  | enableClear v => exact .next (.writeControl rfl) h
  | intEnableWrite v => exact .next (.writeControl rfl) h
  | exchangeLoWrite v => exact .next .exchangeLo h
  | exchangeHiWrite v => exact .next .exchangeHi h
  | sweepWrite v => exact .next (.of_tame Tame.refl.requestSweep) h
  | deskAckWrite v => exact .next .storeDeskAck h
  | readOnlyRegisterWrite r v => exact .next (.of_tame Tame.refl) h
  | setupReadComplete data => exact Lawful.setupRead.reported h
  | startCardReadComplete data =>
    refine .tame_done (Tame.onComplete fun a u _ hu => ?_) h
    split
    · exact hu.decideCard
    · exact hu
  | startMapReadComplete data =>
    refine .tame_done (Tame.onComplete fun a u _ hu => ?_) h
    split
    · exact hu.decideLine
    · exact hu
  | startSlotReadComplete data =>
    refine .tame_done (Tame.onComplete fun a u _ hu => ?_) h
    split
    · split
      · exact hu.decideSlot
      · exact hu
    · exact hu
  | frameBoundary => exact (Lawful.of_steady Steady.boundary).reported h
  | inputFrame k xs w => exact (Lawful.of_steady Steady.inputComplete).reported h
  | pacingExpiry => exact .tame_done Tame.refl.expire h
  | transientNoticeExpiry c =>
    refine .tame_done ?_ h
    split
    · exact Tame.refl.ite (Tame.refl.modCtx (Nat.le_refl _) rfl rfl)
    · exact Tame.refl
  | keyNew c => exact .tame_done (Tame.takeKey fun _ => Tame.refl.actNew) h
  | keyRecord c => exact .tame_done (Tame.takeKey fun _ => Tame.refl.actRecord) h
  | keyStop c => exact .tame_done (Tame.takeKey fun _ => Tame.refl.actStop) h
  | keyPlay c => exact .tame_done (Tame.takeKey fun _ => Tame.refl.letterKey Tame.actPlay) h
  | keyRewind c =>
    exact .tame_done (Tame.takeKey fun _ => Tame.refl.refuseKey.ite (Tame.refl.letterKey Tame.moveTo)) h
  | keyForward c =>
    exact .tame_done (Tame.takeKey fun _ => Tame.refl.refuseKey.ite (Tame.refl.letterKey Tame.moveTo)) h
  | keyStart c => exact .tame_done (Tame.takeKey fun _ => Tame.refl.letterKey Tame.moveTo) h
  | keyEnd c => exact .tame_done (Tame.takeKey fun _ => Tame.refl.letterKey Tame.moveTo) h
  | keyInsert c =>
    refine .tame_done (Tame.takeKey fun _ => ?_) h
    split
    · exact Tame.refl.refuseKey
    · exact Tame.refl.popKey.modCtx (Nat.le_refl _) rfl rfl
  | keyInstruct c => exact .tame_done (Tame.takeKey fun _ => Tame.refl.popKey.modRow (Nat.le_refl _) id rfl rfl) h
  | keyUrgent c =>
    refine .tame_done (Tame.takeKey fun _ => ?_) h
    split
    · exact Tame.refl.refuseKey
    · exact Tame.refl.popKey.modCtx (Nat.le_refl _) rfl rfl
  | keyFile c =>
    exact .tame_done (Tame.takeKey fun _ => Tame.refl.letterKey fun hu => (hu.stopPlayback.ite hu).fileNow) h
  | keyDiscard c =>
    refine .tame_done (Tame.takeKey fun _ => ?_) h
    split
    · exact Tame.refl.refuseKey
    · exact Tame.refl.popKey.discardLetter
  | keyAcknowledge c =>
    exact .tame_done (Tame.takeKey fun _ => Tame.refl.popKey.modCtx (Nat.le_refl _) rfl rfl) h
  | invalidKey c => exact .tame_done (Tame.takeKey fun _ => Tame.refl.refuseKey) h
  | sweepStart => exact .tame_done (Tame.refl.readSlots.ite Tame.refl) h
  | sweepReadsComplete slots => exact .tame_done (Tame.onComplete fun _ _ _ hu => Tame.sweepOn hu.orders) h
  | stationSetup => exact .tame_done (Tame.takeOrder fun _ _ => Tame.refl.stationSetup) h
  | stationClose =>
    refine .tame_done (Tame.takeOrder fun _ _ => ?_) h
    split
    · exact Tame.refl.stationClose
    · exact Tame.refl.finish
  | fileLetter =>
    refine .tame_done (Tame.takeOrder fun _ _ => ?_) h
    split
    · exact Tame.refl.fileLetter
    · exact Tame.refl.finish
  | reopenLetter => exact .tame_done (Tame.takeOrder fun _ _ => Tame.refl.reopenOrder) h
  | renderOrder => exact .tame_done (Tame.takeOrder fun _ _ => Tame.refl.renderCheck) h
  | cancelOrder =>
    refine .tame_done (Tame.takeOrder fun _ _ => ?_) h
    split
    · exact Tame.refl.cancel
    · exact Tame.refl.finish
  | noticeOrder =>
    refine .tame_done (Tame.takeOrder fun _ _ => ?_) h
    split
    · exact Tame.refl.notice.ite Tame.refl.finish
    · exact Tame.refl.finish
  | returnOrder => exact .tame_done (Tame.takeOrder fun _ _ => Tame.refl.returnSheets.ite Tame.refl.finish) h
  | unknownOrderKind => exact .tame_done (Tame.takeOrder fun _ _ => Tame.refl.finish) h
  | orderCardReadComplete data =>
    refine .tame_done (Tame.onComplete fun _ u _ hu => ?_) h
    split
    · exact (hu.decideReopen.ite hu.decideRender).sweepOn
    · exact hu
  | finishResultWritten k => exact .tame_done (Tame.onComplete fun _ _ _ hu => hu.sendWrite) h
  | orderFinished k =>
    exact .tame_done (Tame.onComplete fun _ _ _ hu => (Tame.reportFinish hu.orders).endAnswers) h
  | accessGrant => exact Lawful.grant.reported h
  | accessFailure who n => exact (Lawful.fail rfl).reported h
  | recordWriteComplete c => exact .tame_done (Tame.onComplete fun _ _ _ hu => hu.recordWritten) h
  | headerWriteComplete c =>
    refine .tame_done (Tame.onComplete fun _ _ _ hu => ?_) h
    split
    · exact hu.headerDone
    · exact hu
  | playbackReadComplete c data =>
    refine .tame_done (Tame.onComplete fun _ _ _ hu => ?_) h
    split
    · exact hu.takeRecord
    · exact hu
  | claimScanStart => exact .tame_done (Tame.refl.readScanLine.ite Tame.refl) h
  | mapLineReadComplete data => exact .tame_done (Tame.onComplete fun _ _ _ hu => hu.examine) h
  | stackReturn => exact .tame_done (Tame.refl.returnStack.ite Tame.refl) h
  | cardSearchStart => exact .tame_done (Tame.refl.startSearch.ite Tame.refl) h
  | cardSearchReadComplete data =>
    refine .tame_done (Tame.onComplete fun _ _ _ hu => ?_) h
    split
    · exact hu.searchCard
    · exact hu
  | checkpointBegin c => exact .tame_done (Tame.refl.beginCheckpoint.ite Tame.refl) h
  | checkpointWritingWritten c => exact .tame_done (Tame.onComplete fun _ _ _ hu => hu.indexStage) h
  | indexLinesWritten c => exact .tame_done (Tame.onComplete fun _ _ _ hu => hu.writeValid) h
  | cardBodyWritten =>
    refine .tame_done (Tame.onComplete fun _ _ _ hu => ?_) h
    split
    · exact hu.writeFirst
    · exact hu
  | checkpointComplete c => exact .tame_done (Tame.onComplete fun _ _ _ hu => hu.checkpointDone) h
  | filedWritesComplete c => exact .tame_done (Tame.onComplete fun _ _ _ hu => hu.writeLastCard) h
  | filingComplete c => exact .tame_done (Tame.onComplete fun _ _ _ hu => hu.filingDone) h
  | suspensionComplete c => exact .tame_done (Tame.onComplete fun _ _ _ hu => hu.suspensionDone) h
  | discardPerform c =>
    refine .tame_done ?_ h
    split
    · exact Tame.refl.performDiscard.ite Tame.refl
    · exact Tame.refl
  | reopenCardReadComplete c data =>
    refine .tame_done (Tame.onComplete fun _ _ _ hu => ?_) h
    split
    · exact hu.reopenCardRead
    · exact hu
  | reopenIndexReadComplete c data =>
    refine .tame_done (Tame.onComplete fun _ _ _ hu => ?_) h
    split
    · exact hu.readReopenIndex
    · exact hu
  | reopenRecordReadComplete c data =>
    refine .tame_done (Tame.onComplete fun _ _ _ hu => ?_) h
    split
    · exact hu.keepRecord
    · exact hu
  | reopenMapReadComplete c data =>
    refine .tame_done (Tame.onComplete fun _ _ _ hu => ?_) h
    split
    · exact hu.noteLine
    · exact hu
  | renderActivate => exact .tame_done (Tame.refl.activateRender.ite Tame.refl) h
  | renderCardReadComplete data =>
    refine .tame_done (Tame.onComplete fun _ _ _ hu => ?_) h
    split
    · exact hu.takeRenderCard.ite hu
    · exact hu
  | renderIndexReadComplete data =>
    refine .tame_done (Tame.onComplete fun _ _ _ hu => ?_) h
    split
    · exact hu.takeRenderLine.ite hu
    · exact hu
  | renderRecordReadComplete data =>
    refine .tame_done (Tame.onComplete fun _ _ _ hu => ?_) h
    split
    · split
      · exact hu.seekRecord
      · exact hu.setRender.askOn
      · exact hu
    · exact hu
  | renderOperation =>
    refine .tame_done ?_ h
    split
    · split
      · split
        · exact Tame.refl.decodeRecord.ite Tame.refl
        · exact Tame.refl
      · exact Tame.refl
    · exact Tame.refl
  | renderBufferWriteComplete =>
    refine .tame_done (Tame.onComplete fun _ _ _ hu => ?_) h
    split
    · exact hu.frameWritten
    · exact hu
  | renderBufferWriteFailed => exact (Lawful.bufferWriteFailed rfl).reported h
  | renderDrainComplete =>
    refine .tame_done ?_ h
    split
    · exact Tame.refl.endRender.ite Tame.refl
    · exact Tame.refl
  | deskWriteBegin => exact .next (.of_tame (Tame.refl.sample.ite Tame.refl)) h
  | deskOpeningWritten => exact .tame_done (Tame.onComplete fun _ _ _ hu => hu.sendBody) h
  | deskBodyWritten => exact .tame_done (Tame.onComplete fun _ _ _ hu => hu.sendWrite) h
  | deskWriteComplete => exact Lawful.deskWritten.reported h
  | quiesceWorkDone => exact .next (.of_tame (Tame.ite (Tame.requestDesk Tame.refl.desk) Tame.refl)) h

/-- A step keeps the tables, queues and owners as its command does, and an idle one leaves the state. -/
theorem step_held (h : step s = .next t) : Held s t := by
  unfold step at h
  split at h
  · cases h
    exact Held.refl
  · rename_i i rest _
    have hr : Held s { s with pending := rest } := Held.refl.registers
    exact hr.trans (exec_lawful h).toHeld

/-- Settles O58: every command keeps the canonical form, as `exec_lawful` says of each. -/
theorem stepsKeepCanonicalForm : Obligations.StepsKeepCanonicalForm :=
  fun _ _ hs h => (step_held h).canonical hs

/-- Settles O59: every command keeps the bounds of the queues and the agreement of the owners. -/
theorem stepsKeepQueuesAndOwners : Obligations.StepsKeepQueuesAndOwners :=
  fun _ _ hk hq ho h => ⟨(step_held h).keys hk, (step_held h).queues hq, (step_held h).owners ho⟩

/-- Settles O60: what `Lawful` says of a command beside the tables and queues. -/
theorem stepsKeepFaultedAndExchangeBase : Obligations.StepsKeepFaultedAndExchangeBase :=
  fun _ _ _ h => ⟨(exec_lawful h).aligned, (exec_lawful h).faulted, (exec_lawful h).exchange, (exec_lawful h).memory⟩

end Sys2Proof.Machine
end

section
/-! PROOFS. The queue of commands, the resets, CONTROL, the exchange base and the asking for a sweep. -/

namespace Sys2Proof.Machine

open Sys2Proof

variable {s t : State} {v : Word}

/-! ### Steps and resets -/

/-- Settles O1: a step takes the command at the front. -/
theorem stepRunsFrontCommand : Obligations.StepRunsFrontCommand := by
  refine ⟨fun s c rest h => ?_, fun s h => ?_⟩ <;> rw [step, h]

theorem row_reset (c : Chan) : State.reset.row c = ChanRow.reset := by
  simp [State.row, State.reset]

/-- Settles O2: the laws hold of empty tables and queues, and each field has its value by definition. -/
theorem resetStateValues : Obligations.ResetStateValues := by
  refine ⟨⟨wf_nil, wf_nil, nofun, wf_nil, wf_nil, wf_nil⟩, rfl, fun c => ?_, fun c => ?_, ⟨fun c k => ?_, fun c k => ?_⟩,
    rfl, fun c => ?_, fun k => ⟨?_, ?_⟩, rfl, rfl, rfl, rfl, rfl, rfl, rfl, rfl, rfl, rfl, rfl, rfl, rfl, rfl, rfl⟩
  · rw [row_reset]; exact Nat.zero_le _
  · rw [row_reset]; exact Nat.zero_le _
  · rw [row_reset]; simp [State.reset, ChanRow.reset, Context.reset, InputSlot.reset]
  · rw [row_reset]; simp [State.reset, ChanRow.reset, Context.reset, OutputSlot.reset]
  · rw [row_reset]; rfl
  · simp [State.reset, InputSlot.reset]
  · simp [State.reset, OutputSlot.reset, zeroSamples, allOffWord]

/-- A cold reset leaves the outputs without owners, and host memory without the bytes of cut writes. -/
theorem afterReset_coldReset (s : State) : AfterReset s s.coldReset where
  fields := rfl
  outputs k := by simp [State.coldReset]
  kept _ h := read_forgetFlight_kept h
  lost _ _ ha hc hs := read_forgetFlight_lost ha hc hs

/-- A soft reset differs from a cold one in the registers alone. -/
theorem afterReset_softReset (s : State) : AfterReset s s.softReset := by
  obtain ⟨-, houtputs, hkept, hlost⟩ := afterReset_coldReset s
  exact ⟨rfl, houtputs, hkept, hlost⟩

theorem writeControl_reset (h : softResetBit v = true) : s.writeControl v = s.softReset := by
  rw [State.writeControl, if_pos h]

/-- Settles O3: a cold reset restores every value, and the others are soft resets. -/
theorem resetsRestoreEveryValue : Obligations.ResetsRestoreEveryValue := by
  intro s
  refine ⟨⟨_, rfl, afterReset_coldReset s, rfl⟩, ⟨_, rfl, afterReset_softReset s, rfl⟩, fun v hv i hi => ?_⟩
  have hx : exec i s = .next (s.writeControl v) := by
    simp only [List.mem_cons, List.not_mem_nil, or_false] at hi
    rcases hi with rfl | rfl | rfl | rfl <;> rfl
  rw [writeControl_reset hv] at hx
  exact ⟨_, hx, afterReset_softReset s, rfl⟩

/-! ### CONTROL -/

/-- The state with the two bits of a CONTROL write stored. -/
def State.storeControl (s : State) (v : Word) : State :=
  { s with regs := { s.regs with enable := enableBit v, intEnable := intEnableBit v } }

theorem writeControl_stores (hr : softResetBit v = false)
    (hs : ¬ (s.regs.part = .disabled ∧ s.regs.enable = false ∧ enableBit v = true))
    (hq : ¬ (s.regs.part = .running ∧ s.regs.enable = true ∧ enableBit v = false)) :
    s.writeControl v = s.storeControl v := by
  rw [State.writeControl, if_neg (by simp [hr]), if_neg (by simpa using hs), if_neg (by simpa using hq)]
  rfl

theorem writeControl_starts (hr : softResetBit v = false) (hd : s.regs.part = .disabled)
    (he : s.regs.enable = false) (hv : enableBit v = true) :
    s.writeControl v = s.report (s.storeControl v).beginStart := by
  rw [State.writeControl, if_neg (by simp [hr]), if_pos ⟨hd, by simp [he], hv⟩]
  rfl

theorem writeControl_quiesces (hr : softResetBit v = false) (hd : s.regs.part = .running)
    (he : s.regs.enable = true) (hv : enableBit v = false) :
    s.writeControl v = s.report (s.storeControl v).beginQuiesce := by
  rw [State.writeControl, if_neg (by simp [hr]), if_neg (by simp [hd]), if_pos ⟨hd, he, by simp [hv]⟩]
  rfl

/-- Settles O4: without a reset, a start or a quiesce the two bits are stored. -/
theorem controlWriteStoresItsBits : Obligations.ControlWriteStoresItsBits := by
  intro s v hr hs hq i hi
  have hx : exec i s = .next (s.writeControl v) := by
    simp only [List.mem_cons, List.not_mem_nil, or_false] at hi
    rcases hi with rfl | rfl | rfl <;> rfl
  rw [hx, writeControl_stores hr hs hq]
  rfl

/-- Settles O5: ENABLE set in DISABLED begins the start sweep, in whose part state nothing is reported. -/
theorem enableBeginsStartSweep : Obligations.EnableBeginsStartSweep := by
  intro s v hd he hr hv
  have hx : exec (.enableSet v) s = .next (s.storeControl v).beginStart := by
    have : s.report (s.storeControl v).beginStart = (s.storeControl v).beginStart := if_pos (.inr rfl)
    exact congrArg Host.Outcome.next ((writeControl_starts hr hd he hv).trans this)
  refine ⟨_, hx, ?_, rfl, rfl, rfl, rfl, rfl, rfl, ?_, rfl⟩
  · simp [State.beginStart, State.storeControl, hv]
  · simp [HandedOver, State.beginStart, State.sendRead, State.handOver, State.storeControl, List.range_succ,
      readOf, setupLineAddress, hostAddress, Config.addressSpace]

/-! ### The exchange base and reads of registers -/

/-- The low 12 bits dropped (R177). -/
theorem and_pageMask (v : Word) : v &&& 0xFFFFF000#32 = BitVec.ofNat 32 (v.toNat / 4096 * 4096) := by
  have hshift : v &&& 0xFFFFF000#32 = (v >>> 12) <<< 12 := by
    ext i hi
    interval_cases i <;> simp
  apply BitVec.eq_of_toNat_eq
  rw [hshift]
  simp [Nat.shiftLeft_eq, Nat.shiftRight_eq_div_pow]

theorem FaultKind.code_lt (k : FaultKind) : k.code < 256 := by cases k <;> decide

theorem Area.code_lt (a : Area) : a.code < 256 := by cases a <;> decide

/-- The FAULT register by its three fields (R177). -/
theorem readRegister_fault (s : State) : (s.readRegister 0x0C).toNat =
    (s.regs.fault.kind.code + 256 * s.regs.fault.area.code + 65536 * s.regs.fault.field) % 2 ^ 32 := by
  simp [State.readRegister]

/-- Settles O7: the writes by part state, and the reads register by register. -/
theorem exchangeAndReadOnlyWrites : Obligations.ExchangeAndReadOnlyWrites := by
  refine ⟨fun s v => ⟨fun hd => ⟨?_, ?_⟩, fun hd => ⟨?_, ?_⟩, fun r => rfl⟩, fun s => ?_⟩
  · rw [← and_pageMask]
    exact congrArg _ (if_pos hd)
  · exact congrArg _ (if_pos hd)
  · exact congrArg _ (if_neg hd)
  · exact congrArg _ (if_neg hd)
  have hk := s.regs.fault.kind.code_lt
  have ha := s.regs.fault.area.code_lt
  refine ⟨rfl, ?_, ?_, ?_, ?_, fun hf => ?_, rfl, rfl, rfl, rfl⟩
  · change BitVec.ofNat 32 (flagCode s.regs.enable + 2 * flagCode s.regs.intEnable) = _
    cases s.regs.enable <;> cases s.regs.intEnable <;> decide
  · change BitVec.ofNat 32 s.regs.part.code = _
    cases s.regs.part <;> rfl
  · have : (s.readRegister 0x0C).toNat % 256 = s.regs.fault.kind.code := by
      rw [readRegister_fault]; omega
    rw [this]
    cases s.regs.fault.kind <;> rfl
  · have : (s.readRegister 0x0C).toNat / 256 % 256 = s.regs.fault.area.code := by
      rw [readRegister_fault]; omega
    rw [this]
    cases s.regs.fault.area <;> rfl
  · rw [readRegister_fault]; omega

/-! ### Asking for a sweep -/

theorem HandedOver.refl (s : State) : HandedOver s s [] := by simp [HandedOver]

theorem HandedOver.trans {u : State} {l m : List Access} (h : HandedOver s t l) (g : HandedOver t u m) :
    HandedOver s u (l ++ m) := by
  unfold HandedOver at *
  rw [g, h]
  simp

/-- Accesses handed over one by one for the items of a list. -/
theorem handedOver_foldl {α : Type} (f : State → α → State) (g : α → Access)
    (h : ∀ u a, HandedOver u (f u a) [g a]) : ∀ (l : List α) (s : State), HandedOver s (l.foldl f s) (l.map g)
  | [], s => HandedOver.refl s
  | a :: rest, s => (h s a).trans (handedOver_foldl f g h rest (f s a))

/-- Operations that only hand over leave all but the engine. -/
theorem foldl_engine {α : Type} (f : State → α → State) (h : ∀ u a, ∃ e, f u a = { u with engine := e })
    (l : List α) (s : State) : l.foldl f s = { s with engine := (l.foldl f s).engine } := by
  have key : ∃ e, l.foldl f s = { s with engine := e } := by
    induction l generalizing s with
    | nil => exact ⟨s.engine, rfl⟩
    | cons a rest ih =>
      obtain ⟨e, he⟩ := ih (f s a)
      obtain ⟨e', he'⟩ := h s a
      exact ⟨e, by rw [List.foldl_cons, he, he']⟩
  obtain ⟨e, he⟩ := key
  rw [he]

/-- Settles O8: a SWEEP write by sweep and part state, and the 32 reads of a sweep that starts. -/
theorem sweepIsAskedAndReads : Obligations.SweepIsAskedAndReads := by
  intro s v
  refine ⟨fun hp hs => ?_, fun hp hs => ?_, fun hp => ?_, fun hp hs => ?_⟩
  · exact congrArg _ ((if_pos hp).trans (if_pos hs))
  · exact congrArg _ ((if_pos hp).trans (if_neg hs))
  · exact congrArg _ (if_neg hp)
  · have hx : exec .sweepStart s = done s s.readSlots := congrArg (done s) (if_pos ⟨hp, hs⟩)
    have hframe : s.readSlots = { s with
        orders := { s.orders with sweep := .reading, finishedSet := [] }, engine := s.readSlots.engine } := by
      unfold State.readSlots
      exact foldl_engine _ (fun _ _ => ⟨_, rfl⟩) _ _
    refine ⟨s.readSlots, ?_, ?_, hframe⟩
    · rw [hx]
      refine done_same ?_
      rw [hframe]
      rfl
    · have := handedOver_foldl (fun (t : State) (k : OrderSlot) =>
        t.sendRead .orderUnit (.slotRead (k.val == 31)) (orderSlotAddress s.base k 0))
        (fun k => readOf .orderUnit (.slotRead (k.val == 31)) ((s.base + (0x800 + 64 * k.val)) % 2 ^ 64))
        (fun _ _ => rfl) (List.finRange 32)
        { s with orders := { s.orders with sweep := .reading, finishedSet := [] } }
      rw [← List.map_coe_finRange_eq_range, List.map_map]
      exact this

end Sys2Proof.Machine
end

section
/-! PROOFS. The start sweep: the tests of the setup record, and the decisions for each card, map line and order
slot. -/

namespace Sys2Proof.Machine

open Sys2Proof

variable {s t : State}

/-! ### The tests of the setup record -/

/-- The first test that fails, in a list of tests by rising numbers, is the least number that is not valid. -/
theorem firstFailure_iff {valid : Nat → Prop} : ∀ {tests : List (Nat × Bool)},
    (tests.map Prod.fst).Pairwise (· < ·) → (∀ e ∈ tests, e.2 = true ↔ valid e.1) →
    (∀ n, n ∉ tests.map Prod.fst → valid n) → ∀ n,
    (tests.find? fun e => !e.2).map Prod.fst = some n ↔
      n ∈ tests.map Prod.fst ∧ ¬ valid n ∧ ∀ m, m < n → valid m
  | [], _, _, _, n => by simp
  | (k, true) :: rest, hsorted, htests, hothers, n => by
    have hk : valid k := (htests (k, true) List.mem_cons_self).1 rfl
    obtain ⟨-, hsorted'⟩ := List.pairwise_cons.1 hsorted
    have ih := firstFailure_iff hsorted' (fun e he => htests e (List.mem_cons_of_mem _ he)) (fun m hm => by
      by_cases hmk : m = k
      · exact hmk ▸ hk
      · exact hothers m (by simpa [hmk] using hm)) n
    have hne : ¬ valid n → n ≠ k := fun hv e => hv (e ▸ hk)
    rw [List.find?_cons_of_neg (by simp), ih]
    simp only [List.map_cons, List.mem_cons]
    constructor
    · exact fun ⟨h, hv, hall⟩ => ⟨.inr h, hv, hall⟩
    · exact fun ⟨h, hv, hall⟩ => ⟨h.resolve_left (hne hv), hv, hall⟩
  | (k, false) :: rest, hsorted, htests, hothers, n => by
    have hk : ¬ valid k := fun hv => by simpa using (htests (k, false) List.mem_cons_self).2 hv
    obtain ⟨hlt, -⟩ := List.pairwise_cons.1 hsorted
    rw [List.find?_cons_of_pos (by simp)]
    simp only [Option.map_some, Option.some.injEq, List.map_cons, List.mem_cons]
    constructor
    · rintro rfl
      refine ⟨.inl rfl, hk, fun m hm => hothers m fun hmem => ?_⟩
      rcases List.mem_cons.1 hmem with rfl | hmem
      · exact Nat.lt_irrefl _ hm
      · exact Nat.lt_asymm hm (hlt m hmem)
    · rintro ⟨rfl | hmem, hv, hall⟩
      · rfl
      · exact absurd (hall k (hlt n hmem)) hk

theorem setupTests_numbers (p : Setup) : (setupTests p).map Prod.fst = [1, 2, 3, 4, 5, 6, 7, 8, 9, 10] := rfl

/-- Each test says of its field what 11.3 says. -/
theorem setupTests_valid (p : Setup) : ∀ e ∈ setupTests p, e.2 = true ↔ FieldValid p e.1 := by
  simp [setupTests, FieldValid, Nat.dvd_iff_mod_eq_zero]

theorem fieldValid_other (p : Setup) {n : Nat} (h : n ∉ [1, 2, 3, 4, 5, 6, 7, 8, 9, 10]) : FieldValid p n := by
  unfold FieldValid
  split <;> simp at h ⊢

/-- Settles O10: the tests stand in the order of the field numbers, and each says what its field's rule says. -/
theorem setupFieldsAreTestedInOrder : Obligations.SetupFieldsAreTestedInOrder := by
  intro p
  have hfirst : ∀ n, setupFailure p = some n ↔ 1 ≤ n ∧ n ≤ 10 ∧ ¬ FieldValid p n ∧ ∀ m, m < n → FieldValid p m := by
    intro n
    rw [setupFailure, firstFailure_iff (by simp [setupTests_numbers]) (setupTests_valid p)
      (fun m hm => fieldValid_other p (by rwa [setupTests_numbers] at hm)), setupTests_numbers, ← and_assoc (a := 1 ≤ n)]
    refine and_congr_left fun _ => ?_
    simp only [List.mem_cons, List.not_mem_nil, or_false]
    omega
  refine ⟨hfirst, fun hnone n => ?_, fun hall => ?_⟩
  · by_contra hv
    have hex : ∃ n, ¬ FieldValid p n := ⟨n, hv⟩
    classical
    have hleast : ∀ m, m < Nat.find hex → FieldValid p m := fun m hm => not_not.1 (Nat.find_min hex hm)
    have hmem : Nat.find hex ∈ [1, 2, 3, 4, 5, 6, 7, 8, 9, 10] :=
      by_contra fun h => Nat.find_spec hex (fieldValid_other p h)
    have hbounds : 1 ≤ Nat.find hex ∧ Nat.find hex ≤ 10 := by
      simp only [List.mem_cons, List.not_mem_nil, or_false] at hmem
      omega
    have := (hfirst (Nat.find hex)).2 ⟨hbounds.1, hbounds.2, Nat.find_spec hex, hleast⟩
    rw [hnone] at this
    cases this
  · rcases h : setupFailure p with _ | n
    · rfl
    · exact absurd (hall n) ((hfirst n).1 h).2.2.1

/-! ### The setup record read -/

theorem reports_enterFaulted {kind : FaultKind} {area : Area} {n : Nat} :
    (s.enterFaulted kind area n).reports = s.reports := by
  simp [State.reports, State.enterFaulted, Vector.toList_map, Function.comp_def]

/-- A valid setup record: its values are kept, and the first card's line is asked for. -/
theorem takeSetup_valid {data : List Byte} (h : setupFailure (setupOf data) = none) :
    s.takeSetup data = { s with
      setup := setupOf data,
      sweep := { s.sweep with phase := .cards 0 },
      engine := { s.engine with waiting := s.engine.waiting ++
        [readOf .startSweep .startCardRead (fieldAt data 0x10 8 % 2 ^ 64)] } } := by
  have hcard : cardLineAddress (setupOf data) 0 0 = fieldAt data 0x10 8 % 2 ^ 64 := by
    simp [cardLineAddress, hostAddress, setupOf, Config.addressSpace]
  rw [State.takeSetup]
  simp only [h]
  rw [State.readStartCard, State.setPhase, State.sendRead, State.handOver, hcard]
  rfl

/-- Settles O11: the first invalid field faults the part, and a valid record begins the card pass. -/
theorem setupReadStartsOrFaults : Obligations.SetupReadStartsOrFaults := by
  intro s a rest data hdue hp
  have hx : exec (.setupReadComplete data) s = done s ((s.landed rest).takeSetup data) :=
    congrArg (done s) (onComplete_due hdue (by rw [hp]; rfl))
  constructor
  · intro n hn
    have ht : (s.landed rest).takeSetup data = (s.landed rest).enterFaulted .setupInvalid .setup n := by
      simp [State.takeSetup, hn]
    rw [hx, ht]
    refine ⟨_, done_same (by rw [reports_enterFaulted, landed_reports]), rfl, rfl, rfl, rfl, rfl, fun c => ?_⟩
    exact row_mapRows (s := s)
  · intro hn
    rw [hx, takeSetup_valid hn]
    exact ⟨_, done_same (by rfl), rfl, rfl, rfl⟩

/-! ### The card pass -/

theorem byteAt_set_self {data : List Byte} {i : Nat} {b : Byte} (h : i < data.length) :
    byteAt (data.set i b) i = b.toNat := by
  simp [byteAt, List.getD, h]

theorem byteAt_set_ne {data : List Byte} {i j : Nat} {b : Byte} (h : i ≠ j) :
    byteAt (data.set i b) j = byteAt data j := by
  simp [byteAt, List.getD, h]

/-- The line written to an OPEN card, byte by byte (R180). -/
theorem suspendedLine_bytes {data : List Byte} (h : data.length = 64) :
    (suspendedLine data).length = 64 ∧ byteAt (suspendedLine data) 0 = 3 ∧
    byteAt (suspendedLine data) 2 = (if byteAt data 1 = 0 then byteAt data 2 else 1) ∧
    ∀ i, i ≠ 0 → i ≠ 2 → byteAt (suspendedLine data) i = byteAt data i := by
  unfold suspendedLine
  simp only
  split
  · refine ⟨by simp [h], ?_, byteAt_set_ne (by decide), fun i hi _ => byteAt_set_ne hi.symm⟩
    rw [byteAt_set_self (by omega)]
    rfl
  · refine ⟨by simp [h], ?_, ?_, fun i hi hi2 => ?_⟩
    · rw [byteAt_set_ne (by decide), byteAt_set_self (by omega)]
      rfl
    · rw [byteAt_set_self (by simp [h])]
      rfl
    · rw [byteAt_set_ne hi2.symm, byteAt_set_ne hi.symm]

/-- The writes of a card's decision: one to an OPEN card, none to another (R180). -/
def cardWrites (p : Setup) (card : Nat) (data : List Byte) : List Access :=
  if byteAt data 0 = cardOpen then
    [writeOf .startSweep .startCardWrite (cardLineAddress p card 0) (suspendedLine data)]
  else []

/-- What the sweep keeps after a card's decision (R180). -/
def keptAfter (w : StartSweep) (data : List Byte) : StartSweep :=
  { w with kept := w.kept ++ [keptState (byteAt data 0)], largest := max w.largest (fieldAt data 4 4) }

/-- A card decided with a further one to read. -/
theorem decideCard_next {n : Nat} {data : List Byte} (h : n + 1 < s.setup.cardCount) :
    s.decideCard n data = { s with
      sweep := { keptAfter s.sweep data with phase := .cards (n + 1) },
      engine := { s.engine with waiting := s.engine.waiting ++ (cardWrites s.setup n data ++
        [readOf .startSweep .startCardRead (cardLineAddress s.setup (n + 1) 0)]) } } := by
  unfold State.decideCard cardWrites
  simp only [if_pos h]
  by_cases ho : byteAt data 0 = cardOpen
  · simp only [if_pos ho]
    simp [State.readStartCard, State.setPhase, State.sendRead, State.sendWrite, State.handOver, readOf, writeOf,
      keptAfter]
  · simp only [if_neg ho]
    simp [State.readStartCard, State.setPhase, State.sendRead, State.handOver, readOf, keptAfter]

/-- The last card decided: the filing sequence is the largest kept, and the map pass begins. -/
theorem decideCard_last {n : Nat} {data : List Byte} (h : s.setup.cardCount ≤ n + 1) :
    s.decideCard n data = { s with
      sweep := { keptAfter s.sweep data with phase := .map 0 },
      cards := { s.cards with sequence := max s.sweep.largest (fieldAt data 4 4) },
      engine := { s.engine with waiting := s.engine.waiting ++ (cardWrites s.setup n data ++
        [readOf .startSweep .startMapRead (mapLineAddress s.setup 0)]) } } := by
  unfold State.decideCard cardWrites
  simp only [if_neg (Nat.not_lt.2 h)]
  by_cases ho : byteAt data 0 = cardOpen
  · simp only [if_pos ho]
    simp [State.readStartMap, State.setPhase, State.sendRead, State.sendWrite, State.handOver, readOf, writeOf,
      keptAfter]
  · simp only [if_neg ho]
    simp [State.readStartMap, State.setPhase, State.sendRead, State.handOver, readOf, keptAfter]

/-- Settles O12: each card's write is `cardWrites`, and the pass goes on to the next card or to the map. -/
theorem startSweepDecidesEachCard : Obligations.StartSweepDecidesEachCard := by
  intro s a rest data n hdue hp hphase hlen
  have hx : exec (.startCardReadComplete data) s = done s ((s.landed rest).decideCard n data) := by
    refine congrArg (done s) ((onComplete_due hdue (by rw [hp]; rfl)).trans ?_)
    simp [hphase]
  have hkept : keptState (byteAt data 0) = if byteAt data 0 = 1 then 3 else byteAt data 0 := rfl
  have hnone : byteAt data 0 ≠ 1 → cardWrites s.setup n data = [] := fun h => if_neg h
  have hopen : byteAt data 0 = 1 → ∃ line, cardWrites s.setup n data = [writeOf .startSweep .startCardWrite
      ((s.setup.cardBase + (256 * n + 64 * 0)) % 2 ^ 64) line] ∧ line.length = 64 ∧
      byteAt line 0 = 3 ∧ byteAt line 2 = (if byteAt data 1 = 0 then byteAt data 2 else 1) ∧
      ∀ i, i ≠ 0 → i ≠ 2 → byteAt line i = byteAt data i :=
    fun h => ⟨suspendedLine data, if_pos h, suspendedLine_bytes hlen⟩
  by_cases hn : n + 1 < s.setup.cardCount
  · rw [hx, decideCard_next (s := s.landed rest) hn]
    refine ⟨_, cardWrites s.setup n data, _, done_same rfl, ?_, rfl, rfl, hnone, hopen,
      fun _ => ⟨rfl, rfl, rfl⟩, fun h => absurd hn (Nat.not_lt.2 h), rfl, rfl⟩
    rw [← hkept]; rfl
  · rw [hx, decideCard_last (s := s.landed rest) (Nat.not_lt.1 hn)]
    refine ⟨_, cardWrites s.setup n data, _, done_same rfl, ?_, rfl, rfl, hnone, hopen,
      fun h => absurd h hn, fun _ => ⟨rfl, rfl, rfl⟩, rfl, rfl⟩
    rw [← hkept]; rfl

/-! ### The map pass -/

/-- The write of an entry's decision, if it has one (R181). -/
def entryWrite (p : Setup) (kept : List Nat) (sheet state card : Nat) : Option Access :=
  (mapDecision p kept state card).map fun d => mapWriteOf p .startSweep .mapWrite sheet d.1 d.2

/-- An entry is left FREE (R181). -/
def leftFree (p : Setup) (kept : List Nat) (state card : Nat) : Bool :=
  ((mapDecision p kept state card).map Prod.fst).getD state == mapFree

/-- An entry decided: counted where it is left FREE, and its write handed over. -/
theorem decideEntry_eq (sheet state card : Nat) : s.decideEntry sheet state card = { s with
    sweep := { s.sweep with free := s.sweep.free + (leftFree s.setup s.sweep.kept state card).toNat },
    engine := { s.engine with
      waiting := s.engine.waiting ++ (entryWrite s.setup s.sweep.kept sheet state card).toList } } := by
  unfold State.decideEntry leftFree entryWrite
  simp only
  rcases hd : mapDecision s.setup s.sweep.kept state card with _ | ⟨x, y⟩
  · by_cases hf : state = mapFree
    · simp [hf]
    · have hb : (state == mapFree) = false := by simpa using hf
      simp [hf, hb]
  · have hb : (x == mapFree) = decide (x = mapFree) := rfl
    by_cases hf : x = mapFree <;>
      simp [hf, hb, State.sendMapEntry, State.sendWrite, State.handOver, mapWriteOf, writeOf, mapEntryAddress,
        hostAddress, mapEntryBytes, Config.addressSpace]

/-- The entries of a line from entry `i` on, as sheet number, state byte and card byte. -/
def lineEntries (line : List Byte) (k i n : Nat) : List (Nat × Nat × Nat) :=
  (List.range' i n).map fun j => (32 * k + j, mapStateAt line j, mapCardAt line j)

/-- A line's entries decided one by one, their writes handed over in order. -/
theorem decideEntries_eq (line : List Byte) (k : Nat) : ∀ (n i : Nat) (s : State), i + n ≤ 32 →
    State.decideEntries line n (32 * k + i) s = { s with
      sweep := { s.sweep with free := s.sweep.free +
        (lineEntries line k i n).countP fun e => leftFree s.setup s.sweep.kept e.2.1 e.2.2 },
      engine := { s.engine with waiting := s.engine.waiting ++
        (lineEntries line k i n).filterMap fun e => entryWrite s.setup s.sweep.kept e.1 e.2.1 e.2.2 } }
  | 0, i, s, _ => by simp [State.decideEntries, lineEntries]
  | n + 1, i, s, h => by
    have hm : (32 * k + i) % 32 = i := by omega
    rw [State.decideEntries, hm, Nat.add_assoc, decideEntries_eq line k n (i + 1) _ (by omega), decideEntry_eq]
    have hcount : ∀ b : Bool, ∀ m : Nat, b.toNat + m = m + (if b = true then 1 else 0) := by
      intro b m; cases b <;> simp [Nat.add_comm]
    simp only [lineEntries, List.range'_succ, List.map_cons, List.countP_cons, List.filterMap_cons]
    congr 1
    · simp only [Nat.add_assoc, hcount]
    · rcases entryWrite s.setup s.sweep.kept (32 * k + i) (mapStateAt line i) (mapCardAt line i) with _ | w <;> simp

/-- The decision by the names that 11.3 gives the states. -/
theorem mapDecision_eq (p : Setup) (kept : List Nat) (state card : Nat) : mapDecision p kept state card =
    if state = 1 then some (0, 0)
    else if state = 2 ∨ state = 3 then
      some (if (decide (card < p.cardCount) && kept[card]? == some 3) = true then (4, card) else (0, 0))
    else none := by
  have hk : kept.getD card cardVacant = cardSuspended ↔ kept[card]? = some 3 := by
    rw [List.getD]
    cases kept[card]? <;> simp [cardVacant, cardSuspended]
  simp only [mapDecision, mapClaimed, mapAudio, mapIndex, mapFiled, mapFree, hk]
  split
  · rfl
  · split
    · simp only [Bool.and_eq_true, decide_eq_true_eq, beq_iff_eq]
      split <;> rfl
    · rfl

/-- The writes of a line's entries (R181). -/
def lineWrites (s : State) (k : Nat) (line : List Byte) : List Access :=
  (lineEntries line k 0 (min 32 (s.setup.sheetCount - 32 * k))).filterMap fun e =>
    entryWrite s.setup s.sweep.kept e.1 e.2.1 e.2.2

/-- The entries left FREE up to a line (R181). -/
def freeAfter (s : State) (k : Nat) (line : List Byte) : Nat :=
  s.sweep.free + (lineEntries line k 0 (min 32 (s.setup.sheetCount - 32 * k))).countP fun e =>
    leftFree s.setup s.sweep.kept e.2.1 e.2.2

/-- A line decided with a further one to read. -/
theorem decideLine_next {k : Nat} {line : List Byte} (h : 32 * (k + 1) < s.setup.sheetCount) :
    s.decideLine k line = { s with
      sweep := { s.sweep with phase := .map (k + 1), free := freeAfter s k line },
      engine := { s.engine with waiting := s.engine.waiting ++ (lineWrites s k line ++
        [readOf .startSweep .startMapRead (mapLineAddress s.setup (k + 1))]) } } := by
  have := decideEntries_eq line k (min 32 (s.setup.sheetCount - 32 * k)) 0 s (by omega)
  unfold State.decideLine
  simp only [if_pos h]
  rw [Nat.add_zero] at this
  rw [this]
  simp [State.readStartMap, State.setPhase, State.sendRead, State.handOver, readOf, lineWrites, freeAfter]

/-- The last line decided: the tally is set, and the order book pass begins. -/
theorem decideLine_last {k : Nat} {line : List Byte} (h : s.setup.sheetCount ≤ 32 * (k + 1)) :
    s.decideLine k line = { s with
      sweep := { s.sweep with phase := .slots 0, free := freeAfter s k line },
      sheets := { s.sheets with tally := freeAfter s k line },
      engine := { s.engine with waiting := s.engine.waiting ++ (lineWrites s k line ++
        [readOf .startSweep .startSlotRead (hostAddress s.base (0x800 + 64 * 0))]) } } := by
  have := decideEntries_eq line k (min 32 (s.setup.sheetCount - 32 * k)) 0 s (by omega)
  unfold State.decideLine
  simp only [if_neg (Nat.not_lt.2 h)]
  rw [Nat.add_zero] at this
  rw [this]
  simp [State.readStartSlot, State.setPhase, State.sendRead, State.handOver, readOf, lineWrites, freeAfter]

/-- Settles O13: the entries of the line are decided as `decideEntries_eq` says, then the next line is read, or
the tally set and the first order slot read. -/
theorem startSweepDecidesEachMapLine : Obligations.StartSweepDecidesEachMapLine := by
  intro s a rest data k hdue hp hphase hk entries suspended result writes free
  have hx : exec (.startMapReadComplete data) s = done s ((s.landed rest).decideLine k data) := by
    refine congrArg (done s) ((onComplete_due hdue (by rw [hp]; rfl)).trans ?_)
    simp [hphase]
  have hresult : ∀ st card, mapDecision s.setup s.sweep.kept st card = result st card :=
    fun st card => mapDecision_eq s.setup s.sweep.kept st card
  have hentries : lineEntries data k 0 (min 32 (s.setup.sheetCount - 32 * k)) = entries := by
    simp [lineEntries, entries, List.range_eq_range', mapStateAt, mapCardAt]
  have hwrites : lineWrites (s.landed rest) k data = writes := by
    simp only [lineWrites, landed_setup, landed_sweep, hentries, writes, entryWrite, hresult]
    rfl
  have hfree : freeAfter (s.landed rest) k data = free := by
    simp only [freeAfter, landed_setup, landed_sweep, hentries, free, leftFree, hresult]
    congr 2
    funext ⟨n, st, card⟩
    rcases result st card with _ | ⟨x, y⟩ <;> rfl
  by_cases hn : 32 * (k + 1) < s.setup.sheetCount
  · rw [hx, decideLine_next (s := s.landed rest) hn, hwrites, hfree]
    exact ⟨_, _, done_same (by rfl), rfl, rfl, rfl, rfl, fun _ => ⟨rfl, rfl, rfl⟩,
      fun h => absurd hn (Nat.not_lt.2 h), rfl⟩
  · rw [hx, decideLine_last (s := s.landed rest) (Nat.not_lt.1 hn), hwrites, hfree]
    exact ⟨_, _, done_same (by rfl), rfl, rfl, rfl, rfl, fun h => absurd h hn, fun _ => ⟨rfl, rfl, rfl⟩, rfl⟩

/-! ### The order book pass -/

/-- A finishing write of the start sweep is under way (R182). -/
theorem answering_iff : s.answering = true ↔ ∃ b ∈ s.engine.waiting ++ s.engine.flight,
    b.who = .startSweep ∧ ((∃ j, b.purpose = .finishResult j) ∨ ∃ j, b.purpose = .finishState j) := by
  simp only [State.answering, List.any_eq_true, Bool.and_eq_true, beq_iff_eq]
  refine exists_congr fun b => and_congr_right fun _ => and_congr_right fun _ => ?_
  split <;> simp_all

/-- A request changes the desk unit alone. -/
theorem requestDesk_frame (s : State) : s.requestDesk = { s with desk := s.requestDesk.desk } := by
  unfold State.requestDesk
  split
  · split <;> rfl
  · rfl

/-- In IDLE a request is kept until the write begins (R165). -/
theorem requestDesk_requested (ha : s.active = true) (hw : s.desk.writing = false) :
    s.requestDesk = { s with desk := { s.desk with requested := true } } := by
  rw [State.requestDesk, if_pos ha, if_neg (by simp [hw])]

/-- The slot's answer, where it reads ACCEPTED (R182). -/
def State.answerSlot (s : State) (k : OrderSlot) (data : List Byte) : State :=
  if slotState data = slotAccepted then s.finishBy .startSweep k codeResetLost 0 0 else s

theorem answerSlot_frame (k : OrderSlot) (data : List Byte) :
    s.answerSlot k data = { s with
      orders := (s.answerSlot k data).orders, engine := (s.answerSlot k data).engine } := by
  unfold State.answerSlot
  split <;> rfl

theorem answerSlot_other {k : OrderSlot} {data : List Byte} (h : byteAt data 0 ≠ 2) : s.answerSlot k data = s :=
  if_neg h

/-- An ACCEPTED slot leaves the table and takes the next finish number (R182). -/
theorem answerSlot_accepted {k : OrderSlot} {data : List Byte} (h : byteAt data 0 = 2) :
    (s.answerSlot k data).orders.finishCounter = s.orders.finishCounter + 1#32 ∧
    (s.answerSlot k data).orders.accepted = s.orders.accepted.set k none ∧
    HandedOver s (s.answerSlot k data) [writeOf .startSweep (.finishResult k)
      ((s.base + (0x800 + 64 * k.val + 0x30)) % 2 ^ 64)
      (bytesOf 4 6 ++ bytesOf 4 0 ++ bytesOf 4 0 ++ bytesOf 4 (s.orders.finishCounter + 1#32).toNat)] := by
  have ha : s.answerSlot k data = s.finishBy .startSweep k codeResetLost 0 0 := if_pos h
  rw [ha]
  refine ⟨rfl, rfl, ?_⟩
  rw [HandedOver, State.finishBy, resultBytes_eq (by decide)]
  rfl

/-- Answers are under way where this slot is answered or an earlier answer is not complete. -/
theorem answering_answerSlot {k : OrderSlot} {data : List Byte} {p : StartPhase} :
    ((s.answerSlot k data).setPhase p).answering = true ↔
      byteAt data 0 = 2 ∨ ∃ b ∈ s.engine.waiting ++ s.engine.flight, b.who = .startSweep ∧
        ((∃ j, b.purpose = .finishResult j) ∨ ∃ j, b.purpose = .finishState j) := by
  rw [answering_iff]
  change (∃ b ∈ (s.answerSlot k data).engine.waiting ++ (s.answerSlot k data).engine.flight, _) ↔ _
  by_cases hd : byteAt data 0 = 2
  · obtain ⟨-, -, hwrite⟩ := answerSlot_accepted (s := s) (k := k) hd
    rw [hwrite]
    simp only [hd, true_or, iff_true]
    exact ⟨_, List.mem_append_left _ (List.mem_append_right _ (List.mem_singleton.2 rfl)), rfl, .inl ⟨k, rfl⟩⟩
  · rw [answerSlot_other hd]
    simp [hd]

/-- The last slot decided: the sweep waits for its answers, or has its desk write requested. -/
theorem endAnswers_eq (hp : s.sweep.phase = .answering) :
    s.endAnswers = if s.answering then s else (s.setPhase .desk).requestDesk := by
  unfold State.endAnswers
  by_cases ha : s.answering = true <;> simp [hp, ha]

/-- A slot decided: its answer, then the next read, or the end of the pass. -/
theorem decideSlot_eq (k : OrderSlot) (data : List Byte) : s.decideSlot k data =
    if k.val < 31 then (s.answerSlot k data).readStartSlot (k.val + 1)
    else ((s.answerSlot k data).setPhase .answering).endAnswers := by
  unfold State.decideSlot State.answerSlot
  by_cases hk : k.val < 31
  · simp only [if_pos hk, if_pos (show k.val + 1 < 32 by omega)]
  · simp only [if_neg hk, if_neg (show ¬ k.val + 1 < 32 by omega)]

/-- Settles O14: an ACCEPTED slot is answered, and the pass goes on or waits for its answers. -/
theorem startSweepAnswersAcceptedSlots : Obligations.StartSweepAnswersAcceptedSlots := by
  intro s a rest data k hdue hp hphase next number answering
  have hx : exec (.startSlotReadComplete data) s = done s ((s.landed rest).decideSlot k data) := by
    refine congrArg (done s) ((onComplete_due hdue (by rw [hp]; rfl)).trans ?_)
    simp [hphase]
  have hframe := answerSlot_frame (s := s.landed rest) k data
  have hanswering := answering_answerSlot (s := s.landed rest) (k := k) (data := data) (p := .answering)
  have htell : ∀ t, t.orders = ((s.landed rest).answerSlot k data).orders →
      HandedOver ((s.landed rest).answerSlot k data) t next →
      (byteAt data 0 ≠ 2 → t.orders = s.orders ∧ HandedOver (s.landed rest) t next) ∧
      (byteAt data 0 = 2 → t.orders.finishCounter = number ∧ t.orders.accepted[k] = none ∧
        (∀ j : OrderSlot, j ≠ k → t.orders.accepted[j] = s.orders.accepted[j]) ∧
        HandedOver (s.landed rest) t
          (writeOf .startSweep (.finishResult k) ((s.base + (0x800 + 64 * k.val + 0x30)) % 2 ^ 64)
            (bytesOf 4 6 ++ bytesOf 4 0 ++ bytesOf 4 0 ++ bytesOf 4 number.toNat) :: next)) := by
    intro t ho he
    refine ⟨fun hd => ?_, fun hd => ?_⟩
    · rw [answerSlot_other hd] at ho he
      exact ⟨ho, he⟩
    · obtain ⟨hcount, htable, hwrite⟩ := answerSlot_accepted (s := s.landed rest) (k := k) hd
      rw [ho, htable]
      refine ⟨hcount, by simp, fun j hj => ?_, hwrite.trans he⟩
      have hne : (k : Nat) ≠ j := fun e => hj (Fin.ext e.symm)
      simp [hne]
  rw [decideSlot_eq] at hx
  generalize (s.landed rest).answerSlot k data = u at *
  by_cases hk : k.val < 31
  · have hnext : next = [readOf .startSweep .startSlotRead ((s.base + (0x800 + 64 * (k.val + 1))) % 2 ^ 64)] :=
      if_pos hk
    rw [if_pos hk] at hx
    refine ⟨_, hx.trans (done_same ?_), ?_, fun _ => ⟨?_, ?_⟩, fun h => absurd h (by omega), fun h => absurd h (by omega),
      htell _ rfl ?_⟩
    all_goals rw [hframe]
    · rfl
    · rfl
    · rfl
    · rfl
    · rw [hnext]
      rfl
  · have hnext : next = [] := if_neg hk
    rw [if_neg hk, endAnswers_eq rfl] at hx
    by_cases ha : answering
    · rw [if_pos (hanswering.2 ha)] at hx
      refine ⟨_, hx.trans (done_same ?_), ?_, fun h => absurd h hk, fun _ _ => ⟨?_, ?_⟩, fun _ h => absurd ha h,
        htell _ rfl ?_⟩
      all_goals rw [hframe]
      · rfl
      · rfl
      · rfl
      · rfl
      · rw [hnext]
        exact HandedOver.refl u
    · rw [if_neg (mt hanswering.1 ha)] at hx
      have hd := requestDesk_frame ((u.setPhase .answering).setPhase .desk)
      refine ⟨_, hx.trans (done_same ?_), ?_, fun h => absurd h hk, fun _ h => absurd h ha, fun _ _ => ⟨?_, ?_⟩,
        htell _ ?_ ?_⟩
      · rw [hd, hframe]; rfl
      · rw [hd, hframe]; rfl
      · rw [hd, hframe]; rfl
      · intro hs hw
        rw [requestDesk_requested]
        · rw [hframe]; rfl
        · rw [hframe]; exact active_iff.2 (.inl hs)
        · rw [hframe]; exact hw
      · rw [hd]; rfl
      · rw [hd, hnext]
        exact HandedOver.refl u

end Sys2Proof.Machine
end

section
/-! PROOFS. The keys that act on one row: what a refused key, a mode key and a move leave. -/

namespace Sys2Proof.Machine

open Sys2Proof

variable {s t u : State} {c : Chan} {st : ChanState} {code arg : Nat} {rest : List Key}

/-! ### Updates of a row just set -/

theorem modRow_setRow {r : ChanRow} {f : ChanRow → ChanRow} : (s.setRow c r).modRow c f = s.setRow c (f r) := by
  simp [State.modRow]

theorem modCtx_setRow {r : ChanRow} {f : Context → Context} :
    (s.setRow c r).modCtx c f = s.setRow c { r with ctx := f r.ctx } := modRow_setRow

theorem raise_setRow {r : ChanRow} {n : Notice} :
    (s.setRow c r).raise c n = s.setRow c { r with ctx := { r.ctx with transient := some (n, 32) } } := modCtx_setRow

/-- The outcome of a step that leaves the desk unit alone differs from its state in changed alone. -/
theorem done_desk (hp : u.regs.part ≠ .starting) (hd : u.desk = s.desk) :
    ∃ d, done s u = .next { u with desk := d } ∧ DeskReported s { u with desk := d } := by
  obtain ⟨v, hv, hrep, he, -⟩ := done_reported hp hd
  exact ⟨v.desk, he ▸ hv, he ▸ hrep⟩

/-! ### A key at the head of its queue -/

/-- The row of a channel whose head key has left the queue. -/
def ChanRow.withKeys (r : ChanRow) (rest : List Key) : ChanRow := { r with ctx := { r.ctx with keys := rest } }

theorem popKey_eq (h : KeyAtHead s c st code arg rest) :
    s.popKey c = s.setRow c ((s.row c).withKeys rest) := by
  simp [State.popKey, State.modCtx, State.modRow, ChanRow.withKeys, h.keys]

theorem KeyAtHead.takes (h : KeyAtHead s c st code arg rest) : s.chanState c = st := h.state

/-- A key that acts on the row of its channel alone. -/
theorem key_row {p : Nat → Bool} {body : Key → State} {r : ChanRow} (h : KeyAtHead s c st code arg rest)
    (ht : st ∈ [ChanState.idle, .ready, .recording, .playing]) (hp : p code = true)
    (hb : body { code := code, arg := arg } = s.setRow c r) :
    ∃ t, done s (s.takeKey c p body) = .next t ∧ RowBecomes s t c r := by
  obtain ⟨v, hv, hrow, -, -⟩ := done_row (s := s) (b := s) (by simp [h.running]) rfl rfl hb
  exact ⟨v, by rw [takeKey_at h ht hp, hv], hrow⟩

/-- A key whose work leaves registers and desk unit alone. -/
theorem key_desk {p : Nat → Bool} {body : Key → State} (h : KeyAtHead s c st code arg rest)
    (ht : st ∈ [ChanState.idle, .ready, .recording, .playing]) (hp : p code = true)
    (hb : body { code := code, arg := arg } = u) (hr : u.regs = s.regs) (hd : u.desk = s.desk) :
    ∃ d, done s (s.takeKey c p body) = .next { u with desk := d } ∧ DeskReported s { u with desk := d } := by
  rw [takeKey_at h ht hp, hb]
  exact done_desk (by simp [hr, h.running]) hd

/-- A refused key goes, and REFUSED stands for 32 frames. -/
theorem refuseKey_eq (h : KeyAtHead s c st code arg rest) : s.refuseKey c =
    s.setRow c { s.row c with ctx := { (s.row c).ctx with keys := rest, transient := some (.refused, 32) } } := by
  rw [State.refuseKey, popKey_eq h, raise_setRow]
  rfl

theorem letterKey_idle (h : s.chanState c = .idle) {act : State → State} :
    s.letterKey c act = s.refuseKey c := by
  simp [State.letterKey, h]

theorem letterKey_recording (h : s.chanState c = .recording) {act : State → State} :
    s.letterKey c act = s.stopTake c .saving := by
  simp [State.letterKey, h]

theorem letterKey_ready (h : s.chanState c = .ready) {act : State → State} :
    s.letterKey c act = act (s.popKey c) := by
  simp [State.letterKey, h]

theorem letterKey_playing (h : s.chanState c = .playing) {act : State → State} :
    s.letterKey c act = act (s.popKey c) := by
  simp [State.letterKey, h]

/-! ### Refused keys -/

/-- Settles O21: each of the keys named reduces to refuseKey by its channel state or its argument. -/
theorem refusedKeysLeaveNotice : Obligations.RefusedKeysLeaveNotice := by
  unfold Obligations.RefusedKeysLeaveNotice
  intro s c st code arg rest h ht
  dsimp only
  refine ⟨?_, ?_, ?_, ?_⟩
  · rintro i rfl hi
    simp only [List.mem_cons, Prod.mk.injEq, List.not_mem_nil, or_false] at hi
    rcases hi with ⟨rfl, rfl⟩ | ⟨rfl, rfl⟩ | ⟨rfl, rfl⟩ | ⟨rfl, rfl⟩ | ⟨rfl, rfl⟩ | ⟨rfl, rfl⟩
    · exact key_row h ht rfl ((letterKey_idle h.state).trans (refuseKey_eq h))
    · exact key_row h ht rfl ((letterKey_idle h.state).trans (refuseKey_eq h))
    · exact key_row h ht rfl ((letterKey_idle h.state).trans (refuseKey_eq h))
    · exact key_row h ht rfl (by simp only [h.takes]; exact refuseKey_eq h)
    · exact key_row h ht rfl ((letterKey_idle h.state).trans (refuseKey_eq h))
    · exact key_row h ht rfl (by simp only [h.takes]; exact refuseKey_eq h)
  · intro i hst hi
    have hrefused : ∀ act : State → State,
        (if arg = 0 then s.refuseKey c else s.letterKey c act) = s.refuseKey c := by
      intro act
      rcases hst with rfl | rfl
      · rw [letterKey_idle h.state, ite_self]
      · exact if_pos rfl
    simp only [List.mem_cons, Prod.mk.injEq, List.not_mem_nil, or_false] at hi
    rcases hi with ⟨rfl, rfl⟩ | ⟨rfl, rfl⟩
    · exact key_row h ht rfl ((hrefused _).trans (refuseKey_eq h))
    · exact key_row h ht rfl ((hrefused _).trans (refuseKey_eq h))
  · rintro rfl rfl
    exact key_row h ht rfl (by simp only [h.takes]; exact refuseKey_eq h)
  · intro hc
    exact key_row h ht (by simpa using hc) (refuseKey_eq h)

/-! ### Mode keys -/

/-- Settles O23: each mode key sets its own part of the row. -/
theorem modeKeysSetFlags : Obligations.ModeKeysSetFlags := by
  unfold Obligations.ModeKeysSetFlags
  intro s c st code arg rest h ht
  dsimp only
  have hflag : (arg != 0) = decide (arg ≠ 0) := by cases arg <;> simp
  refine ⟨?_, ?_, ?_, ?_⟩
  · rintro rfl hne
    refine key_row h ht rfl ?_
    simp only [h.takes]
    rw [popKey_eq h, modCtx_setRow, hflag]
    rfl
  · rintro rfl
    refine key_row h ht rfl ?_
    rw [popKey_eq h, modRow_setRow, hflag]
    have hne : ∀ a b : Bool, (a != b) = decide (a ≠ b) := by decide
    simp only [ChanRow.withKeys, h.state, hne, Bool.decide_and]
  · rintro rfl hne
    refine key_row h ht rfl ?_
    simp only [h.takes]
    rw [popKey_eq h, modCtx_setRow]
    rfl
  · rintro rfl
    refine key_row h ht rfl ?_
    rw [popKey_eq h, modCtx_setRow]
    rfl

/-! ### Moves of the cursor -/

theorem row_withKeys_length {r : ChanRow} : (r.withKeys rest).length = r.length := rfl

theorem moveTo_ready {r : ChanRow} {target : Nat} (hr : r.ctx.state = .ready) : (s.setRow c r).moveTo c target =
    s.setRow c { r with ctx := { r.ctx with cursor := snap s.letters.records r.spanList target } } := by
  simp [State.moveTo, hr, modCtx_setRow]

theorem snap_zero (table : List (Nat × RecordEntry)) (spans : List Span) : snap table spans 0 = 0 := by
  by_cases h : 0 < lengthOf spans
  · exact Nat.le_zero.1 (snap_le h)
  · rw [snap_of_end (by omega)]
    omega

/-- Settles O24: each move gives its target to the snap. -/
theorem movesInReadySetTheCursor : Obligations.MovesInReadySetTheCursor := by
  unfold Obligations.MovesInReadySetTheCursor
  intro s c code arg rest i target h x l hi harg
  let p := snap s.letters.records (s.row c).spanList target
  have hr : ((s.row c).withKeys rest).ctx.state = .ready := h.state
  have hbase : ((s.row c).withKeys rest).moveBase = x.cursor := if_neg (by simp [hr])
  have hacts : ∀ f : State → Nat, f (s.popKey c) = target →
      s.letterKey c (fun t => t.moveTo c (f t)) =
        s.setRow c { s.row c with ctx := { x with keys := rest, cursor := p } } := by
    intro f hf
    rw [letterKey_ready h.state, hf, popKey_eq h, moveTo_ready hr]
    rfl
  have hmove : ∃ t, exec i s = .next t ∧ ContextBecomes s t c { x with keys := rest, cursor := p } := by
    simp only [List.mem_cons, Prod.mk.injEq, List.not_mem_nil, or_false] at hi
    rcases hi with ⟨rfl, rfl, rfl⟩ | ⟨rfl, rfl, rfl⟩ | ⟨rfl, rfl, rfl⟩ | ⟨rfl, rfl, rfl⟩
    · refine key_row h (by simp) rfl ?_
      rw [if_neg (harg (Or.inl rfl))]
      exact hacts _ (by rw [popKey_eq h, row_setRow_self, hbase]; rfl)
    · refine key_row h (by simp) rfl ?_
      rw [if_neg (harg (Or.inr rfl))]
      exact hacts _ (by rw [popKey_eq h, row_setRow_self, hbase]; rfl)
    · exact key_row h (by simp) rfl (hacts (fun _ => 0) rfl)
    · exact key_row h (by simp) rfl (hacts (fun t => (t.row c).length)
        (by rw [popKey_eq h, row_setRow_self]; rfl))
  obtain ⟨t, ht, hctx⟩ := hmove
  refine ⟨t, p, ht, hctx, rfl, fun hl => snap_of_end hl, fun hl => ⟨snap_le hl, fun q hq => snap_of_holds hl hq⟩, ?_⟩
  rintro rfl
  exact snap_zero _ _

/-! ### An opening asked for -/

theorem openLetter_held {r : ChanRow} {cause : OpenCause} (h : s.sheets.hold = true) :
    (s.setRow c r).openLetter c cause =
      s.setRow c { r with ctx := { r.ctx with transient := some (.storageHold, 32) } } := by
  simp [State.openLetter, h, raise_setRow]

theorem openLetter_clear {r : ChanRow} {cause : OpenCause} (h : s.sheets.hold = false) :
    (s.setRow c r).openLetter c cause =
      ({ s with cards := { s.cards with openQueue := s.cards.openQueue ++ [c] } } : State).setRow c
        { r with ctx := { r.ctx with openRequest := some cause }, op := some (.opening none) } := by
  simp only [State.openLetter, setRow_sheets, h, modRow_setRow]
  rfl

/-- A row whose reported items stay leaves every reported item. -/
theorem reports_setRow {r : ChanRow} (h : channelReport r.ctx = channelReport (s.row c).ctx) :
    (s.setRow c r).reports = s.reports := by
  have hmap : ((s.setRow c r).chans.toList.map fun r => channelReport r.ctx) =
      s.chans.toList.map fun r => channelReport r.ctx := by
    refine List.ext_getElem (by simp) fun n h1 h2 => ?_
    have hn : n < 32 := by simpa using h2
    have hrow : ∀ v : State, v.chans.toList[n]'(by simpa using hn) = v.row ⟨n, hn⟩ := fun v => by
      simp [State.row]
    simp only [List.getElem_map, hrow, row_setRow]
    split
    · next he => rw [h, ← he]
    · rfl
  simp only [State.reports, hmap, setRow_inputs, setRow_sheets]

/-- Settles O27: the request of an opening, by the storage hold. -/
theorem idleKeysOpenALetter : Obligations.IdleKeysOpenALetter := by
  unfold Obligations.IdleKeysOpenALetter
  intro s c code arg rest i cause h hi
  dsimp only
  have hbody : ∃ p body, exec i s = done s (s.takeKey c p body) ∧ p code = true ∧
      body { code := code, arg := arg } = (s.popKey c).openLetter c cause := by
    simp only [List.mem_cons, Prod.mk.injEq, List.not_mem_nil, or_false] at hi
    rcases hi with ⟨rfl, rfl, rfl⟩ | ⟨rfl, rfl, rfl⟩
    · exact ⟨_, _, rfl, rfl, by simp only [State.actNew, h.takes]⟩
    · exact ⟨_, _, rfl, rfl, by simp only [State.actRecord, h.takes]⟩
  obtain ⟨p, body, he, hp, hb⟩ := hbody
  rw [popKey_eq h] at hb
  rw [he]
  constructor
  · intro hold
    exact key_row h (by simp) hp (hb.trans (openLetter_held hold))
  · intro hclear
    rw [takeKey_at h (by simp) hp, hb, openLetter_clear hclear, done_same]
    · exact ⟨_, rfl, fun d hd => row_setRow_ne hd, rfl, row_setRow_self, rfl⟩
    · exact reports_setRow (s := { s with cards := _ }) rfl

end Sys2Proof.Machine
end

section
/-! PROOFS. The keys that play a letter, start its take, file it or discard it: the emptied read-ahead, the letter
leaving the store, and the split at the cursor, each said once for a row just set. -/

namespace Sys2Proof.Machine

open Sys2Proof

variable {s t u : State} {c : Chan} {st : ChanState} {code arg : Nat} {rest : List Key} {r : ChanRow}

/-! ### Playback stopped and begun -/

/-- A row whose read-ahead is emptied. -/
def ChanRow.silent (r : ChanRow) : ChanRow := { r with ahead := [], began := false }

/-- A row whose playback has stopped at a position. -/
def ChanRow.readyAt (r : ChanRow) (p : Nat) : ChanRow :=
  { r.silent with ctx := { r.ctx with state := .ready, playPos := none, cursor := p } }

theorem emptyAhead_setRow : (s.setRow c r).emptyAhead c = (s.readsGone c).setRow c r.silent := by
  rw [State.emptyAhead]
  exact modRow_setRow (s := s.readsGone c)

theorem emptyAhead_eq : s.emptyAhead c = (s.readsGone c).setRow c (s.row c).silent := rfl

theorem stopPlayback_setRow : (s.setRow c r).stopPlayback c = (s.readsGone c).setRow c
    (r.readyAt (snap s.letters.records r.spanList (r.ctx.playPos.getD r.ctx.cursor))) := by
  simp only [State.stopPlayback, emptyAhead_setRow, modCtx_setRow, row_setRow_self, setRow_letters]
  rfl

theorem endPlayback_setRow :
    (s.setRow c r).endPlayback c = (s.readsGone c).setRow c (r.readyAt r.length) := by
  simp only [State.endPlayback, emptyAhead_setRow, modCtx_setRow, row_setRow_self]
  rfl

/-- What a beginning of playback at a position leaves: the places asked for and their reads. -/
theorem playFrom_setRow (p : Nat) : ∃ more,
    AsksFrom s.letters.records r.spanList p [] more ∧
    ((s.setRow c r).playFrom c p).row c = { r with
      ctx := { r.ctx with state := .playing, cursor := p, playPos := some p }, ahead := more, began := false } ∧
    OtherRows c s ((s.setRow c r).playFrom c p) ∧
    HandedOver (s.readsGone c) ((s.setRow c r).playFrom c p) (playReads s.setup c more) ∧
    (s.setRow c r).playFrom c p = { s with
      chans := ((s.setRow c r).playFrom c p).chans, engine := ((s.setRow c r).playFrom c p).engine } := by
  let q : ChanRow := { r with
    ctx := { r.ctx with state := .playing, cursor := p, playPos := some p }, ahead := [], began := false }
  have hq : (s.setRow c r).playFrom c p = State.askPlayback c 4 ((s.readsGone c).setRow c q) := by
    rw [State.playFrom, emptyAhead_setRow, modCtx_setRow]
    rfl
  obtain ⟨more, hasks, hrow, hothers, hover, hframe⟩ := askPlayback_asks c 4 ((s.readsGone c).setRow c q) (by simp)
  rw [← hq] at hrow hothers hover hframe
  rw [row_setRow_self] at hasks hrow
  refine ⟨more, hasks, hrow, fun d hd => (hothers d hd).trans (row_setRow_ne hd), hover, hframe.trans rfl⟩

theorem actPlay_begins (hs : r.ctx.state = .ready) (hl : r.ctx.cursor < r.length) :
    (s.setRow c r).actPlay c = (s.setRow c r).playFrom c r.ctx.cursor := by
  simp [State.actPlay, hs, hl]

theorem actPlay_stays (h : r.ctx.state = .ready → r.length ≤ r.ctx.cursor) :
    (s.setRow c r).actPlay c = s.setRow c r := by
  simp only [State.actPlay, row_setRow_self]
  refine if_neg fun hs => ?_
  have := h hs.1
  omega

theorem moveTo_plays {target : Nat} (hs : r.ctx.state = .playing)
    (hp : snap s.letters.records r.spanList target < r.length) : (s.setRow c r).moveTo c target =
      (s.setRow c r).playFrom c (snap s.letters.records r.spanList target) := by
  simp [State.moveTo, hs, hp]

theorem moveTo_ends {target : Nat} (hs : r.ctx.state = .playing)
    (hp : r.length ≤ snap s.letters.records r.spanList target) : (s.setRow c r).moveTo c target =
      (s.readsGone c).setRow c (r.readyAt r.length) := by
  rw [← endPlayback_setRow]
  simp [State.moveTo, hs, Nat.not_lt.2 hp]

/-- Settles O25: a key that begins, moves or stops playback, each from the row with its key gone. -/
theorem playbackBeginsMovesAndStops : Obligations.PlaybackBeginsMovesAndStops := by
  unfold Obligations.PlaybackBeginsMovesAndStops
  intro s c st code arg rest h x spans l base plays stops moves
  let r := (s.row c).withKeys rest
  have hstate : r.ctx.state = st := h.state
  have hplays : ∀ (p : Nat) (code' : Nat → Bool) (body : Key → State),
      st ∈ [ChanState.idle, .ready, .recording, .playing] → code' code = true →
      body { code := code, arg := arg } = (s.setRow c r).playFrom c p →
      ∃ t, done s (s.takeKey c code' body) = .next t ∧ OtherRows c s t ∧ plays t p := by
    intro p code' body hst hp hb
    obtain ⟨more, hasks, hrow, hothers, hover, hframe⟩ := playFrom_setRow (s := s) (c := c) (r := r) p
    rw [← hb] at hrow hothers hover hframe
    obtain ⟨d, hd, -⟩ := key_desk (body := body) h hst hp rfl (by rw [hframe]) (by rw [hframe])
    refine ⟨_, hd, hothers, congrArg ChanRow.ctx hrow, congrArg ChanRow.began hrow, ?_, ?_, ?_⟩
    · exact (congrArg ChanRow.ahead hrow) ▸ hasks
    · exact (congrArg ChanRow.ahead hrow) ▸ hover
    · rw [hframe]
  have hstops : ∀ (p : Nat) (code' : Nat → Bool) (body : Key → State),
      st ∈ [ChanState.idle, .ready, .recording, .playing] → code' code = true →
      body { code := code, arg := arg } = (s.readsGone c).setRow c (r.readyAt p) →
      ∃ t, done s (s.takeKey c code' body) = .next t ∧ OtherRows c s t ∧ stops t p := by
    intro p code' body hst hp hb
    obtain ⟨d, hd, -⟩ := key_desk h hst hp hb rfl rfl
    have hrow : (State.row { (s.readsGone c).setRow c (r.readyAt p) with desk := d } c) = r.readyAt p :=
      row_setRow_self
    exact ⟨_, hd, fun e he => row_setRow_ne he, congrArg ChanRow.ctx hrow, congrArg ChanRow.ahead hrow,
      congrArg ChanRow.began hrow, rfl, rfl⟩
  have hmoves : ∀ (target : Nat) (code' : Nat → Bool) (body : Key → State), st = .playing →
      code' code = true → body { code := code, arg := arg } = (s.setRow c r).moveTo c target →
      ∃ t p, done s (s.takeKey c code' body) = .next t ∧ OtherRows c s t ∧
        p = snap s.letters.records spans target ∧ (l ≤ target → p = l) ∧
        (target < l → ∀ q, RecordHolds s.letters.records spans target q → p = q.start) ∧
        (p < l → plays t p) ∧ (l ≤ p → stops t l) := by
    intro target code' body hst hp hb
    let p := snap s.letters.records spans target
    by_cases hl : p < l
    · obtain ⟨t, ht, hothers, hpl⟩ := hplays p code' body (by simp [hst]) hp
        (hb.trans (moveTo_plays (hstate.trans hst) hl))
      exact ⟨t, p, ht, hothers, rfl, fun h => snap_of_end h, fun h q hq => snap_of_holds h hq, fun _ => hpl,
        fun h => absurd hl (Nat.not_lt.2 h)⟩
    · obtain ⟨t, ht, hothers, hpl⟩ := hstops l code' body (by simp [hst]) hp
        (hb.trans (moveTo_ends (hstate.trans hst) (Nat.not_lt.1 hl)))
      exact ⟨t, p, ht, hothers, rfl, fun h => snap_of_end h, fun h q hq => snap_of_holds h hq,
        fun h => absurd h hl, fun _ => hpl⟩
  have hacts : ∀ act : State → State, st = .playing ∨ st = .ready →
      s.letterKey c act = act (s.setRow c r) := by
    rintro act (rfl | rfl)
    · rw [letterKey_playing h.state, popKey_eq h]
    · rw [letterKey_ready h.state, popKey_eq h]
  have hbase : st = .playing → r.moveBase = base := fun hst => if_pos (hstate.trans hst)
  refine ⟨?_, ?_, ?_, ?_, ?_, ?_, ?_, ?_⟩
  · rintro hst rfl hl
    exact hplays _ _ _ (by simp [hst]) rfl ((hacts _ (Or.inr hst)).trans (actPlay_begins (hstate.trans hst) hl))
  · rintro hst rfl
    refine key_row h (by rcases hst with rfl | ⟨rfl, -⟩ <;> simp) rfl
      ((hacts _ (hst.imp id And.left)).trans (actPlay_stays ?_))
    rcases hst with rfl | ⟨-, hl⟩
    · exact fun he => absurd (hstate.symm.trans he) (by simp)
    · exact fun _ => hl
  · rintro hst rfl
    let p := snap s.letters.records spans base
    obtain ⟨t, ht, hothers, hpl⟩ := hstops p (· == 3) (fun _ => s.actStop c) (by simp [hst]) rfl (by
      simp only [State.actStop, h.takes, hst]
      rw [popKey_eq h, stopPlayback_setRow]
      rfl)
    exact ⟨t, p, ht, hothers, rfl, fun hl q hq => snap_of_holds hl hq, hpl⟩
  · rintro hst rfl
    refine key_row h (by rcases hst with rfl | rfl <;> simp) rfl ?_
    rcases hst with rfl | rfl
    · simp only [State.actStop, h.takes]
      exact popKey_eq h
    · simp only [State.actStop, h.takes]
      exact popKey_eq h
  · rintro hst rfl harg
    refine hmoves _ _ _ hst rfl ?_
    rw [if_neg harg, hacts _ (Or.inl hst), row_setRow_self, hbase hst]
    rfl
  · rintro hst rfl harg
    refine hmoves _ _ _ hst rfl ?_
    rw [if_neg harg, hacts _ (Or.inl hst), row_setRow_self, hbase hst]
    rfl
  · rintro hst rfl
    exact hmoves _ _ _ hst rfl (hacts _ (Or.inl hst))
  · rintro hst rfl
    refine hmoves _ _ _ hst rfl ?_
    rw [hacts _ (Or.inl hst), row_setRow_self]
    rfl

end Sys2Proof.Machine
end

section
/-! PROOFS. The keys that start a take, file a letter or discard it. -/

namespace Sys2Proof.Machine

open Sys2Proof

variable {s t u : State} {c : Chan} {st : ChanState} {code arg : Nat} {rest : List Key} {r : ChanRow}

/-! ### The start of a take (R57, R58) -/

/-- The row of a channel whose take starts. -/
def ChanRow.recording (r : ChanRow) (table : List (Nat × RecordEntry)) : ChanRow :=
  let mode := takeMode r.spanList r.ctx.cursor r.ctx.insert
  { r with
    spans := some (if mode = .append then r.spanList else splitAt table r.spanList r.ctx.cursor),
    placement := some { mode := mode, recorded := 0, removed := 0, spanOpen := false, closing := none },
    codec := PauseRun.reset,
    flush := none,
    ctx := { r.ctx with
      state := .recording,
      letter := r.ctx.letter.map fun l => { l with takes := min (l.takes + 1) 65535 } } }

/-- The row that a take start leaves: a notice, or the take begun. -/
def ChanRow.started (r : ChanRow) (hold : Bool) (table : List (Nat × RecordEntry)) : ChanRow :=
  if hold = true then { r with ctx := { r.ctx with transient := some (.storageHold, 32) } }
  else if 120000 ≤ r.length then { r with ctx := { r.ctx with transient := some (.letterFull, 32) } }
  else if 1024 < r.spanList.length + (if insideSpan r.spanList r.ctx.cursor then 2 else 1) then
    { r with ctx := { r.ctx with transient := some (.spanFull, 32) } }
  else r.recording table

theorem spanRoom_false {spans : List Span} {p : Nat} : spanRoom spans p = false ↔
    1024 < spans.length + (if insideSpan spans p = true then 2 else 1) := by
  rw [spanRoom, entriesNeeded, decide_eq_false_iff_not]
  have hlimit : Config.spanLimit = 1024 := rfl
  split <;> omega

theorem startTake_setRow :
    (s.setRow c r).startTake c = s.setRow c (r.started s.sheets.hold s.letters.records) := by
  simp only [State.startTake, row_setRow_self, ChanRow.started, setRow_sheets, setRow_letters]
  by_cases hold : s.sheets.hold = true
  · rw [if_pos hold, if_pos hold, raise_setRow]
  · rw [if_neg hold, if_neg hold]
    by_cases hfull : 120000 ≤ r.length
    · rw [if_pos (by simpa [Config.letterLimit] using hfull), if_pos hfull, raise_setRow]
    · rw [if_neg (by simpa [Config.letterLimit] using hfull), if_neg hfull]
      by_cases hroom : spanRoom r.spanList r.ctx.cursor = false
      · rw [if_pos (by simp [hroom]), if_pos (spanRoom_false.1 hroom), raise_setRow]
      · rw [if_neg (by simpa using hroom), if_neg (mt spanRoom_false.2 hroom), modRow_setRow]
        rfl

theorem insideSpan_end : ∀ spans : List Span, insideSpan spans (lengthOf spans) = false
  | [] => rfl
  | sp :: rest => by
    rw [lengthOf_cons, insideSpan]
    by_cases h : sp.frames + lengthOf rest < sp.frames
    · omega
    · rw [if_neg h, Nat.add_sub_cancel_left, insideSpan_end rest]

theorem splitAt_outside (table : List (Nat × RecordEntry)) :
    ∀ (spans : List Span) (p : Nat), insideSpan spans p = false → splitAt table spans p = spans
  | [], _, _ => rfl
  | sp :: rest, p, h => by
    rw [insideSpan] at h
    rw [splitAt]
    by_cases hp : p < sp.frames
    · rw [if_pos hp] at h
      rw [if_pos hp, if_neg (by simpa using h)]
    · rw [if_neg hp] at h
      rw [if_neg hp, splitAt_outside table rest _ h]

/-- The records whose frames add up to the cut are told to lie before it. -/
theorem recordsWithin_framesBefore (table : List (Nat × RecordEntry)) (sheet : Nat) : ∀ (j n slot : Nat), j < n →
    (∀ i, i < j → 0 < slotFrames table sheet (slot + i)) →
    recordsWithin table sheet slot (framesBefore table sheet slot j) n = j
  | 0, n + 1, slot, _, _ => by simp [recordsWithin, framesBefore]
  | j + 1, n + 1, slot, hj, hpos => by
    have hfirst : 0 < slotFrames table sheet slot := hpos 0 (by omega)
    rw [framesBefore_succ, recordsWithin, if_pos (by omega), Nat.add_sub_cancel_left,
      recordsWithin_framesBefore table sheet j n (slot + 1) (by omega)
        fun i hi => by simpa [Nat.add_assoc, Nat.add_comm 1 i] using hpos (i + 1) (by omega)]
    omega

theorem splitAt_inside (table : List (Nat × RecordEntry)) (sp : Span) (after : List Span) {k : Nat}
    (hk : 0 < k) (hf : k < sp.frames) : ∀ before : List Span,
    splitAt table (before ++ sp :: after) (lengthOf before + k) = before ++ (splitSpan table sp k ++ after)
  | [] => by simp [splitAt, lengthOf, hk, hf]
  | b :: before => by
    rw [lengthOf_cons, List.cons_append, splitAt, if_neg (by omega),
      show b.frames + lengthOf before + k - b.frames = lengthOf before + k by omega,
      splitAt_inside table sp after hk hf before]
    rfl

theorem recording_spanList (table : List (Nat × RecordEntry)) : (r.recording table).spanList =
    if r.ctx.cursor = r.length then r.spanList else splitAt table r.spanList r.ctx.cursor := by
  have hmode : takeMode r.spanList r.ctx.cursor r.ctx.insert = .append ↔ r.ctx.cursor = r.length := by
    simp only [takeMode, ChanRow.length]
    cases r.ctx.insert <;> simp
  exact ite_congr (propext hmode) (fun _ => rfl) (fun _ => rfl)

/-- The take begun: context, placement record and codec, and the spans with the cursor on a boundary. -/
theorem recording_split (table : List (Nat × RecordEntry)) :
    (r.recording table).length = r.length ∧ insideSpan (r.recording table).spanList r.ctx.cursor = false ∧
    (insideSpan r.spanList r.ctx.cursor = false → (r.recording table).spanList = r.spanList) ∧
    ∀ before sp after j, r.spanList = before ++ sp :: after → j < sp.count →
      (∀ i, i < j → 0 < slotFrames table sp.sheet (sp.first + i)) →
      r.ctx.cursor = lengthOf before + framesBefore table sp.sheet sp.first j →
      0 < framesBefore table sp.sheet sp.first j → framesBefore table sp.sheet sp.first j < sp.frames →
      (r.recording table).spanList = before ++
        { sp with count := j, frames := framesBefore table sp.sheet sp.first j } ::
        { sp with
          first := sp.first + j, count := sp.count - j,
          frames := sp.frames - framesBefore table sp.sheet sp.first j } :: after := by
  have hlength : (r.recording table).length = lengthOf (r.recording table).spanList := rfl
  rw [hlength, recording_spanList]
  by_cases h : r.ctx.cursor = r.length
  · simp only [if_pos h]
    refine ⟨rfl, h ▸ insideSpan_end _, fun _ => trivial, ?_⟩
    intro before sp after j hs hj _ hcursor hk hf
    have hall : r.length = lengthOf before + (sp.frames + lengthOf after) := by
      rw [ChanRow.length, hs, lengthOf_append, lengthOf_cons]
    omega
  · simp only [if_neg h]
    refine ⟨lengthOf_splitAt _ _ _, insideSpan_splitAt _ _ _, splitAt_outside _ _ _, ?_⟩
    intro before sp after j hs hj hpos hcursor hk hf
    rw [hcursor, hs, splitAt_inside _ _ _ hk hf, splitSpan, recordsWithin_framesBefore _ _ _ _ _ hj hpos]
    rfl

/-- Settles O26: the row that a take start leaves, from the row with its key gone and its playback stopped. -/
theorem recordStartsATake : Obligations.RecordStartsATake := by
  unfold Obligations.RecordStartsATake
  intro s c st arg rest
  refine ⟨fun h => key_row h (by simp) rfl ?_, ?_⟩
  · simp only [State.actRecord, h.takes]
    exact popKey_eq h
  intro h hst
  dsimp only
  generalize hr : (if st = .playing then _ else _ : ChanRow) = r
  let b := if st = .playing then s.readsGone c else s
  have hbody : s.actRecord c = b.setRow c (r.started s.sheets.hold s.letters.records) := by
    rcases hst with rfl | rfl
    · subst hr
      simp only [State.actRecord, h.takes]
      rw [popKey_eq h, startTake_setRow]
      rfl
    · subst hr
      simp only [State.actRecord, h.takes]
      rw [popKey_eq h, stopPlayback_setRow, startTake_setRow]
      rfl
  have hfields : b.regs = s.regs ∧ b.desk = s.desk ∧ (∀ d, b.row d = s.row d) ∧
      b.engine = (if st = .playing then (s.readsGone c).engine else s.engine) ∧
      b = { s with engine := b.engine } := by
    rcases hst with rfl | rfl
    · exact ⟨rfl, rfl, fun _ => rfl, rfl, rfl⟩
    · exact ⟨rfl, rfl, fun _ => rfl, rfl, rfl⟩
  obtain ⟨hregs, hdesk, hrows, hengine, hframe⟩ := hfields
  obtain ⟨d, hd, hrep⟩ := key_desk (p := (· == 2)) (body := fun _ => s.actRecord c) h
    (by rcases hst with rfl | rfl <;> simp) rfl hbody hregs hdesk
  refine ⟨_, hd, fun e he => (row_setRow_ne he).trans (hrows e), hrep, hengine, ?_, ?_⟩
  · rw [hframe]
    rfl
  have hrow : State.row { b.setRow c (r.started s.sheets.hold s.letters.records) with desk := d } c =
      r.started s.sheets.hold s.letters.records := row_setRow_self
  rw [hrow]
  refine ⟨fun hold => if_pos hold, ?_, ?_, ?_⟩
  · intro hold hfull
    rw [ChanRow.started, if_neg (by simp [hold]), if_pos hfull]
  · intro hold hl hroom
    rw [ChanRow.started, if_neg (by simp [hold]), if_neg (by omega), if_pos hroom]
  · intro hold hl hroom
    have hstarted : r.started s.sheets.hold s.letters.records = r.recording s.letters.records := by
      rw [ChanRow.started, if_neg (by simp [hold]), if_neg (by omega), if_neg (by omega)]
    rw [hstarted]
    obtain ⟨hlength, hinside, hsame, hsplit⟩ := recording_split (r := r) s.letters.records
    refine ⟨rfl, ⟨_, rfl, rfl, rfl, rfl, ?_, ?_, ?_⟩, rfl, hlength, hinside, hsame, hsplit⟩
    · exact fun hc => if_pos hc
    · intro hc hi
      exact (if_neg hc).trans (if_pos hi)
    · intro hc hi
      exact (if_neg hc).trans (if_neg (by simp [hi]))

end Sys2Proof.Machine
end

section
/-! PROOFS. The keys that file a letter or discard it: the letter store without a letter's sheets, and what a
discard leaves. -/

namespace Sys2Proof.Machine

open Sys2Proof

variable {s t u : State} {c : Chan} {st : ChanState} {code arg : Nat} {rest : List Key} {r : ChanRow}

/-! ### A letter leaves the letter store (R55) -/

theorem get_filterKey {α : Type} (p : Nat → Bool) (k : Nat) : ∀ l : List (Nat × α),
    Table.get (l.filter fun e => p e.1) k = if p k = true then Table.get l k else none
  | [] => by simp [Table.get]
  | (n, v) :: rest => by
    have ih := get_filterKey p k rest
    by_cases hn : n = k
    · subst hn
      cases hp : p n <;> simp_all [Table.get]
    · have hskip : ∀ l : List (Nat × α), Table.get ((n, v) :: l) k = Table.get l k := fun l => by
        rw [Table.get, if_neg (Ne.symm hn)]
      rw [List.filter_cons, hskip]
      split
      · rw [hskip, ih]
      · exact ih

theorem get_countSet (l : List (Nat × Nat)) (k n m : Nat) :
    Count.get (Count.set l k m) n = if n = k then m else Count.get l n := by
  unfold Count.get Count.set
  by_cases hm : m = 0
  · by_cases hn : n = k
    · simp [hm, hn, get_erase_self]
    · simp [hm, hn, get_erase_ne hn]
  · by_cases hn : n = k
    · simp [hm, hn, get_put_self]
    · simp [hm, hn, get_put_ne hn]

theorem get_countClear (n : Nat) : ∀ (sheets : List Nat) (l : List (Nat × Nat)),
    Count.get (sheets.foldl (fun table k => Count.set table k 0) l) n = if n ∈ sheets then 0 else Count.get l n
  | [], l => by simp
  | k :: rest, l => by
    rw [List.foldl_cons, get_countClear n rest, get_countSet]
    by_cases hr : n ∈ rest <;> by_cases hk : n = k <;> simp [hr, hk]

/-- The letter store without the counts and records of some sheets. -/
def LetterStore.without (l : LetterStore) (sheets : List Nat) : LetterStore :=
  { live := sheets.foldl (fun table n => Count.set table n 0) l.live,
    records := l.records.filter fun e => !sheets.contains (e.1 / 128) }

theorem live_without (h : t.letters = s.letters.without sheets) (n : Nat) :
    t.live n = if n ∈ sheets then 0 else s.live n := by
  rw [State.live, h]
  exact get_countClear n sheets _

theorem records_without (h : t.letters = s.letters.without sheets) {n slot : Nat} (hs : slot < 128) :
    Table.get t.letters.records (128 * n + slot) =
      if n ∈ sheets then none else Table.get s.letters.records (128 * n + slot) := by
  rw [h]
  have hdiv : (128 * n + slot) / 128 = n := by omega
  refine (get_filterKey (fun k => !sheets.contains (k / 128)) _ _).trans ?_
  rw [hdiv]
  by_cases hn : n ∈ sheets <;> simp [hn]

theorem any_sheet_iff (spans : List Span) (n : Nat) :
    (spans.any fun sp => sp.sheet == n) = true ↔ n ∈ sheetList spans := by
  rw [(firstReferences_sheetList spans).all n]
  simp

theorem sheetsLeave_without {spans : List Span} (h : t.letters = s.letters.without (sheetList spans)) :
    SheetsLeave s t spans where
  live n := by simp only [live_without h, any_sheet_iff]
  records n slot hs := by simp only [records_without h hs, any_sheet_iff]

/-! ### A letter handed over for discard (R106) -/

/-- The row of a channel whose letter is handed over for discard. -/
def ChanRow.discarded (r : ChanRow) (card index : Nat) : ChanRow :=
  { r with
    spans := none,
    discards := r.discards ++ [{ card := card, index := index, sheets := sheetList r.spanList }],
    ctx := { r.ctx with
      letter := none, cursor := 0, playPos := none, state := .idle, transient := some (.discarded, 32) } }

/-- The state once a letter's sheets have left the letter store and its card is held for discard. -/
def State.handedForDiscard (s : State) (c : Chan) (card : Nat) (sheets : List Nat) : State :=
  { s with
    letters := s.letters.without sheets,
    cards := { s.cards with holdings := Table.put s.cards.holdings card (.discarding c) } }

/-- The index sheet that a card's image names. -/
def State.indexOf (s : State) (card : Nat) : Nat := ((s.image card).map Card.index).getD 0

/-- The state once a discard has ended the work on the letter: a take dropped, a read-ahead emptied. -/
def State.workEnded (s : State) (c : Chan) : State :=
  match s.chanState c with
  | .recording => s.dropTake c
  | .playing => s.emptyAhead c
  | _ => s

theorem handOff_setRow : (s.setRow c r).handOff c = (sheetList r.spanList,
    ({ s with letters := s.letters.without (sheetList r.spanList) } : State).setRow c { r with spans := none }) := by
  simp only [State.handOff, row_setRow_self]
  exact congrArg (Prod.mk _)
    (modRow_setRow (s := { s with letters := s.letters.without (sheetList r.spanList) }))

theorem discardLetter_eq {b : State} {l : OpenLetter} (hl : (s.row c).ctx.letter = some l)
    (hb : s.workEnded c = b.setRow c r) :
    s.discardLetter c = (b.handedForDiscard c l.card (sheetList r.spanList)).setRow c
      (r.discarded l.card (s.indexOf l.card)) := by
  have hwork : s.discardLetter c =
      ((((s.workEnded c).handOff c).2.setHolding l.card (.discarding c)).modRow c fun r => { r with
        discards := r.discards ++
          [{ card := l.card, index := s.indexOf l.card,
             sheets := ((s.workEnded c).handOff c).1 }],
        ctx := { r.ctx with letter := none, cursor := 0, playPos := none, state := .idle } }).raise c .discarded := by
    simp only [State.discardLetter, hl]
    rfl
  rw [hwork, hb, handOff_setRow]
  exact (congrArg (fun v : State => v.raise c .discarded) (modRow_setRow
    (s := b.handedForDiscard c l.card (sheetList r.spanList)))).trans raise_setRow

theorem workEnded_ready (hs : r.ctx.state = .ready) : (s.setRow c r).workEnded c = s.setRow c r := by
  simp [State.workEnded, State.chanState, hs]

theorem workEnded_playing (hs : r.ctx.state = .playing) :
    (s.setRow c r).workEnded c = (s.readsGone c).setRow c r.silent := by
  simp only [State.workEnded, State.chanState, row_setRow_self, hs]
  exact emptyAhead_setRow

/-- The row of a channel whose take is dropped. -/
def ChanRow.takeDropped (r : ChanRow) : ChanRow :=
  { r with
    sheet := none, placement := none, flush := none, codec := PauseRun.reset, queue := dropAllWaiting r.queue }

/-- The header write by which a dropped take's write sheet closes, where there is one. -/
def closingWrites (p : Setup) (c : Chan) (w : Option WriteSheet) : List Access :=
  match w with
  | some w => if w.next ≤ 127 then [headerWriteOf p c w (w.next - 1)] else []
  | none => []

/-- The state beside the row once a take is dropped: its write sheet closed, its sheet request withdrawn. -/
def State.takeDropped (s : State) (c : Chan) (w : Option WriteSheet) : State :=
  { s with
    sheets := { s.sheets with waiting := s.sheets.waiting.filter (· ≠ .take c) },
    engine := { s.engine with waiting := s.engine.waiting ++ closingWrites s.setup c w } }

theorem closeSheet_eq (w : WriteSheet) : s.closeSheet c w = { s with engine := { s.engine with
    waiting := s.engine.waiting ++ [headerWriteOf s.setup c w (w.next - 1)] } } := rfl

theorem withdrawRequest_eq (q : SheetRequest) : s.withdrawRequest q =
    { s with sheets := { s.sheets with waiting := s.sheets.waiting.filter (· ≠ q) } } := by
  have hfun : (fun x : SheetRequest => x != q) = fun x => decide (x ≠ q) := by
    funext x
    exact decide_not.symm
  rw [State.withdrawRequest, hfun]

theorem closeUsed_eq {w : WriteSheet} : (if w.next ≤ Config.lastSlot then s.closeSheet c w else s) =
    { s with engine := { s.engine with waiting := s.engine.waiting ++ closingWrites s.setup c (some w) } } := by
  by_cases h : w.next ≤ 127
  · rw [if_pos (show w.next ≤ Config.lastSlot from h), closingWrites, if_pos h]
    rfl
  · rw [if_neg (show ¬ w.next ≤ Config.lastSlot from h), closingWrites, if_neg h, List.append_nil]

theorem dropTake_eq : s.dropTake c = (s.takeDropped c (s.row c).sheet).setRow c (s.row c).takeDropped := by
  rw [State.dropTake]
  cases hw : (s.row c).sheet with
  | none =>
    simp only [withdrawRequest_eq, State.takeDropped, closingWrites, List.append_nil]
    rfl
  | some w =>
    simp only [closeUsed_eq, withdrawRequest_eq]
    rfl

theorem workEnded_recording (hs : r.ctx.state = .recording) :
    (s.setRow c r).workEnded c = (s.takeDropped c r.sheet).setRow c r.takeDropped := by
  simp only [State.workEnded, State.chanState, row_setRow_self, hs, dropTake_eq]
  exact setRow_setRow (s := s.takeDropped c r.sheet)

/-- What a discard leaves in the store, said for the outcome of a key: the counts and the records. -/
theorem handedForDiscard_leaves {b : State} {card d sheets} (hb : b.letters = s.letters)
    (ht : t = { (b.handedForDiscard c card sheets).setRow c r with desk := d }) :
    (∀ n ∈ sheets, t.live n = 0) ∧ (∀ n, n ∉ sheets → t.live n = s.live n) ∧
    (∀ n slot, slot < 128 → Table.get t.letters.records (128 * n + slot) =
      if n ∈ sheets then none else Table.get s.letters.records (128 * n + slot)) := by
  have hl : t.letters = s.letters.without sheets := by rw [ht, ← hb]; rfl
  exact ⟨fun n hn => (live_without hl n).trans (if_pos hn), fun n hn => (live_without hl n).trans (if_neg hn),
    fun n slot hs => records_without hl hs⟩

theorem dropAllWaiting_eq (q : List QueueEntry) :
    dropAllWaiting q = q.filter fun e => match e with | .waiting .. => false | _ => true := rfl

theorem fileNow_empty (h : r.length = 0) : (s.setRow c r).fileNow c false = (s.setRow c r).discardLetter c := by
  simp [State.fileNow, h]

/-- Settles O29: the row with its key gone, its take dropped or its read-ahead emptied, then handed over. -/
theorem discardHandsTheLetterOver : Obligations.DiscardHandsTheLetterOver := by
  unfold Obligations.DiscardHandsTheLetterOver
  intro s c st code arg rest i l h hl hi x row
  let r := (s.row c).withKeys rest
  have hstate : r.ctx.state = st := h.state
  have hst : st = .ready ∨ st = .recording ∨ st = .playing := by
    rcases hi with ⟨-, -, hst⟩ | ⟨-, -, hst, -⟩
    · exact hst
    · exact Or.inl hst
  have hbody : ∃ p body, exec i s = done s (s.takeKey c p body) ∧ p code = true ∧
      body { code := code, arg := arg } = (s.setRow c r).discardLetter c := by
    rcases hi with ⟨rfl, rfl, hst⟩ | ⟨rfl, rfl, rfl, hlen⟩
    · refine ⟨_, _, rfl, rfl, ?_⟩
      rw [← popKey_eq h]
      rcases hst with rfl | rfl | rfl <;> simp only [h.takes]
    · refine ⟨_, _, rfl, rfl, ?_⟩
      simp only [letterKey_ready h.takes, popKey_eq h]
      rw [if_neg (by simp [State.chanState, ChanRow.withKeys, h.state]), fileNow_empty (r := r) hlen]
  obtain ⟨p, body, he, hp, hb⟩ := hbody
  have hwork : ∃ (b : State) (r' : ChanRow), (s.setRow c r).workEnded c = b.setRow c r' ∧
      r'.spanList = (s.row c).spanList ∧ (∀ d, b.row d = s.row d) ∧ b.regs = s.regs ∧ b.desk = s.desk ∧
      b.letters = s.letters ∧ b.cards = s.cards ∧ b = { s with sheets := b.sheets, engine := b.engine } ∧
      (st = .ready → r' = r ∧ b = s) ∧ (st = .playing → r' = r.silent ∧ b = s.readsGone c) ∧
      (st = .recording → r' = r.takeDropped ∧ b = s.takeDropped c (s.row c).sheet) := by
    rcases hst with rfl | rfl | rfl
    · exact ⟨s, r, workEnded_ready hstate, rfl, fun _ => rfl, rfl, rfl, rfl, rfl, rfl, fun _ => ⟨rfl, rfl⟩,
        nofun, nofun⟩
    · exact ⟨_, _, workEnded_recording hstate, rfl, fun _ => rfl, rfl, rfl, rfl, rfl, rfl, nofun, nofun,
        fun _ => ⟨rfl, rfl⟩⟩
    · exact ⟨_, _, workEnded_playing hstate, rfl, fun _ => rfl, rfl, rfl, rfl, rfl, rfl, nofun,
        fun _ => ⟨rfl, rfl⟩, nofun⟩
  obtain ⟨b, r', hwork, hspans, hrows, hregs, hdesk, hletters, hcards, hframe, hready, hplaying, hrecording⟩ := hwork
  rw [discardLetter_eq (by rw [row_setRow_self]; exact hl) hwork] at hb
  obtain ⟨d, hd, hrep⟩ := key_desk h (by rcases hst with rfl | rfl | rfl <;> simp) hp hb hregs hdesk
  obtain ⟨hgone, hkept, hrecords⟩ := handedForDiscard_leaves (c := c) (d := d) hletters rfl
  rw [he]
  refine ⟨_, _, hd, hspans ▸ firstReferences_sheetList _, fun e hne => (row_setRow_ne hne).trans (hrows e), hrep,
    hgone, hkept, hrecords, ?_, ?_, ?_, ?_, ?_⟩
  · exact congrArg (fun k : CardUnit => { k with holdings := Table.put k.holdings l.card (.discarding c) }) hcards
  · rw [hframe]
    rfl
  · intro hst
    obtain ⟨rfl, rfl⟩ := hready hst
    exact ⟨row_setRow_self, rfl, rfl⟩
  · intro hst
    obtain ⟨rfl, rfl⟩ := hplaying hst
    exact ⟨row_setRow_self, rfl, rfl⟩
  · intro hst
    obtain ⟨rfl, rfl⟩ := hrecording hst
    refine ⟨row_setRow_self, rfl, ?_, ?_⟩
    · intro w hw hn
      simp only [HandedOver, setRow_engine, State.handedForDiscard, State.takeDropped, hw, closingWrites, if_pos hn]
    · rintro (hw | ⟨w, hw, hn⟩)
      · simp only [setRow_engine, State.handedForDiscard, State.takeDropped, hw, closingWrites, List.append_nil]
      · simp only [setRow_engine, State.handedForDiscard, State.takeDropped, hw, closingWrites,
          if_neg (Nat.not_le.2 hn), List.append_nil]

/-! ### A letter filed -/

/-- The row of a channel in READY whose filing begins. -/
def ChanRow.filing (r : ChanRow) : ChanRow :=
  { r with ctx := { r.ctx with state := .busy .filing }, op := some (.filing .draining false) }

theorem fileNow_begins (h : r.length ≠ 0) : (s.setRow c r).fileNow c false = s.setRow c r.filing := by
  simp only [State.fileNow, row_setRow_self, h, if_false, modRow_setRow]
  rfl

/-- A key that acts on a letter READY or PLAYING finds it READY, its playback stopped first. -/
theorem quieted_eq (h : KeyAtHead s c st code arg rest) (hst : st = .ready ∨ st = .playing) :
    ∃ (b : State) (q : ChanRow),
      (if (s.popKey c).chanState c = .playing then (s.popKey c).stopPlayback c else s.popKey c) = b.setRow c q ∧
      b = { s with engine := if st = .playing then (s.readsGone c).engine else s.engine } ∧
      q = { if st = .playing then (s.row c).silent else s.row c with ctx := { (s.row c).ctx with
        keys := rest, state := .ready,
        playPos := if st = .playing then none else (s.row c).ctx.playPos,
        cursor := if st = .playing
          then snap s.letters.records (s.row c).spanList ((s.row c).ctx.playPos.getD (s.row c).ctx.cursor)
          else (s.row c).ctx.cursor } } := by
  rw [popKey_eq h]
  rcases hst with rfl | rfl
  · have hs : (s.row c).ctx.state = .ready := h.state
    refine ⟨s, (s.row c).withKeys rest, if_neg (by simp [State.chanState, ChanRow.withKeys, hs]), rfl, ?_⟩
    simp only [ChanRow.withKeys, reduceCtorEq, if_false]
    rw [← hs]
  · refine ⟨_, _, (if_pos (by simp [State.chanState, ChanRow.withKeys, h.state])).trans stopPlayback_setRow, rfl, rfl⟩

theorem openLetter_discarded {b : State} {card index : Nat} {sheets : List Nat} (h : b.sheets.hold = false) :
    ((b.handedForDiscard c card sheets).setRow c (r.discarded card index)).openLetter c .new =
      ({ b.handedForDiscard c card sheets with cards := { (b.handedForDiscard c card sheets).cards with
          openQueue := b.cards.openQueue ++ [c] } } : State).setRow c
        { r.discarded card index with
          ctx := { (r.discarded card index).ctx with openRequest := some .new }, op := some (.opening none) } :=
  openLetter_clear h

/-- Settles O28: FILE and NEW from the row with its playback stopped: a filing begun, or the letter handed over. -/
theorem fileKeysBeginFiling : Obligations.FileKeysBeginFiling := by
  unfold Obligations.FileKeysBeginFiling
  intro s c code arg rest i hor hi x stopped
  obtain ⟨st, h, hst⟩ : ∃ st, KeyAtHead s c st code arg rest ∧ (st = .ready ∨ st = .playing) :=
    hor.elim (fun h => ⟨_, h, Or.inl rfl⟩) (fun h => ⟨_, h, Or.inr rfl⟩)
  have hmem : st ∈ [ChanState.idle, .ready, .recording, .playing] := by rcases hst with rfl | rfl <;> simp
  have hx : x.state = st := h.state
  obtain ⟨b, q, hq, hb, hqrow⟩ := quieted_eq h hst
  have hbody : ∃ p body, exec i s = done s (s.takeKey c p body) ∧ p code = true ∧
      body { code := code, arg := arg } =
        if code = 12 then (b.setRow c q).fileNow c false
        else if s.sheets.hold then (s.popKey c).raise c .storageHold else (s.popKey c).fileThenOpen c := by
    simp only [List.mem_cons, Prod.mk.injEq, List.not_mem_nil, or_false] at hi
    rcases hi with ⟨rfl, rfl⟩ | ⟨rfl, rfl⟩
    · refine ⟨_, _, rfl, rfl, ?_⟩
      rcases hst with rfl | rfl <;> simp only [State.actNew, h.takes] <;> rfl
    · refine ⟨_, _, rfl, rfl, ?_⟩
      rw [← hq]
      rcases hst with rfl | rfl
      · exact letterKey_ready h.takes
      · exact letterKey_playing h.takes
  obtain ⟨p, body, he, hp, hbody⟩ := hbody
  have hcode : code = 1 ∨ code = 12 := by
    simp only [List.mem_cons, Prod.mk.injEq, List.not_mem_nil, or_false] at hi
    exact hi.imp And.left And.left
  have hlength : q.length = (s.row c).length := by
    rw [hqrow]
    rcases hst with rfl | rfl <;> rfl
  rw [he]
  refine ⟨?_, ?_, ?_⟩
  · rintro rfl hold
    refine key_row h hmem hp (hbody.trans ?_)
    rw [if_neg (by decide), if_pos hold, popKey_eq h, raise_setRow]
    rfl
  · intro hfiles hlen
    have hrow : q.filing.ctx.openAfter = x.openAfter := by rw [hqrow]; rfl
    have hfiled : body { code := code, arg := arg } = b.setRow c
        { q.filing with ctx := { q.filing.ctx with openAfter := decide (code = 1) || x.openAfter } } := by
      rw [hbody]
      rcases hcode with rfl | rfl
      · rw [if_neg (by decide), if_neg (by simpa using hfiles), State.fileThenOpen, hq, row_setRow_self,
          if_neg (by rwa [hlength]), fileNow_begins (by rwa [hlength]), modCtx_setRow]
        rfl
      · rw [if_pos rfl, fileNow_begins (by rwa [hlength]), ← hrow]
        rfl
    obtain ⟨d, hd, -⟩ := key_desk h hmem hp hfiled (by rw [hb]; rfl) (by rw [hb]; rfl)
    have hrows : ∀ e, b.row e = s.row e := fun e => by rw [hb]; rfl
    refine ⟨_, hd, fun e hne => (row_setRow_ne hne).trans (hrows e), ?_, ?_, ?_, ?_, ?_⟩
    · refine (congrArg ChanRow.ctx row_setRow_self).trans ?_
      rw [hqrow]
      simp only [hx]
      rfl
    · exact congrArg ChanRow.op row_setRow_self
    · refine (congrArg ChanRow.spans row_setRow_self).trans ?_
      rw [hqrow]
      rcases hst with rfl | rfl <;> rfl
    · intro hplay
      refine (congrArg ChanRow.ahead row_setRow_self).trans ?_
      rw [hqrow, if_pos (hx.symm.trans hplay)]
      rfl
    · rw [hb]
      rfl
  · intro l hfiles hlen hl
    have hstate : q.ctx.state = .ready := by rw [hqrow]
    have hspans : q.spanList = (s.row c).spanList := by rw [hqrow]; rcases hst with rfl | rfl <;> rfl
    let v := b.handedForDiscard c l.card (sheetList (s.row c).spanList)
    have hindex : (b.setRow c q).indexOf l.card = s.indexOf l.card := by rw [hb]; rfl
    have hgiven : (b.setRow c q).discardLetter c = v.setRow c (q.discarded l.card (s.indexOf l.card)) := by
      rw [discardLetter_eq (b := b) (r := q) (l := l) (by rw [row_setRow_self, hqrow]; exact hl)
        (workEnded_ready hstate), hspans, hindex]
    have hdone : body { code := code, arg := arg } =
        ({ v with cards := { v.cards with
            openQueue := if code = 1 then b.cards.openQueue ++ [c] else b.cards.openQueue } } : State).setRow c
          { q.discarded l.card (s.indexOf l.card) with
            op := if code = 1 then some (.opening none) else q.op,
            ctx := { (q.discarded l.card (s.indexOf l.card)).ctx with
              openRequest := if code = 1 then some .new else q.ctx.openRequest } } := by
      rw [hbody]
      rcases hcode with rfl | rfl
      · rw [if_neg (by decide), if_neg (by simpa using hfiles), State.fileThenOpen, hq, row_setRow_self,
          if_pos (by rwa [hlength]), fileNow_empty (by rwa [hlength]), hgiven, openLetter_discarded (by
            rw [hb]; simpa using hfiles)]
        rfl
      · rw [if_pos rfl, fileNow_empty (by rwa [hlength]), hgiven]
        rfl
    obtain ⟨d, hd, hrep⟩ := key_desk h hmem hp hdone (by subst hb; rfl) (by subst hb; rfl)
    have hrows : ∀ e, b.row e = s.row e := fun e => by subst hb; rfl
    have hqueue : s.cards.openQueue ++ (if code = 1 then [c] else []) =
        if code = 1 then s.cards.openQueue ++ [c] else s.cards.openQueue := by split <;> simp
    refine ⟨_, _, hd, firstReferences_sheetList _, fun e hne => (row_setRow_ne hne).trans (hrows e), hrep,
      sheetsLeave_without (by subst hb; rfl), ?_, ?_, ?_, ?_⟩
    · refine row_setRow_self.trans ?_
      rw [ChanRow.discarded, hspans]
      simp only [stopped, hx, hqrow]
      rcases hst with rfl | rfl <;> rfl
    · rw [hqueue]
      subst hb
      rfl
    · simp only [hx]
      subst hb
      rfl
    · subst hb
      rfl

end Sys2Proof.Machine
end

section
/-! PROOFS. The order book: the sweep's image, the checks before and behind a card read, CANCEL, NOTICE and the two
parts of a finishing write. -/

namespace Sys2Proof.Machine

open Sys2Proof

variable {s t u : State} {k : OrderSlot}

/-! ### The sweep goes on -/

/-- A slot whose order is taken, told from the image. -/
theorem takes_iff {o : OrderUnit} {j : OrderSlot} : o.takes j = true ↔
    o.accepted[j] = none ∧ j ∉ o.finishedSet ∧ byteAt (o.slotData j) 0 = 1 := by
  simp [OrderUnit.takes, slotState, slotPosted, and_assoc]

theorem sweepOn_stops {j : OrderSlot} (hj : s.orders.takes j = true)
    (hfirst : ∀ i, i < j → s.orders.takes i = false) :
    s.sweepOn 0 = { s with orders := { s.orders with sweep := .acting j } } := by
  have hf : (List.finRange 32).find? (fun i : OrderSlot => decide (0 ≤ i.val) && s.orders.takes i) = some j :=
    find_finRange (by simp [hj]) fun i hi => by simp [hfirst i hi]
  simp only [State.sweepOn, hf]

theorem sweepOn_ends (h : ∀ j, s.orders.takes j = false) : s.sweepOn 0 = s.endSweep := by
  have hf : (List.finRange 32).find? (fun i : OrderSlot => decide (0 ≤ i.val) && s.orders.takes i) = none := by
    simp [h]
  simp only [State.sweepOn, hf]

/-- Settles O30: the first slot taken by the image just read, and the kinds no command takes. -/
theorem sweepTakesPostedSlots : Obligations.SweepTakesPostedSlots := by
  unfold Obligations.SweepTakesPostedSlots
  refine ⟨?_, ?_⟩
  · intro s a rest slots hdue hpurpose
    dsimp only
    let u : State := { s.landed rest with orders := { s.orders with image := some slots } }
    have htaken : ∀ j, u.orders.takes j = true ↔ s.orders.accepted[j] = none ∧ j ∉ s.orders.finishedSet ∧
        byteAt (slots.getD j.val []) 0 = 1 := fun j => takes_iff
    obtain ⟨w, g, i, hframe⟩ := sweepOn_frame u 0
    refine ⟨u.sweepOn 0, ?_, by rw [hframe], ?_, ?_⟩
    · change done s (s.onComplete _ _ _) = _
      rw [onComplete_due hdue (by simp [hpurpose])]
      exact done_same ((congrArg State.reports hframe).trans rfl)
    · intro j hj hfirst
      rw [sweepOn_stops ((htaken j).2 hj) fun i hi =>
        Bool.eq_false_iff.2 fun ht => hfirst i hi ((htaken i).1 ht)]
    · intro hnone
      rw [sweepOn_ends fun j => Bool.eq_false_iff.2 fun ht => hnone j ((htaken j).1 ht)]
      rfl
  · intro s k kind h hkind
    refine answered_only h ?_ (by decide) rfl
    simpa using hkind

/-! ### NOTICE -/

/-- An order that names a channel in range acts on it; any other is refused. -/
theorem dite_channel {α : Type} {n : Nat} {c : Chan} (h : c.val = n) (f : Chan → α) (e : α) :
    (if h : n < 32 then f ⟨n, h⟩ else e) = f c := by
  subst h
  exact dif_pos c.isLt

/-- Settles O37: the checks of channel and value, then the host notice. -/
theorem noticeSetsTheHostNotice : Obligations.NoticeSetsTheHostNotice := by
  unfold Obligations.NoticeSetsTheHostNotice
  intro s k h n value
  refine ⟨fun hr => answered_only h rfl (by decide) ?_, fun c hc hv => ⟨fun hst => ?_, fun hst => ?_⟩⟩
  · by_cases hn : n < 32
    · exact (dif_pos hn).trans (if_neg (by have := hr; simp only [noticeValue]; omega))
    · exact dif_neg hn
  · refine answered_only h rfl (by decide) ?_
    refine (dite_channel hc (fun c => if value ≤ 15 then s.notice k c value else _) _).trans ?_
    rw [if_pos hv, State.notice]
    exact if_pos hst
  · refine answered_row (p := (· == 7)) (code := 0) (r := { s.row c with ctx := { (s.row c).ctx with
      host := if value = 0 then none else some value } }) h rfl (by decide) ?_
    refine (dite_channel hc (fun c => if value ≤ 15 then s.notice k c value else _) _).trans ?_
    rw [if_pos hv, State.notice]
    exact if_neg hst

/-! ### REOPEN LETTER and RENDER before their card is read -/

theorem held_iff {card : Nat} : s.held card = true ↔ Table.get s.cards.holdings card ≠ none := by
  simp [State.held, Option.isSome_iff_ne_none]

theorem any_accepted {p : Option Accepted → Bool} :
    s.orders.accepted.toList.any p = true ↔ ∃ j : OrderSlot, p s.orders.accepted[j] = true := by
  simp only [List.any_eq_true, Vector.mem_toList_iff, Vector.mem_iff_getElem]
  constructor
  · rintro ⟨e, ⟨i, hi, rfl⟩, hp⟩
    exact ⟨⟨i, hi⟩, hp⟩
  · rintro ⟨j, hp⟩
    exact ⟨_, ⟨j.val, j.isLt, rfl⟩, hp⟩

theorem reopenNames_iff {card : Nat} :
    s.reopenNames card = true ↔ ∃ (j : OrderSlot) (d : Chan), s.orders.accepted[j] = some (.reopen card d) := by
  rw [State.reopenNames, any_accepted]
  refine exists_congr fun j => ?_
  split
  · next n d he => simp [he]
  · next hne => exact ⟨nofun, fun ⟨d, hd⟩ => absurd hd (hne card d)⟩

theorem renderNames_iff {card : Nat} : s.renderNames card = true ↔
    ∃ (j : OrderSlot) (o : RenderOrder), s.orders.accepted[j] = some (.render o) ∧ o.card = card := by
  rw [State.renderNames, any_accepted]
  refine exists_congr fun j => ?_
  split
  · next o he => simp [he]
  · next hne => exact ⟨nofun, fun ⟨o, ho, _⟩ => absurd ho (hne o)⟩

/-- The steps 2 and 3 of R139 as a chain of refusals. -/
theorem reopenRefusal_eq {card : Nat} {c : Chan} : s.reopenRefusal card c =
    if ¬ ((s.row c).ctx.state = .idle ∧ (s.row c).ctx.openRequest = none) then some 19
    else if s.held card = true ∨ s.reopenNames card = true ∨ s.renderNames card = true then some 22 else none := by
  simp only [State.reopenRefusal, codeRefusedChannelState, codeRefusedCardBusy, Bool.or_eq_true, or_assoc,
    Option.isSome_iff_ne_none, ne_eq, ← not_and_or]

/-- An order whose card is read: the sweep waits at its slot. -/
theorem card_asked {p : Nat → Bool} {body : OrderSlot → List Byte → State} {kind card : Nat}
    (h : OrderAt s k kind) (hp : p kind = true)
    (hb : body k (s.orders.slotData k) = s.readOrderCard k card) :
    ∃ t, done s (s.takeOrder p body) = .next t ∧
      HandedOver s t [readOf .orderUnit .orderCardRead ((s.setup.cardBase + (256 * card + 64 * 0)) % 2 ^ 64)] ∧
      t = { s with orders := { s.orders with sweep := .awaiting k }, engine := t.engine } := by
  refine ⟨s.readOrderCard k card, ?_, rfl, rfl⟩
  rw [takeOrder_at h hp, hb, if_neg (by simp [State.readOrderCard])]
  exact done_same rfl

theorem selectionOf_isSome {n : Nat} : (∃ x, selectionOf n = some x) ↔ 1 ≤ n ∧ n ≤ 3 := by
  unfold selectionOf
  split
  · simp_all
  · split
    · simp_all
    · split
      · simp_all
      · simp
        omega

/-- The steps 2 to 5 of R143 as a chain of refusals. -/
theorem renderRefusal_eq {o : RenderOrder} : s.renderRefusal o =
    if ¬ (o.card < s.setup.cardCount ∧ o.start ≤ 120000 ∧ o.count ≤ 120000) then some 17
    else if ¬ 64 ∣ o.buffer then some 18
    else if ¬ (2 ∣ o.length ∧ 240 ≤ o.length) then some 17
    else if s.held o.card = true ∨ s.reopenNames o.card = true then some 21 else none := by
  have hrange : (s.setup.cardCount ≤ o.card ∨ Config.letterLimit < o.start ∨ Config.letterLimit < o.count) ↔
      ¬ (o.card < s.setup.cardCount ∧ o.start ≤ 120000 ∧ o.count ≤ 120000) := by
    simp only [Config.letterLimit]
    omega
  have hlong : (o.length % 2 ≠ 0 ∨ o.length < Config.frameBytes) ↔ ¬ (2 ∣ o.length ∧ 240 ≤ o.length) := by
    simp only [Config.frameBytes]
    omega
  have halign : o.buffer % 64 ≠ 0 ↔ ¬ 64 ∣ o.buffer := by omega
  simp only [State.renderRefusal, hrange, hlong, halign, Bool.or_eq_true]
  rfl

/-- A RENDER that finds room in the queue and has a valid selection byte, by its chain of refusals. -/
theorem renderCheck_selected {data : List Byte} {x : Selection} (hq : s.orders.renders.length < 4)
    (hx : selectionOf (byteAt data 0x0A) = some x) : s.renderCheck k data =
      match s.renderRefusal (renderOrderOf data x) with
      | some code => s.finish k code 0 0
      | none => s.readOrderCard k (fieldAt data 8 2) := by
  rw [State.renderCheck, if_neg (show ¬ Config.renderLimit ≤ _ from Nat.not_le.2 hq)]
  simp only [hx]
  rfl

theorem renderCheck_unselected {data : List Byte} (hq : s.orders.renders.length < 4)
    (hx : selectionOf (byteAt data 0x0A) = none) : s.renderCheck k data = s.finish k 17 0 0 := by
  rw [State.renderCheck, if_neg (show ¬ Config.renderLimit ≤ _ from Nat.not_le.2 hq)]
  simp only [hx]
  rfl

/-- Settles O34: the chain of checks of each of the two orders. -/
theorem cardOrdersAreCheckedThenRead : Obligations.CardOrdersAreCheckedThenRead := by
  unfold Obligations.CardOrdersAreCheckedThenRead
  intro s k data held reopened rendered reads refused
  constructor
  · intro h card
    refine ⟨fun hr => ?_, fun c hc hcard => ?_⟩
    · refine answered_only h rfl (by decide) ?_
      simp only [State.reopenOrder]
      split
      · next hn =>
        refine if_neg ?_
        simp only [orderChannel, reopenCard] at hn ⊢
        exact Nat.not_lt.2 (hr.resolve_left (Nat.not_le.2 hn))
      · rfl
    intro free busy
    have hbody : s.reopenOrder k data = match s.reopenRefusal card c with
        | some code => s.finish k code 0 0
        | none => s.readOrderCard k card := by
      rw [State.reopenOrder]
      refine (dite_channel hc (fun c => if card < s.setup.cardCount then
        (match s.reopenRefusal card c with
          | some code => s.finish k code 0 0
          | none => s.readOrderCard k card) else _) _).trans ?_
      exact if_pos hcard
    have hbusy : busy ↔ s.held card = true ∨ s.reopenNames card = true ∨ s.renderNames card = true := by
      rw [held_iff, reopenNames_iff, renderNames_iff]
    rw [reopenRefusal_eq] at hbody
    refine ⟨fun hfree => ?_, fun hfree hb => ?_, fun hfree hb => ?_⟩
    · rw [if_pos hfree] at hbody
      exact answered_only h rfl (by decide) hbody
    · rw [if_neg (not_not.2 hfree), if_pos (hbusy.1 hb)] at hbody
      exact answered_only h rfl (by decide) hbody
    · rw [if_neg (not_not.2 hfree), if_neg (mt hbusy.2 hb)] at hbody
      exact card_asked h rfl hbody
  · intro h card selection inRange aligned long busy
    have hbusy : ∀ x, busy ↔ s.held (renderOrderOf data x).card = true ∨
        s.reopenNames (renderOrderOf data x).card = true := fun _ => by
      rw [held_iff, reopenNames_iff]
      rfl
    have hselected : 1 ≤ selection → selection ≤ 3 → ∃ x, selectionOf (byteAt data 0x0A) = some x :=
      fun h1 h3 => selectionOf_isSome.2 ⟨h1, h3⟩
    have halign : ∀ x, aligned → ¬ ¬ 64 ∣ (renderOrderOf data x).buffer := fun _ ha => not_not.2 ha
    have hlongs : ∀ x, long → ¬ ¬ (2 ∣ (renderOrderOf data x).length ∧ 240 ≤ (renderOrderOf data x).length) :=
      fun _ hl => not_not.2 hl
    refine ⟨fun hq => ?_, fun hq hr => ?_, fun hq hin ha => ?_, fun hq hin ha hl => ?_, fun hq hin ha hl hb => ?_,
      fun hq hin ha hl hb => ?_⟩
    · obtain ⟨w, g, i, hframe⟩ := sweepOn_frame s (k.val + 1)
      refine ⟨s.sweepOn (k.val + 1), ?_, sweptOn rfl rfl, by rw [hframe], by rw [hframe], by rw [hframe]⟩
      have hstays : s.renderCheck k data = s := if_pos (show Config.renderLimit ≤ _ from hq)
      change done s (s.takeOrder _ _) = _
      rw [takeOrder_at h rfl, hstays, if_pos h.acting]
      exact done_same (by rw [hframe]; rfl)
    · refine answered_only h rfl (by decide) ?_
      cases hx : selectionOf (byteAt data 0x0A) with
      | none => exact renderCheck_unselected hq hx
      | some x =>
        have hs := selectionOf_isSome.1 ⟨x, hx⟩
        refine (renderCheck_selected hq hx).trans ?_
        simp only [renderRefusal_eq]
        rw [if_pos (fun hn => hr ⟨hn.1, hn.2.1, hn.2.2, hs.1, hs.2⟩)]
    · obtain ⟨hcard, hstart, hcount, h1, h3⟩ := hin
      obtain ⟨x, hx⟩ := hselected h1 h3
      refine answered_only h rfl (by decide) ((renderCheck_selected hq hx).trans ?_)
      simp only [renderRefusal_eq]
      rw [if_neg (not_not.2 ⟨hcard, hstart, hcount⟩), if_pos (show ¬ 64 ∣ (renderOrderOf data x).buffer from ha)]
    · obtain ⟨hcard, hstart, hcount, h1, h3⟩ := hin
      obtain ⟨x, hx⟩ := hselected h1 h3
      refine answered_only h rfl (by decide) ((renderCheck_selected hq hx).trans ?_)
      simp only [renderRefusal_eq]
      rw [if_neg (not_not.2 ⟨hcard, hstart, hcount⟩), if_neg (halign x ha),
        if_pos (show ¬ (2 ∣ (renderOrderOf data x).length ∧ 240 ≤ (renderOrderOf data x).length) from hl)]
    · obtain ⟨hcard, hstart, hcount, h1, h3⟩ := hin
      obtain ⟨x, hx⟩ := hselected h1 h3
      refine answered_only h rfl (by decide) ((renderCheck_selected hq hx).trans ?_)
      simp only [renderRefusal_eq]
      rw [if_neg (not_not.2 ⟨hcard, hstart, hcount⟩), if_neg (halign x ha), if_neg (hlongs x hl),
        if_pos ((hbusy x).1 hb)]
    · obtain ⟨hcard, hstart, hcount, h1, h3⟩ := hin
      obtain ⟨x, hx⟩ := hselected h1 h3
      refine card_asked h rfl ((renderCheck_selected hq hx).trans ?_)
      simp only [renderRefusal_eq]
      rw [if_neg (not_not.2 ⟨hcard, hstart, hcount⟩), if_neg (halign x ha), if_neg (hlongs x hl),
        if_neg (mt (hbusy x).2 hb)]

/-! ### The card read -/

theorem cardRefusal_eq {line : List Byte} : cardRefusal line =
    if ¬ (byteAt line 0 = 2 ∨ byteAt line 0 = 3) then some 21
    else if byteAt line 2 ≠ 0 then some 23 else none := by
  simp only [cardRefusal, cardFiled, cardSuspended, ne_eq, ← not_or]
  rfl

/-- A finishing write while a sweep runs, and the sweep that goes on behind it. -/
theorem finish_waiting {b : State} {code first second : Nat} (h : s.orders.sweep ≠ .idle) (hc : code < 256)
    (ho : b.orders = s.orders) (he : b.engine = s.engine) (hb : b.base = s.base) :
    Answered s ((b.finish k code first second).sweepOn (k.val + 1)) k code first second ∧
    SweptOn s ((b.finish k code first second).sweepOn (k.val + 1)) k ∧
    (b.finish k code first second).sweepOn (k.val + 1) = { b with
      orders := ((b.finish k code first second).sweepOn (k.val + 1)).orders,
      engine := ((b.finish k code first second).sweepOn (k.val + 1)).engine } := by
  have hsw : SweptOn s ((b.finish k code first second).sweepOn (k.val + 1)) k := by
    apply sweptOn <;> simp [State.finish, State.finishBy, State.sendWrite, State.handOver, ho]
  obtain ⟨w, a, i, hs⟩ := sweepOn_frame (b.finish k code first second) (k.val + 1)
  refine ⟨?_, hsw, ?_⟩
  · rw [hs]
    constructor <;>
      simp [State.finish, State.finishBy, State.sendWrite, State.handOver, ho, h, HandedOver, he, writeOf,
        orderSlotAddress, hostAddress, hb, Config.addressSpace, resultBytes_eq hc]
  · rw [hs]
    rfl

/-- An accepting write behind other work that left the order unit alone, and the sweep that goes on behind it. -/
theorem accept_taken {entry : Accepted} {v : State} (ho : ∃ l, v.orders = { (s.accept k entry).orders with renders := l })
    {more : List Access} (he : HandedOver (s.accept k entry) v more) :
    TakenOn s (v.sweepOn (k.val + 1)) k entry more ∧ SweptOn s (v.sweepOn (k.val + 1)) k ∧
    (v.sweepOn (k.val + 1)).orders.renders = v.orders.renders ∧
    v.sweepOn (k.val + 1) = { v with orders := (v.sweepOn (k.val + 1)).orders } := by
  obtain ⟨l, ho⟩ := ho
  obtain ⟨w, a, i, hs⟩ := sweepOn_frame v (k.val + 1)
  have hsw : SweptOn s (v.sweepOn (k.val + 1)) k := sweptOn (by rw [ho]; rfl) (by rw [ho]; rfl)
  refine ⟨?_, hsw, by rw [hs], by rw [hs]⟩
  rw [hs]
  refine ⟨by rw [ho]; rfl, by rw [ho]; rfl, by rw [ho]; rfl, by rw [ho]; rfl, ?_⟩
  refine (show v.engine = _ from he).trans ?_
  simp only [State.accept, State.sendWrite, State.handOver, List.append_assoc, List.singleton_append]
  rfl

/-- An accepted order whose work, behind its accepting write, sets one row. -/
theorem taken_row {c : Chan} {r : ChanRow} {entry : Accepted} {v : State} {more : List Access}
    (hp : s.regs.part ≠ .starting) (hr : s.reports = u.reports) (hd : s.desk = u.desk)
    (hv : v = ({ s with orders := (s.accept k entry).orders, engine := v.engine } : State).setRow c r)
    (he : HandedOver (s.accept k entry) v more) :
    ∃ t, done u (v.sweepOn (k.val + 1)) = .next t ∧ TakenOn s t k entry more ∧ SweptOn s t k ∧
      RowBecomes { s with orders := t.orders, engine := t.engine } t c r := by
  obtain ⟨htaken, hswept, -, hframe⟩ := accept_taken (s := s) (v := v) ⟨_, by rw [hv]; rfl⟩ he
  generalize v.sweepOn (k.val + 1) = x at *
  have hx : x = ({ s with orders := x.orders, engine := x.engine } : State).setRow c r := by
    rw [hframe, hv]
    rfl
  obtain ⟨t, ht, hrow, -, hdesk⟩ := done_row (s := u)
    (b := { s with orders := x.orders, engine := x.engine }) hp hr hd hx
  have ho : t.orders = x.orders := by rw [hdesk]
  have hn : t.engine = x.engine := by rw [hdesk]
  refine ⟨t, ht, ?_, ⟨ho ▸ hswept.1, ho ▸ hswept.2⟩, by rw [ho, hn]; exact hrow⟩
  exact ⟨ho ▸ htaken.1, ho ▸ htaken.2, ho ▸ htaken.3, ho ▸ htaken.4, hn.trans htaken.5⟩

/-- Settles O35: the line's refusals, then the acceptance of each of the two orders. -/
theorem cardReadDecidesTheOrder : Obligations.CardReadDecidesTheOrder := by
  unfold Obligations.CardReadDecidesTheOrder
  intro s a rest k line hdue hpurpose hsweep hrun data u stored
  have hexec : exec (.orderCardReadComplete line) s = done s
      ((if slotKind data = 4 then u.decideReopen k data line else u.decideRender k data line).sweepOn (k.val + 1)) := by
    change done s (s.onComplete _ _ _) = _
    rw [onComplete_due hdue (by simp [hpurpose])]
    simp only [show (s.landed rest).orders.sweep = .awaiting k from hsweep]
    rfl
  have hwaits : u.orders.sweep ≠ .idle := by rw [show u.orders.sweep = .awaiting k from hsweep]; simp
  rw [hexec]
  have hrefused : ∀ code, code < 256 →
      (if slotKind data = 4 then u.decideReopen k data line else u.decideRender k data line) =
        u.finish k code 0 0 → ∃ t, done s ((if slotKind data = 4 then u.decideReopen k data line
          else u.decideRender k data line).sweepOn (k.val + 1)) = .next t ∧ AnsweredOnly u t k code 0 0 := by
    intro code hc hb
    obtain ⟨h1, h2, h3⟩ := finish_waiting (b := u) (k := k) (first := 0) (second := 0) hwaits hc rfl rfl rfl
    rw [hb]
    exact ⟨_, done_same ((congrArg State.reports h3).trans rfl), h1, h2, h3⟩
  have hline : ∀ code, cardRefusal line = some code →
      slotKind data = 4 ∧ byteAt data 8 < 32 ∨ slotKind data = 5 →
      (if slotKind data = 4 then u.decideReopen k data line else u.decideRender k data line) =
        u.finish k code 0 0 := by
    rintro code hcode (⟨hkind, hn⟩ | hkind)
    · rw [if_pos hkind, State.decideReopen, dif_pos (show orderChannel data < 32 from hn)]
      simp only [hcode]
    · rw [if_neg (by omega), State.decideRender]
      simp only [hcode]
  refine ⟨fun hkind => ⟨fun hs => hrefused 21 (by decide) (hline 21 ?_ hkind),
    fun hs hd => hrefused 23 (by decide) (hline 23 ?_ hkind)⟩, ?_, ?_⟩
  · rw [cardRefusal_eq, if_pos hs]
  · rw [cardRefusal_eq, if_neg (not_not.2 hs), if_pos hd]
  · intro c hkind hc hs hd card hidle hask hholding hreopen hrender
    have hcard : cardRefusal line = none := by rw [cardRefusal_eq, if_neg (not_not.2 hs), if_neg (not_not.2 hd)]
    have hstill : u.reopenRefusal card c = none := by
      rw [reopenRefusal_eq, if_neg (not_not.2 ⟨hidle, hask⟩), if_neg]
      rw [held_iff, reopenNames_iff, renderNames_iff]
      rintro (hh | ⟨j, d, hj⟩ | ⟨j, o, hj, ho⟩)
      · exact hh hholding
      · exact hreopen j d hj
      · exact hrender j o hj ho
    have hbody : u.decideReopen k data line = u.acceptReopen k card c := by
      rw [State.decideReopen]
      refine (dite_channel hc (fun c => match cardRefusal line, u.reopenRefusal card c with
        | some code, _ => u.finish k code 0 0
        | none, some code => u.finish k code 0 0
        | none, none => u.acceptReopen k card c) _).trans ?_
      simp only [hcard, hstill]
    rw [if_pos hkind, hbody]
    have htaken := taken_row (s := u) (u := s) (k := k) (c := c) (entry := .reopen card c)
      (r := { s.row c with
        ctx := { (s.row c).ctx with state := .busy .loading }, op := some (.reopening (.card card)) })
      (v := u.acceptReopen k card c)
      (more := (List.range 4).map fun n =>
          readOf .cardUnit (.reopenCardRead c (n == 3)) ((s.setup.cardBase + (256 * card + 64 * n)) % 2 ^ 64))
      (by simp [u, State.landed, hrun]) rfl rfl rfl (by
        simp only [HandedOver, State.acceptReopen, State.sendRead, State.handOver, List.append_assoc]
        rfl)
    obtain ⟨t, ht, h1, h2, h3⟩ := htaken
    exact ⟨t, ht, h2, h1, h3⟩
  · intro selection hkind hsel hs hd
    have hcard : cardRefusal line = none := by rw [cardRefusal_eq, if_neg (not_not.2 hs), if_neg (not_not.2 hd)]
    let v : State := u.accept k (.render (renderOrderOf data selection))
    let w : State := { v with orders := { v.orders with renders := v.orders.renders ++ [k] } }
    have hbody : u.decideRender k data line = w := by
      rw [State.decideRender]
      simp only [hcard, hsel]
      rfl
    obtain ⟨h1, h2, h3, h4⟩ := accept_taken (s := u) (k := k) (v := w) ⟨_, rfl⟩ (HandedOver.refl v)
    rw [if_neg (by omega), hbody]
    exact ⟨_, done_same ((congrArg State.reports h4).trans rfl), h2, h1, h3, by rw [h4]; rfl⟩

end Sys2Proof.Machine
end

section
/-! PROOFS. CANCEL by its target, and the two parts of a finishing write. -/

namespace Sys2Proof.Machine

open Sys2Proof

variable {s t u : State} {k : OrderSlot}

/-! ### CANCEL -/

/-- An order command whose body leaves the sweep at its slot. -/
theorem takeOrder_on {p : Nat → Bool} {body : OrderSlot → List Byte → State} {kind : Nat} {v : State}
    (h : OrderAt s k kind) (hp : p kind = true) (hb : body k (s.orders.slotData k) = v)
    (hv : v.orders.sweep = .acting k) : s.takeOrder p body = v.sweepOn (k.val + 1) := by
  rw [takeOrder_at h hp, hb, if_pos hv]

theorem cancelTarget_render {target : OrderSlot} {o : RenderOrder} (h : s.orders.accepted[target] = some (.render o)) :
    s.cancelTarget target = if s.orders.renders.head? = some target then .active else .queued := by
  simp only [State.cancelTarget, h]

theorem cancelTarget_other {target : OrderSlot} (h : s.orders.accepted[target] ≠ none)
    (hr : ∀ o, s.orders.accepted[target] ≠ some (.render o)) : s.cancelTarget target = .notRender := by
  simp only [State.cancelTarget]
  split
  · next o ho => exact absurd ho (hr o)
  · rfl
  · next hn => exact absurd hn h

theorem cancelTarget_free {target : OrderSlot} (h : s.orders.accepted[target] = none) :
    s.cancelTarget target =
      if byteAt (s.orders.slotData target) 1 = 6 ∧ byteAt (s.orders.slotData target) 0 = 1 then .notRender
      else if target ∈ s.orders.finishedSet then .answered
      else if byteAt (s.orders.slotData target) 1 = 5 then
        if byteAt (s.orders.slotData target) 0 = 1 then .posted
        else if byteAt (s.orders.slotData target) 0 = 2 ∨ byteAt (s.orders.slotData target) 0 = 3 then .answered
        else .notRender
      else .notRender := by
  simp only [State.cancelTarget, h, List.contains_iff_mem]
  rfl

/-- The two finishing writes of a CANCEL that takes a render out: the target's, then its own. -/
theorem both_finished {target : OrderSlot} {l : List OrderSlot} (h : s.orders.sweep = .acting k) :
    let b : State := { s with orders := { s.orders with renders := l } }
    let v := (b.finish target 2 0 0).finish k 0 0 0
    let t := v.sweepOn (k.val + 1)
    let answer := fun (j : OrderSlot) (code : Nat) (number : Word) =>
      writeOf .orderUnit (.finishResult j) ((s.base + (0x800 + 64 * j.val + 0x30)) % 2 ^ 64)
        (bytesOf 4 code ++ bytesOf 4 0 ++ bytesOf 4 0 ++ bytesOf 4 number.toNat)
    v.orders.sweep = .acting k ∧
    HandedOver s t [answer target 2 (s.orders.finishCounter + 1#32),
      answer k 0 (s.orders.finishCounter + 1#32 + 1#32)] ∧
    t.orders.accepted = (s.orders.accepted.set target none).set k none ∧
    t.orders.finishedSet = s.orders.finishedSet ++ [target] ++ [k] ∧
    t.orders.finishCounter = s.orders.finishCounter + 1#32 + 1#32 ∧ SweptOn s t k ∧
    t.orders.renders = l ∧ t = { s with orders := t.orders, engine := t.engine } := by
  intro b v t answer
  obtain ⟨w, a, i, hs⟩ := sweepOn_frame v (k.val + 1)
  have hne : s.orders.sweep ≠ .idle := by rw [h]; simp
  have hset : v.orders.finishedSet = s.orders.finishedSet ++ [target] ++ [k] := by
    simp [v, b, State.finish, State.finishBy, State.sendWrite, State.handOver, hne]
  refine ⟨h, ?_, by rw [show t = _ from hs]; rfl, by rw [show t = _ from hs]; exact hset,
    by rw [show t = _ from hs]; rfl, sweptOn rfl rfl, by rw [show t = _ from hs]; rfl, by rw [show t = _ from hs]; rfl⟩
  rw [show t = _ from hs]
  simp only [HandedOver, v, b, State.finish, State.finishBy, State.sendWrite, State.handOver, List.append_assoc,
    resultBytes_eq (show 2 < 256 by decide), resultBytes_eq (show 0 < 256 by decide)]
  rfl

theorem stopped_fields (x : RenderContext) : x.stopped.stop = true ∧ x.stopped.ahead = [] ∧
    x.stopped.handed = x.handed ∧ x.stopped.written = x.written ∧ x.stopped.failed = x.failed ∧
    (x.stage ≠ .output ∨ x.decode = none → x.stopped.stage = .draining) ∧
    (x.stage = .output → x.decode ≠ none → x.stopped.stage = .output) := by
  unfold RenderContext.stopped
  split
  · next hstage =>
    split
    · next d hd => exact ⟨rfl, rfl, rfl, rfl, rfl, fun h => by simp_all, fun _ _ => hstage⟩
    · next hd => exact ⟨rfl, rfl, rfl, rfl, rfl, fun _ => rfl, fun _ h => absurd hd h⟩
  · next hstage => exact ⟨rfl, rfl, rfl, rfl, rfl, fun _ => rfl, fun h => absurd h hstage⟩

/-- Settles O36: the target told from table, finished set and image, then the finishing writes. -/
theorem cancelActsByTarget : Obligations.CancelActsByTarget := by
  unfold Obligations.CancelActsByTarget
  intro s k h n answer
  refine ⟨fun hn => answered_only h rfl (by decide) (dif_neg (Nat.not_lt.2 hn)), fun target hn => ?_⟩
  intro shown entry both
  have hexec : ∀ (v : State), s.cancel k target = v → v.orders.sweep = .acting k →
      exec .cancelOrder s = done s (v.sweepOn (k.val + 1)) := by
    intro v hv hacting
    refine congrArg (done s) (takeOrder_on h rfl ?_ hacting)
    exact (dite_channel hn (s.cancel k) _).trans hv
  have hanswer : ∀ code, code < 256 → s.cancel k target = s.finish k code 0 0 →
      ∃ t, exec .cancelOrder s = .next t ∧ AnsweredOnly s t k code 0 0 := fun code hc hb =>
    answered_only h rfl hc ((dite_channel hn (s.cancel k) _).trans hb)
  have hnot : s.cancelTarget target = .notRender → s.cancel k target = s.finish k 17 0 0 := fun ht => by
    simp only [State.cancel, ht]
    rfl
  have hlate : s.cancelTarget target = .answered → s.cancel k target = s.finish k 3 0 0 := fun ht => by
    simp only [State.cancel, ht]
    rfl
  have hboth : ∀ l, s.cancel k target =
      (State.finish { s with orders := { s.orders with renders := l } } target 2 0 0).finish k 0 0 0 →
      ∃ t, exec .cancelOrder s = .next t ∧ both t ∧ t.orders.renders = l := by
    intro l hb
    obtain ⟨hacting, hover, haccepted, hset, hcounter, hswept, hrenders, hframe⟩ :=
      both_finished (target := target) (l := l) h.acting
    exact ⟨_, (hexec _ hb hacting).trans (done_same ((congrArg State.reports hframe).trans rfl)),
      ⟨hover, haccepted, hset, hcounter, hswept, hframe⟩, hrenders⟩
  refine ⟨fun he h6 h1 => ?_, fun he hne hin => ?_, fun he hout h5 hst => ?_, fun he hout hne => ?_,
    fun he hr => ?_, fun he hout h5 h1 => ?_, fun o he hhead => ?_, fun o x he hhead hx => ?_⟩
  · exact hanswer 17 (by decide) (hnot ((cancelTarget_free he).trans (if_pos ⟨h6, h1⟩)))
  · exact hanswer 3 (by decide) (hlate ((cancelTarget_free he).trans
      ((if_neg (by rw [not_and_or]; exact hne)).trans (if_pos hin))))
  · refine hanswer 3 (by decide) (hlate ((cancelTarget_free he).trans ?_))
    change byteAt (s.orders.slotData target) 0 = 2 ∨ byteAt (s.orders.slotData target) 0 = 3 at hst
    rw [if_neg (fun h => absurd (h5.symm.trans h.1) (by decide)), if_neg hout, if_pos h5, if_neg (by omega), if_pos hst]
  · refine hanswer 17 (by decide) (hnot ((cancelTarget_free he).trans ?_))
    change byteAt (s.orders.slotData target) 1 ≠ 5 ∨ byteAt (s.orders.slotData target) 0 = 0 ∨
      3 < byteAt (s.orders.slotData target) 0 at hne
    rw [if_neg hout]
    split
    · rfl
    · split
      · rw [if_neg (by omega), if_neg (by omega)]
      · rfl
  · exact hanswer 17 (by decide) (hnot (cancelTarget_other he hr))
  · refine hboth s.orders.renders ?_
    have ht : s.cancelTarget target = .posted := by
      rw [cancelTarget_free he, if_neg (fun h => absurd (h5.symm.trans h.1) (by decide)), if_neg hout, if_pos h5,
        if_pos h1]
    simp only [State.cancel, ht]
    rfl
  · refine hboth (s.orders.renders.filter (· ≠ target)) ?_
    have ht : s.cancelTarget target = .queued := by rw [cancelTarget_render he, if_neg hhead]
    have hfilter : (fun x : OrderSlot => x != target) = fun x => decide (x ≠ target) := by
      funext x
      exact decide_not.symm
    simp only [State.cancel, ht, hfilter]
    rfl
  · have ht : s.cancelTarget target = .active := by rw [cancelTarget_render he, if_pos hhead]
    let b : State := { s.dropRenderReads with render := some x.stopped }
    have hb : s.cancel k target = b.finish k 0 0 0 := by
      simp only [State.cancel, ht, State.stopRender, hx]
      rfl
    obtain ⟨h1, h2, h3⟩ := finish_waiting (s := b) (b := b) (k := k) (code := 0) (first := 0) (second := 0)
      (by rw [show b.orders.sweep = .acting k from h.acting]; simp) (by decide) rfl rfl rfl
    obtain ⟨hstop, hahead, hhanded, hwritten, hfailed, hdrain, hout⟩ := stopped_fields x
    refine ⟨_, x.stopped, (hexec _ hb h.acting).trans (done_same ((congrArg State.reports h3).trans rfl)),
      by rw [h3], hstop, hahead, hhanded, hwritten, hfailed, hdrain, hout, h1.counter, h1.renders, h1.accepted,
      ⟨h2.next, h2.ended⟩, by rw [h3]; rfl⟩

/-! ### The finishing write -/

theorem finisher_orderUnit {a : Access} {rest : List Access} {kind : Purpose → Bool} (h : Due s .orderUnit a rest)
    (hk : kind a.purpose = true) : s.finisher kind = .orderUnit := by
  rw [State.finisher, complete_due h hk]
  rfl

theorem finisher_startSweep {kind : Purpose → Bool}
    (h : ∀ b more, nextDue .orderUnit s.engine.flight = some (b, more) → kind b.purpose = false) :
    s.finisher kind = .startSweep := by
  have hnone : s.complete .orderUnit kind = none := by
    rw [State.complete]
    split
    · rfl
    · next b more hb => simp [h b more hb]
  rw [State.finisher, hnone]
  rfl

/-- The first part of a finishing write done: the state byte is handed over by the same requester. -/
theorem result_written {a : Access} {rest : List Access} {who : Requester} (hdue : Due s who a rest)
    (hpurpose : a.purpose = .finishResult k) (hwho : s.finisher (· == .finishResult k) = who) :
    ∃ t, exec (.finishResultWritten k) s = .next t ∧ HandedOver (s.landed rest) t
      [writeOf who (.finishState k) ((s.base + (0x800 + 64 * k.val + 0)) % 2 ^ 64) [3#8]] ∧
      t = { s with engine := t.engine } := by
  refine ⟨(s.landed rest).sendWrite who (.finishState k) (orderSlotAddress s.base k 0) (bytesOf 1 slotFinished),
    ?_, rfl, rfl⟩
  change done s (s.onComplete (s.finisher (· == .finishResult k)) _ _) = _
  rw [hwho, onComplete_due hdue (by simp [hpurpose])]
  exact done_same rfl

theorem requestDesk_active (h : s.active = true) : s.requestDesk = { s with
    desk := if s.desk.writing = true then { s.desk with again := true } else { s.desk with requested := true } } := by
  rw [State.requestDesk, if_pos h]
  split <;> rfl

/-- The desk unit told of a finished order. -/
def DeskUnit.finishTold (d : DeskUnit) : DeskUnit := { d with finishes := d.finishes + 1#32, changed := true }

/-- The desk unit as the report of a finished order leaves it (R163). -/
def State.deskAfterFinish (s : State) : DeskUnit :=
  if (s.regs.part = .running ∨ s.regs.part = .quiescing) ∧
      s.setup.orderMark ≤ (s.desk.finishes + 1#32).toNat then
    if s.desk.writing = true then { s.desk.finishTold with again := true }
    else { s.desk.finishTold with requested := true }
  else s.desk.finishTold

theorem reportFinish_eq : s.reportFinish = { s with desk := s.deskAfterFinish } := by
  unfold State.reportFinish State.deskAfterFinish
  by_cases h : (s.regs.part = .running ∨ s.regs.part = .quiescing) ∧
      s.setup.orderMark ≤ (s.desk.finishes + 1#32).toNat
  · simp only [if_pos h]
    exact requestDesk_active (s := { s with desk := s.desk.finishTold }) (active_iff.2 (Or.inr h.1))
  · simp only [if_neg h]
    rfl

theorem deskAfterFinish_told : s.deskAfterFinish.finishes = s.desk.finishes + 1#32 ∧
    s.deskAfterFinish.changed = true := by
  unfold State.deskAfterFinish
  split
  · split <;> exact ⟨rfl, rfl⟩
  · exact ⟨rfl, rfl⟩

theorem endAnswers_other (h : s.sweep.phase ≠ .answering) : s.endAnswers = s := by
  rw [State.endAnswers]
  exact if_neg fun hp => h hp.1

theorem endAnswers_frame : s.endAnswers = { s with sweep := s.endAnswers.sweep, desk := s.endAnswers.desk } := by
  rw [State.endAnswers]
  split
  · rw [requestDesk_frame]
    rfl
  · rfl

/-- The state as a finished order is counted and reported. -/
def State.finishCounted (s : State) : State :=
  { s with
    orders := { s.orders with finishedCount := s.orders.finishedCount + 1#32 }, desk := s.deskAfterFinish }

theorem exec_orderFinished {a : Access} {rest : List Access} {who : Requester} (hdue : Due s who a rest)
    (hpurpose : a.purpose = .finishState k) (hwho : s.finisher (· == .finishState k) = who) :
    exec (.orderFinished k) s = done s ((s.landed rest).finishCounted).endAnswers := by
  change done s (s.onComplete (s.finisher (· == .finishState k)) _ _) = _
  rw [hwho, onComplete_due hdue (by simp [hpurpose])]
  exact congrArg (fun v : State => done s v.endAnswers) reportFinish_eq

/-- Settles O39: the two parts, for the order unit and for the start sweep's answers. -/
theorem finishingWriteHasTwoParts : Obligations.FinishingWriteHasTwoParts := by
  unfold Obligations.FinishingWriteHasTwoParts
  refine ⟨fun s a rest k hdue => ⟨fun hpurpose => ?_, fun hpurpose hpart hphase => ?_⟩,
    fun s a rest k hdue hother => ⟨fun hpurpose => ?_, fun hpurpose hpart => ?_⟩⟩
  · exact result_written hdue hpurpose (finisher_orderUnit hdue (by simp [hpurpose]))
  · have hexec := exec_orderFinished hdue hpurpose (finisher_orderUnit hdue (by simp [hpurpose]))
    rw [endAnswers_other (by exact hphase)] at hexec
    refine ⟨_, hexec.trans (done_same rfl), rfl, deskAfterFinish_told.1, deskAfterFinish_told.2, ?_, ?_, ?_, rfl⟩
    · intro hmark hw
      have hdesk : (s.landed rest).deskAfterFinish = { s.desk.finishTold with requested := true } :=
        (if_pos ⟨hpart, hmark⟩).trans (if_neg (by simp [State.landed, hw]))
      exact ⟨(congrArg DeskUnit.requested hdesk).trans rfl, (congrArg DeskUnit.again hdesk).trans rfl⟩
    · intro hmark hw
      have hdesk : (s.landed rest).deskAfterFinish = { s.desk.finishTold with again := true } :=
        (if_pos ⟨hpart, hmark⟩).trans (if_pos hw)
      exact ⟨(congrArg DeskUnit.requested hdesk).trans rfl, (congrArg DeskUnit.again hdesk).trans rfl⟩
    · intro hmark
      have hdesk : (s.landed rest).deskAfterFinish = s.desk.finishTold :=
        if_neg fun h => absurd h.2 (Nat.not_le.2 hmark)
      exact ⟨(congrArg DeskUnit.requested hdesk).trans rfl, (congrArg DeskUnit.again hdesk).trans rfl⟩
  · exact result_written hdue hpurpose (finisher_startSweep fun b more hb => by
      simpa [hpurpose] using hother b more hb)
  · intro left desk
    have hexec := exec_orderFinished hdue hpurpose (finisher_startSweep fun b more hb => by
      simpa [hpurpose] using hother b more hb)
    let u := (s.landed rest).finishCounted
    have hdesk : u.desk = desk := if_neg (by simp [State.landed, hpart])
    have hleft : u.answering = true ↔ left := answering_iff
    refine ⟨u.endAnswers, ?_, ?_, ?_, ?_, ?_⟩
    · exact hexec.trans (done_same (by rw [endAnswers_frame]; rfl))
    · rw [endAnswers_frame]
      rfl
    · rintro (hphase | hl)
      · rw [endAnswers_other (by exact hphase)]
        exact ⟨rfl, hdesk⟩
      · rw [State.endAnswers, if_neg (fun h => h.2 (hleft.2 hl))]
        exact ⟨rfl, hdesk⟩
    · intro hphase hl hw
      have hends : u.endAnswers = (u.setPhase .desk).requestDesk := if_pos ⟨hphase, mt hleft.1 hl⟩
      rw [hends, requestDesk_requested (s := u.setPhase .desk) (active_iff.2 (Or.inl hpart)) ((congrArg DeskUnit.writing hdesk).trans hw)]
      exact ⟨rfl, congrArg (fun d : DeskUnit => { d with requested := true }) hdesk⟩
    · rw [endAnswers_frame]
      rfl

end Sys2Proof.Machine
end

section
/-! PROOFS. The memory engine: which access the arbiter grants, and what its grant leaves. -/

namespace Sys2Proof.Machine

open Sys2Proof

variable {s t u : State} {who : Requester} {before after : List Access} {a : Access}

/-! ### The head of a requester's queue -/

theorem headOf_eq_some : ∀ {l before after : List Access} {a : Access}, headOf who l = some (before, a, after) ↔
    l = before ++ a :: after ∧ a.who = who ∧ ∀ b ∈ before, b.who ≠ who
  | [], before, after, a => by simp [headOf]
  | e :: rest, before, after, a => by
    rw [headOf]
    by_cases he : e.who = who
    · rw [if_pos he]
      cases before with
      | nil =>
        simp only [Option.some.injEq, Prod.mk.injEq, List.nil_append, List.cons.injEq, List.not_mem_nil,
          false_implies, implies_true, and_true, true_and]
        constructor
        · rintro ⟨rfl, rfl⟩
          exact ⟨⟨rfl, rfl⟩, he⟩
        · rintro ⟨⟨rfl, rfl⟩, -⟩
          exact ⟨rfl, rfl⟩
      | cons b before =>
        simp only [Option.some.injEq, Prod.mk.injEq, List.nil_eq, reduceCtorEq, false_and, List.cons_append,
          List.cons.injEq, List.mem_cons, forall_eq_or_imp, false_iff, not_and]
        rintro ⟨rfl, -⟩ - hne
        exact absurd he hne
    · rw [if_neg he]
      cases before with
      | nil =>
        simp only [Option.map_eq_some_iff, Prod.mk.injEq, reduceCtorEq, false_and, and_false,
          exists_false, List.nil_append, List.cons.injEq, false_iff, not_and]
        rintro ⟨rfl, -⟩ hw
        exact absurd hw he
      | cons b before =>
        have ih := headOf_eq_some (l := rest) (before := before) (after := after) (a := a)
        simp only [Option.map_eq_some_iff, Prod.exists, Prod.mk.injEq, List.cons.injEq, List.cons_append,
          List.mem_cons, forall_eq_or_imp]
        constructor
        · rintro ⟨before', a', after', hh, ⟨rfl, rfl⟩, rfl, rfl⟩
          obtain ⟨rfl, hw, hb⟩ := ih.1 hh
          exact ⟨⟨rfl, rfl⟩, hw, he, hb⟩
        · rintro ⟨⟨rfl, hl⟩, hw, -, hb⟩
          exact ⟨before, a, after, ih.2 ⟨hl, hw, hb⟩, ⟨rfl, rfl⟩, rfl, rfl⟩

theorem isWrite_iff : a.isWrite = true ↔ ∃ bytes, a.action = .write bytes := by
  unfold Access.isWrite
  split
  · next bytes h => simp [h]
  · next n h => simp [h]

/-- An access of a requester's head is held back by no earlier write to its line and no record write of its sheet. -/
theorem heldBack_eq_false {flight : List Access} (hb : ∀ b ∈ before, b.who ≠ a.who) :
    heldBack flight before a = false ↔
      ((∃ bytes, a.action = .write bytes) → ∀ b ∈ before, (∃ bytes, b.action = .write bytes) →
        b.address / 64 ≠ a.address / 64) ∧
      ∀ card sheet, a.purpose = .headerWrite card sheet → ∀ b ∈ before ++ flight,
        ∀ card' slot, b.purpose ≠ .recordWrite card' sheet slot := by
  unfold heldBack
  rw [Bool.or_eq_false_iff]
  refine and_congr ?_ ?_
  · simp only [Bool.and_eq_false_imp, isWrite_iff, List.any_eq_false, Bool.and_eq_true, bne_iff_ne, beq_iff_eq,
      Access.line, not_and]
    exact forall_congr' fun _ => forall₂_congr fun b hm =>
      ⟨fun h hw => h ⟨hw, hb b hm⟩, fun h hw => h hw.1⟩
  · have hrecord : ∀ (b : Access) sheet, b.recordOf sheet = true ↔ ∃ card' slot, b.purpose = .recordWrite card' sheet slot := by
      intro b sheet
      unfold Access.recordOf
      split
      · next card n slot hp => simp [hp]
      · next hp => exact ⟨nofun, fun ⟨card', slot, he⟩ => absurd he (hp card' sheet slot)⟩
    split
    · next card sheet hp =>
      simp only [List.any_eq_false, hrecord, hp, Purpose.headerWrite.injEq, not_exists]
      exact ⟨fun h card' sheet' hs b hm => hs.2 ▸ h b hm, fun h b hm => h card sheet ⟨rfl, rfl⟩ b hm⟩
    · next hp => exact ⟨fun _ card sheet he => absurd he (hp card sheet), fun _ => rfl⟩

theorem offered_iff : Offered s who before a after ↔
    headOf who s.engine.waiting = some (before, a, after) ∧ heldBack s.engine.flight before a = false := by
  rw [headOf_eq_some]
  constructor
  · rintro ⟨hplace, hasked, holdest, hline, hheader⟩
    exact ⟨⟨hplace, hasked, holdest⟩, (heldBack_eq_false (hasked ▸ holdest)).2 ⟨hline, hheader⟩⟩
  · rintro ⟨⟨hplace, hasked, holdest⟩, hheld⟩
    obtain ⟨hline, hheader⟩ := (heldBack_eq_false (hasked ▸ holdest)).1 hheld
    exact ⟨hplace, hasked, holdest, hline, hheader⟩

theorem offers_iff : s.engine.offers who = true ↔ Offers s who := by
  unfold Engine.offers Offers
  split
  · next before a after h =>
    constructor
    · intro hh
      exact ⟨before, a, after, offered_iff.2 ⟨h, by simpa using hh⟩⟩
    · rintro ⟨b, x, f, hof⟩
      obtain ⟨hx, hheld⟩ := offered_iff.1 hof
      rw [h] at hx
      cases hx
      simpa using hheld
  · next h =>
    refine ⟨nofun, fun ⟨b, x, f, hof⟩ => ?_⟩
    rw [(offered_iff.1 hof).1] at h
    cases h

/-! ### The turn within a class -/

/-- A class has a turn exactly where a member of it offers an access. -/
theorem turn_isSome {e : Engine} {members : List Requester} {pointer : Nat} :
    (e.turn members pointer).isSome = true ↔ ∃ w ∈ members, e.offers w = true := by
  simp only [Engine.turn, List.find?_isSome, List.mem_append]
  exact exists_congr fun w => and_congr_left fun _ => by
    rw [or_comm, ← List.mem_append, List.take_append_drop]

/-- The turn falls on the member that offers before every other counted from the pointer upward. -/
theorem turn_eq {e : Engine} {members : List Requester} {pointer j : Nat} (hp : pointer < members.length)
    (hj : members[j]? = some who) (ho : e.offers who = true)
    (hfirst : ∀ i w, members[i]? = some w →
      (i + members.length - pointer) % members.length < (j + members.length - pointer) % members.length →
      e.offers w = false) :
    e.turn members pointer = some who := by
  obtain ⟨hjn, hw⟩ := List.getElem?_eq_some_iff.1 hj
  have hplace : ∀ m, m < members.length →
      (members.drop pointer ++ members.take pointer)[m]? = members[(m + pointer) % members.length]? := by
    intro m hm
    rw [List.getElem?_append, List.length_drop, List.getElem?_drop, List.getElem?_take]
    by_cases hlt : m < members.length - pointer
    · rw [if_pos hlt, Nat.mod_eq_of_lt (by omega), Nat.add_comm]
    · have hmod : (m + pointer) % members.length = m + pointer - members.length := by
        rw [Nat.mod_eq_sub_mod (by omega), Nat.mod_eq_of_lt (by omega)]
      rw [if_neg hlt, if_pos (by omega), hmod]
      congr 1
      omega
  rw [Engine.turn, List.find?_eq_some_iff_getElem]
  have hlen : (members.drop pointer ++ members.take pointer).length = members.length := by simp; omega
  have hback : ∀ i, i < members.length →
      ((i + members.length - pointer) % members.length + pointer) % members.length = i := by
    intro i hi
    rw [Nat.mod_add_mod, Nat.sub_add_cancel (by omega), Nat.add_mod_right, Nat.mod_eq_of_lt hi]
  have hpos : 0 < members.length := by omega
  refine ⟨ho, (j + members.length - pointer) % members.length, by rw [hlen]; exact Nat.mod_lt _ hpos, ?_, ?_⟩
  · apply Option.some.inj
    rw [← List.getElem?_eq_getElem, hplace _ (Nat.mod_lt _ hpos), hback j hjn, hj]
  · intro m hm
    have hmn : m < members.length := by
      have := Nat.mod_lt (j + members.length - pointer) hpos
      omega
    have hi : (m + pointer) % members.length < members.length := Nat.mod_lt _ hpos
    have hm' : ((m + pointer) % members.length + members.length - pointer) % members.length = m := by
      by_cases hlt : m + pointer < members.length
      · rw [Nat.mod_eq_of_lt hlt, show m + pointer + members.length - pointer = m + members.length by omega,
          Nat.add_mod_right, Nat.mod_eq_of_lt hmn]
      · rw [Nat.mod_eq_sub_mod (a := m + pointer) (by omega), Nat.mod_eq_of_lt (a := m + pointer - _) (by omega),
          show m + pointer - members.length + members.length - pointer = m by omega, Nat.mod_eq_of_lt hmn]
    have := hfirst ((m + pointer) % members.length) (members[(m + pointer) % members.length]'hi)
      (List.getElem?_eq_getElem hi) (by rw [hm']; exact hm)
    have hget : (members.drop pointer ++ members.take pointer)[m]'(by omega) =
        members[(m + pointer) % members.length]'hi := by
      apply Option.some.inj
      rw [← List.getElem?_eq_getElem, hplace m hmn, List.getElem?_eq_getElem hi]
    rw [hget, this]
    rfl

/-! ### The grant -/

/-- What a granted access leaves in host memory. -/
def Access.performed (a : Access) (m : List Host.Cell) : List Host.Cell :=
  match a.action with
  | .write bytes => Memory.write m a.address bytes
  | .read _ => m

/-- The state as a granted access has gone from waiting to flight. -/
def State.moved (s : State) (e : Engine) (before : List Access) (a : Access) (after : List Access) : State :=
  { s with engine := { e with waiting := before ++ after, flight := e.flight ++ [a] } }

theorem grant_none (h : s.engine.choose = none) : s.grant = s := by
  unfold State.grant
  split
  · rfl
  · simp only [h]

theorem grant_some {e : Engine} (hf : s.regs.part ≠ .faulted) (hc : s.engine.choose = some (who, e))
    (hh : headOf who e.waiting = some (before, a, after)) : s.grant = (s.moved e before a after).granted a := by
  unfold State.grant
  rw [if_neg hf]
  simp only [hc, hh]
  rfl

theorem granted_action : s.granted a =
    match a.who, a.purpose with
    | .channel c, .recordWrite .. => ({ s with written := a.performed s.written } : State).modRow c fun r => { r with
        queue := beginWriting r.queue }
    | _, .renderWrite _ true => ({ s with written := a.performed s.written } : State).handOn
    | _, _ => { s with written := a.performed s.written } := by
  unfold State.granted Access.performed
  cases a.action <;> rfl

theorem granted_record {c : Chan} {card sheet slot : Nat} (hw : a.who = .channel c)
    (hp : a.purpose = .recordWrite card sheet slot) : s.granted a =
      ({ s with written := a.performed s.written } : State).setRow c
        { s.row c with queue := beginWriting (s.row c).queue } := by
  rw [granted_action, hw, hp]
  rfl

theorem granted_other (hr : ∀ frame, a.purpose ≠ .renderWrite frame true)
    (hp : ∀ card sheet slot, a.purpose ≠ .recordWrite card sheet slot) :
    s.granted a = { s with written := a.performed s.written } := by
  rw [granted_action]
  split
  · next card sheet slot _ he => exact absurd he (hp card sheet slot)
  · next frame he => exact absurd he (hr frame)
  · rfl

theorem granted_render {frame : Nat} (h : a.purpose = .renderWrite frame true) :
    s.granted a = ({ s with written := a.performed s.written } : State).handOn := by
  rw [granted_action, h]
  cases a.who <;> rfl

/-- A grant that is no render frame's last write changes rows and host memory alone. -/
theorem granted_frame (hr : ∀ frame, a.purpose ≠ .renderWrite frame true) :
    s.granted a = { s with chans := (s.granted a).chans, written := a.performed s.written } := by
  rw [granted_action]
  split
  · rfl
  · next frame he => exact absurd he (hr frame)
  · rfl

theorem report_frame : s.report t = { t with desk := (s.report t).desk } := by
  unfold State.report
  split <;> rfl

/-- The engine after the grant of an access that is no render frame's last write. -/
theorem exec_accessGrant_engine {e : Engine} (hf : s.regs.part ≠ .faulted) (hc : s.engine.choose = some (who, e))
    (hh : headOf who e.waiting = some (before, a, after)) (hr : ∀ frame, a.purpose ≠ .renderWrite frame true) :
    ∃ t, exec .accessGrant s = .next t ∧
      t.engine = { e with waiting := before ++ after, flight := e.flight ++ [a] } := by
  refine ⟨s.report s.grant, rfl, ?_⟩
  rw [report_frame, grant_some hf hc hh, granted_frame hr]
  rfl

/-! ### The choice -/

theorem choose_none {e : Engine} (ha : e.turn classA e.pointerA = none) (hb : e.turn classB e.pointerB = none) :
    e.choose = none := by
  simp only [Engine.choose, ha, hb]

theorem choose_classA {e : Engine} (ha : e.turn classA e.pointerA = some who)
    (hb : e.run < 8 ∨ e.turn classB e.pointerB = none) : e.choose =
      some (who, { e with pointerA := (classA.idxOf who + 1) % 32, run := min 8 (e.run + 1) }) := by
  cases hbt : e.turn classB e.pointerB with
  | none => simp only [Engine.choose, ha, hbt]
  | some w =>
    have hrun : e.run < 8 := hb.resolve_right (by simp [hbt])
    simp only [Engine.choose, ha, hbt, if_pos hrun]

theorem choose_classB {e : Engine} (hb : e.turn classB e.pointerB = some who)
    (ha : 8 ≤ e.run ∨ e.turn classA e.pointerA = none) : e.choose =
      some (who, { e with pointerB := (classB.idxOf who + 1) % 6, run := 0 }) := by
  cases hat : e.turn classA e.pointerA with
  | none => simp only [Engine.choose, hb, hat]
  | some w =>
    have hrun : ¬ e.run < 8 := Nat.not_lt.2 (ha.resolve_right (by simp [hat]))
    simp only [Engine.choose, hb, hat, if_neg hrun]

theorem turn_eq_none {e : Engine} {members : List Requester} {pointer : Nat}
    (h : ¬ ∃ w ∈ members, e.offers w = true) : e.turn members pointer = none := by
  rw [← Option.not_isSome_iff_eq_none, turn_isSome]
  exact h

theorem classA_offers : (∃ w ∈ classA, s.engine.offers w = true) ↔ ∃ c : Chan, Offers s (.channel c) := by
  simp [classA, offers_iff]

theorem classB_offers : (∃ w ∈ classB, s.engine.offers w = true) ↔
    ∃ who ∈ [Requester.sheetManager, .cardUnit, .orderUnit, .deskUnit, .render, .startSweep], Offers s who := by
  simp only [classB, offers_iff]

theorem classA_getElem? {i : Nat} {w : Requester} (h : classA[i]? = some w) :
    ∃ c : Chan, w = .channel c ∧ c.val = i := by
  rw [classA, List.getElem?_map, Option.map_eq_some_iff] at h
  obtain ⟨c, hc, rfl⟩ := h
  obtain ⟨hi, hc⟩ := List.getElem?_eq_some_iff.1 hc
  exact ⟨c, rfl, by rw [← hc]; simp⟩

theorem classA_at (c : Chan) : classA[c.val]? = some (.channel c) := by
  simp [classA]

theorem idxOf_classA : ∀ c : Chan, classA.idxOf (.channel c) = c.val := by decide

theorem idxOf_classB : ∀ (j : Fin 6) who, classB[j.val]? = some who → classB.idxOf who = j.val := by
  intro j who h
  fin_cases j <;> cases h <;> rfl

/-- Settles O40: the turns of the two classes, and the choice between them by the run count. -/
theorem arbiterChoosesByClassAndTurn : Obligations.ArbiterChoosesByClassAndTurn := by
  unfold Obligations.ArbiterChoosesByClassAndTurn
  intro s
  dsimp only
  rw [← classA_offers, ← classB_offers]
  refine ⟨?_, ?_, ?_⟩
  · intro h
    have hgrant : s.grant = s := by
      rcases h with hf | ⟨ha, hb⟩
      · exact if_pos hf
      · exact grant_none (choose_none (turn_eq_none ha) (turn_eq_none hb))
    change done s s.grant = _
    rw [hgrant]
    exact done_same rfl
  · intro hf _ hrun hp c before a after hoffered hfirst hr
    obtain ⟨hhead, -⟩ := offered_iff.1 hoffered
    have hturn : s.engine.turn classA s.engine.pointerA = some (.channel c) := by
      refine turn_eq (by simpa [classA] using hp) (classA_at c) (offers_iff.2 ⟨_, _, _, hoffered⟩) ?_
      intro i w hi hlt
      obtain ⟨d, rfl, rfl⟩ := classA_getElem? hi
      exact Bool.eq_false_iff.2 fun ho => hfirst d (by simpa [classA] using hlt) (offers_iff.1 ho)
    have hchoose := choose_classA hturn (hrun.imp id turn_eq_none)
    rw [idxOf_classA] at hchoose
    exact exec_accessGrant_engine hf hchoose hhead hr
  · intro hf _ hrun hp j who before a after hj hoffered hfirst hr
    obtain ⟨hhead, -⟩ := offered_iff.1 hoffered
    have hturn : s.engine.turn classB s.engine.pointerB = some who := by
      refine turn_eq hp hj (offers_iff.2 ⟨_, _, _, hoffered⟩) ?_
      intro i w hi hlt
      have hi6 : i < 6 := (List.getElem?_eq_some_iff.1 hi).1
      exact Bool.eq_false_iff.2 fun ho => hfirst ⟨i, hi6⟩ hlt w hi (offers_iff.1 ho)
    have hchoose := choose_classB hturn (hrun.imp id turn_eq_none)
    rw [idxOf_classB j who hj] at hchoose
    exact exec_accessGrant_engine hf hchoose hhead hr

/-! ### What a grant leaves in host memory -/

theorem read_performed_outside {m : List Host.Cell} {n : Nat} (h : ¬ a.covers n) :
    Memory.read (a.performed m) n = Memory.read m n := by
  unfold Access.performed
  split
  · next bytes ha =>
    refine read_write_outside ?_
    by_contra hn
    exact h ⟨bytes, ha, by omega, by omega⟩
  · rfl

theorem read_performed_inside {m : List Host.Cell} {bytes : List Byte} {i : Nat} (ha : a.action = .write bytes)
    (hi : i < bytes.length) : Memory.read (a.performed m) (a.address + i) = bytes[i]? := by
  simp only [Access.performed, ha]
  exact read_write_inside hi

theorem performed_read {m : List Host.Cell} {n : Nat} (ha : a.action = .read n) : a.performed m = m := by
  simp only [Access.performed, ha]

/-- The oldest READY entry of a queue is WRITING once its write is granted. -/
theorem beginWriting_ready {record : Rec} {card sheet slot : Nat} {after : List QueueEntry} :
    ∀ {before : List QueueEntry}, (∀ e ∈ before, ∀ x n m p, e ≠ .ready x n m p) →
    beginWriting (before ++ .ready record card sheet slot :: after) =
      before ++ .writing record card sheet slot :: after
  | [], _ => rfl
  | e :: before, h => by
    have ih := beginWriting_ready (after := after) (record := record) (card := card) (sheet := sheet) (slot := slot)
      (before := before) fun e he => h e (List.mem_cons_of_mem _ he)
    cases e with
    | ready x n m p => exact absurd rfl (h _ List.mem_cons_self x n m p)
    | waiting x b => exact congrArg (List.cons _) ih
    | writing x n m p => exact congrArg (List.cons _) ih

/-- The flight of a state is another's, but for reads of the render that have been given up. -/
def RenderReadsGiven (s t : State) : Prop :=
  ∃ g : Access → Access, (∀ b, b.purpose.isRenderWrite = true → g b = b) ∧ t.engine.flight = s.engine.flight.map g

theorem RenderReadsGiven.of_flight (h : t.engine.flight = s.engine.flight) : RenderReadsGiven s t :=
  ⟨id, fun _ _ => rfl, by rw [h, List.map_id]⟩

theorem renderReadsGiven_drain {b : Bool} (h : t.engine.flight = s.engine.flight) :
    RenderReadsGiven s (t.drainRender b) := by
  unfold State.drainRender
  split
  · exact .of_flight h
  · refine ⟨_, fun e he => ?_, congrArg (List.map _) h⟩
    cases hp : e.purpose <;> simp_all [Purpose.isRenderWrite]

theorem sendFrame_flight {frame : Nat} : ∀ (l : List (Nat × List Byte)) (s : State),
    (State.sendFrame frame l s).engine.flight = s.engine.flight
  | [], _ => rfl
  | (_, _) :: rest, _ => sendFrame_flight rest _

theorem renderReadsGiven_handOn (s : State) : RenderReadsGiven s s.handOn := by
  unfold State.handOn
  split
  · exact .of_flight rfl
  · split
    · split
      · next samples rest _ =>
        unfold State.settleHanded
        split
        · exact .of_flight (sendFrame_flight _ _)
        · split
          · split
            · exact renderReadsGiven_drain (sendFrame_flight _ _)
            · split
              · exact renderReadsGiven_drain (sendFrame_flight _ _)
              · exact .of_flight (sendFrame_flight _ _)
          · exact .of_flight (sendFrame_flight _ _)
      · split
        · exact renderReadsGiven_drain rfl
        · exact .of_flight rfl
    · exact .of_flight rfl

theorem choose_keeps {e f : Engine} (h : e.choose = some (who, f)) :
    f.waiting = e.waiting ∧ f.flight = e.flight := by
  unfold Engine.choose at h
  simp only at h
  split at h
  · cases h; exact ⟨rfl, rfl⟩
  · cases h; exact ⟨rfl, rfl⟩
  · simp only [Option.some.injEq] at h
    split at h <;> cases h <;> exact ⟨rfl, rfl⟩
  · cases h

/-- A grant that adds an access, not a render frame's last write, to the flight is the grant of that access. -/
theorem grant_of_flight (hf : s.regs.part ≠ .faulted) (hfl : s.grant.engine.flight = s.engine.flight ++ [a])
    (hr : ∀ frame, a.purpose ≠ .renderWrite frame true) :
    ∃ e before after, s.grant = (s.moved e before a after).granted a := by
  have hshort : s.engine.flight ≠ s.engine.flight ++ [a] := fun h => by simpa using congrArg List.length h
  cases hc : s.engine.choose with
  | none => exact absurd ((congrArg (fun v : State => v.engine.flight) (grant_none hc)).symm.trans hfl) hshort
  | some p =>
    obtain ⟨who, e⟩ := p
    cases hh : headOf who e.waiting with
    | none =>
      have hsame : s.grant = s := by
        unfold State.grant
        rw [if_neg hf]
        simp only [hc, hh]
      rw [hsame] at hfl
      exact absurd hfl hshort
    | some q =>
      obtain ⟨before, b, after⟩ := q
      have hgrant := grant_some hf hc hh
      have hkept := (choose_keeps hc).2
      rw [hgrant] at hfl
      by_cases hb : ∃ frame, b.purpose = .renderWrite frame true
      · obtain ⟨frame, hb⟩ := hb
        rw [granted_render hb] at hfl
        obtain ⟨g, hg, hmap⟩ := renderReadsGiven_handOn
          ({ s.moved e before b after with written := b.performed s.written } : State)
        have hlast : [g b] = [a] := by
          have := hmap.symm.trans hfl
          rw [show ({ s.moved e before b after with written := b.performed s.written } : State).engine.flight =
            e.flight ++ [b] from rfl, List.map_append, hkept] at this
          exact (List.append_inj this (by simp)).2
        have hab : a = b := by
          rw [hg b (by rw [hb]; rfl)] at hlast
          exact (List.cons.inj hlast).1.symm
        exact absurd (hab ▸ hb) (hr frame)
      · rw [granted_frame fun frame he => hb ⟨frame, he⟩] at hfl
        have hab : b = a := by
          have : e.flight ++ [b] = s.engine.flight ++ [a] := hfl
          rw [hkept] at this
          exact (List.cons.inj (List.append_cancel_left this)).1
        exact ⟨e, before, after, hab ▸ hgrant⟩

/-! ### Writes in the order of their grants -/

theorem overlaid_later (a b : Access) : ∃ l, a.overlaid b = { a with later := l } := by
  unfold Access.overlaid
  split
  · split
    · exact ⟨_, rfl⟩
    · exact ⟨a.later, rfl⟩
  · exact ⟨a.later, rfl⟩

theorem under_later (after : List Access) : ∀ a : Access, ∃ l, a.under after = { a with later := l } := by
  unfold Access.under
  induction after with
  | nil => exact fun a => ⟨a.later, rfl⟩
  | cons b rest ih =>
    intro a
    obtain ⟨l, hl⟩ := overlaid_later a b
    obtain ⟨m, hm⟩ := ih (a.overlaid b)
    exact ⟨m, by rw [List.foldl_cons, hm, hl]⟩

/-- The accesses that complete with a requester's next report: its quiet ones, and the one they stand before. -/
theorem reported_eq {b : Access} {after : List Access} (hb : b.who = who) (hq : b.purpose.quiet = false) :
    ∀ {mid : List Access}, (∀ e ∈ mid, e.who = who → e.purpose.quiet = true) →
    reported who (mid ++ b :: after) = mid.filter (fun e => e.who = who) ++ [b]
  | [], _ => by simp [reported, hb, hq]
  | e :: mid, h => by
    have ih := reported_eq hb hq (after := after) fun x hx => h x (List.mem_cons_of_mem _ hx)
    rw [List.cons_append, reported]
    by_cases he : e.who = who
    · simp [he, h e List.mem_cons_self he, ih]
    · simp [he, ih]

theorem nextDue_own {b : Access} {after : List Access} (hb : b.who = who) (hq : b.purpose.quiet = false) :
    ∀ {mid : List Access}, (∀ e ∈ mid, e.who = who → e.purpose.quiet = true) →
    ∃ rest, nextDue who (mid ++ b :: after) = some (b, rest)
  | [], _ => ⟨after, by simp [nextDue, hb, hq]⟩
  | e :: mid, h => by
    obtain ⟨rest, hrest⟩ := nextDue_own hb hq (after := after) fun x hx => h x (List.mem_cons_of_mem _ hx)
    rw [List.cons_append, nextDue]
    by_cases he : e.who = who
    · exact ⟨rest, by simp [he, h e List.mem_cons_self he, hrest]⟩
    · exact ⟨_, by rw [if_neg he, hrest]; rfl⟩

/-- An access of another requester, granted before a report, stays in flight under what the report completes. -/
theorem nextDue_other {mid after : List Access} {b : Access} (ha : a.who ≠ who) (hb : b.who = who)
    (hq : b.purpose.quiet = false) : ∀ {before : List Access},
    (∀ e ∈ before ++ mid, e.who = who → e.purpose.quiet = true) →
    ∃ rest, nextDue who (before ++ a :: (mid ++ b :: after)) = some (b, rest) ∧
      a.under (mid.filter (fun e => e.who = who) ++ [b]) ∈ rest
  | [], h => by
    obtain ⟨rest, hrest⟩ := nextDue_own hb hq (mid := mid) (after := after) h
    refine ⟨_, by rw [List.nil_append, nextDue, if_neg ha, hrest]; rfl, ?_⟩
    rw [reported_eq hb hq (mid := mid) h]
    exact List.mem_cons_self
  | e :: before, h => by
    obtain ⟨rest, hrest, hmem⟩ := nextDue_other ha hb hq (mid := mid) (after := after) (before := before)
      fun x hx => h x (List.mem_cons_of_mem _ hx)
    rw [List.cons_append, nextDue]
    by_cases he : e.who = who
    · exact ⟨rest, by simp [he, h e List.mem_cons_self he, hrest], hmem⟩
    · exact ⟨_, by rw [if_neg he, hrest]; rfl, List.mem_cons_of_mem _ hmem⟩

theorem settledAt_iff {n : Nat} : a.settledAt n = true ↔ ∃ r ∈ a.later, r.1 ≤ n ∧ n < r.1 + r.2 := by
  simp [Access.settledAt]

/-- Settles O41: the access granted is told from the flight; the notes of an earlier write from the reports. -/
theorem grantedWriteReachesMemory : Obligations.GrantedWriteReachesMemory := by
  unfold Obligations.GrantedWriteReachesMemory
  intro s t a hf hexec hfl hr
  have ht : t = s.report s.grant := (Host.Outcome.next.inj hexec).symm
  rw [ht, report_frame] at hfl
  obtain ⟨e, before, after, hgrant⟩ := grant_of_flight hf hfl hr
  have hframe := granted_frame (s := s.moved e before a after) hr
  have hwritten : t.written = a.performed s.written := by
    rw [ht, report_frame, hgrant, hframe]
    rfl
  have hsame : (s.moved e before a after).reports = s.reports := rfl
  refine ⟨fun n hn => ?_, fun bytes ha i hi => ?_, fun n ha => ?_, fun c card sheet slot hw hp => ?_, fun hp => ?_, ?_⟩
  · rw [hwritten, read_performed_outside hn]
  · rw [hwritten, read_performed_inside ha hi]
  · rw [hwritten, performed_read ha]
  · rw [granted_record hw hp] at hgrant
    have hreports : s.grant.reports = s.reports := by
      rw [hgrant]
      refine (reports_setRow ?_).trans hsame
      rfl
    have hkeep : t = s.grant := by rw [ht, State.report, if_pos (Or.inl hreports)]
    rw [hkeep, hgrant]
    refine ⟨fun d hd => row_setRow_ne hd, rfl, fun before' record after' hq hno => ?_⟩
    refine row_setRow_self.trans ?_
    change { s.row c with queue := beginWriting (s.row c).queue } = _
    rw [hq, beginWriting_ready hno]
  · rw [granted_other hr hp] at hgrant
    have hkeep : t = s.grant := by rw [ht, State.report, if_pos (Or.inl (by rw [hgrant]; rfl))]
    rw [hkeep, hgrant]
    rfl
  · intro s who before mid after a b hflight ha hb hq hquiet
    obtain ⟨rest, hnext, hmem⟩ := nextDue_other (after := after) ha hb hq hquiet
    obtain ⟨later, hlater⟩ := under_later (mid.filter (fun e => e.who = who) ++ [b]) a
    refine ⟨rest, later, hflight ▸ hnext, hlater ▸ hmem, fun n hn => ?_⟩
    have hsettled := settledAt_under (after := mid.filter (fun e => e.who = who) ++ [b]) hn
    rw [hlater, settledAt_iff] at hsettled
    refine hsettled.trans (or_congr_right (exists_congr fun x => ?_))
    simp only [List.mem_append, List.mem_filter, List.mem_singleton, decide_eq_true_eq]
    constructor
    · rintro ⟨⟨hx, hw⟩ | rfl, hc⟩
      · exact ⟨Or.inl hx, hw, hc⟩
      · exact ⟨Or.inr rfl, hb, hc⟩
    · rintro ⟨hx | rfl, hw, hc⟩
      · exact ⟨Or.inl ⟨hx, hw⟩, hc⟩
      · exact ⟨Or.inr rfl, hc⟩

end Sys2Proof.Machine
end

section
/-! PROOFS. A failed access, and the return of the sheet stack. -/

namespace Sys2Proof.Machine

open Sys2Proof

variable {s t u : State} {who : Requester} {before after : List Access} {a : Access}

/-! ### A failed access -/

theorem covers_under {n : Nat} : (a.under after).covers n ↔ a.covers n := by
  obtain ⟨l, hl⟩ := under_later after a
  rw [hl]
  rfl

/-- Behind an access with a report of its own, an access cannot fail yet. -/
theorem nthDue_barred (h : ∃ b ∈ before, b.who = who ∧ b.purpose.quiet = false) :
    nthDue who (before.countP fun b => b.who = who) (before ++ after) = none := by
  induction before with
  | nil => simp at h
  | cons b rest ih =>
    rw [List.cons_append, nthDue.eq_def]
    by_cases hb : b.who = who
    · by_cases hq : b.purpose.quiet = true
      · have hrest : ∃ e ∈ rest, e.who = who ∧ e.purpose.quiet = false := by
          obtain ⟨e, he, hw, hn⟩ := h
          rcases List.mem_cons.1 he with rfl | he
          · rw [hq] at hn; cases hn
          · exact ⟨e, he, hw, hn⟩
        simp [hb, hq, ih hrest]
      · simp [hb, hq]
    · have hrest : ∃ e ∈ rest, e.who = who ∧ e.purpose.quiet = false := by
        obtain ⟨e, he, hw, hn⟩ := h
        rcases List.mem_cons.1 he with rfl | he
        · exact absurd hw hb
        · exact ⟨e, he, hw, hn⟩
      simp [hb, ih hrest]

/-- The access at its place among its requester's granted ones, those before it quiet, with what stays in flight. -/
theorem nthDue_eq (ha : a.who = who) (hr : a.purpose.isRenderWrite = false) :
    ∀ {before : List Access}, (∀ b ∈ before, b.who = who → b.purpose.quiet = true) →
    ∃ left, nthDue who (before.countP fun b => b.who = who) (before ++ a :: after) =
        some (a.under after, left ++ after) ∧
      left.map (fun b => { b with later := [] }) =
        (before.filter fun b => b.who ≠ who).map fun b => { b with later := [] }
  | [], _ => ⟨[], by simp [nthDue, ha, hr], rfl⟩
  | b :: rest, h => by
    obtain ⟨left, hnext, hleft⟩ := nthDue_eq ha hr (before := rest) fun e he => h e (List.mem_cons_of_mem _ he)
    rw [List.cons_append, nthDue.eq_def]
    by_cases hb : b.who = who
    · exact ⟨left, by simp [hb, h b List.mem_cons_self hb, hnext], by simp [hb, hleft]⟩
    · obtain ⟨l, hl⟩ := under_later
        (((rest ++ a :: after).filter fun e => e.who == who).take (rest.countP fun b => b.who = who)) b
      refine ⟨{ b with later := l } :: left, ?_, by simp [hb, hleft]⟩
      rw [List.countP_cons_of_neg (by simpa using hb)]
      simp only [if_neg hb, hnext, ← hl]
      rfl

/-- Settles O42: the access told from its place, FAULTED from its purpose, and the bytes from what stands over it. -/
theorem failureFaultsThePart : Obligations.FailureFaultsThePart := by
  unfold Obligations.FailureFaultsThePart
  intro s who before after a hflight hwho hr hpart place area
  have hactive : ∀ l m, ({ s with engine := { s.engine with flight := l }, written := m } : State).active = true :=
    fun _ _ => active_iff.2 hpart
  refine ⟨fun hbar => ?_, fun hquiet => ?_⟩
  · have hnone := nthDue_barred (after := a :: after) hbar
    have hfail : s.fail who place = s := by
      rw [State.fail, hflight]
      simp only [place, hnone]
    change done s (s.fail who place) = _
    rw [hfail]
    exact done_same rfl
  · obtain ⟨left, hnext, hleft⟩ := nthDue_eq (after := after) hwho (by
      cases hp : a.purpose <;> simp_all [Purpose.isRenderWrite]) hquiet
    obtain ⟨l, hl⟩ := under_later after a
    have hpurpose : (a.under after).purpose = a.purpose := by rw [hl]
    have hwrites : (a.under after).isWrite = a.isWrite := by rw [hl]; rfl
    let b := a.under after
    let v : State := { s with
      engine := { s.engine with flight := left ++ after }, written := forgetFlight s.written [b] }
    have hfail : s.fail who place = v.enterFaulted (if a.isWrite then .write else .read) a.purpose.area 0 := by
      rw [State.fail, hflight]
      simp only [place, hnext]
      rw [if_pos (hactive _ _), hwrites, hpurpose]
    have hkind : (if a.isWrite then FaultKind.write else .read) = match a.action with
        | .write _ => FaultKind.write
        | .read _ => .read := by
      cases ha : a.action <;> simp [Access.isWrite, ha]
    have harea : a.purpose.area = area := by
      simp only [area]
      cases a.purpose <;> rfl
    refine ⟨s.fail who place, done_same (by rw [hfail, reports_enterFaulted]; rfl), ?_⟩
    rw [hfail]
    refine ⟨?_, ⟨left, rfl, hleft⟩, ?_, rfl, fun c => ?_, ?_⟩
    · rw [harea, hkind]
      rfl
    · change s.msi + flagCode s.regs.intEnable = _
      cases s.regs.intEnable <;> rfl
    · exact row_mapRows
    intro stands
    have hstands : ∀ n, a.covers n → (b.settledAt n = true ↔ stands n) := fun n hn => settledAt_under hn
    have hread := fun n => read_forgetFlight_one s.written b n
    refine ⟨fun n hn hs => ?_, fun n hn => ?_, rfl⟩
    · exact (hread n).2 (covers_under.2 hn) (Bool.eq_false_iff.2 fun h => hs ((hstands n hn).1 h))
    · refine (hread n).1 fun hc => ?_
      have hcov := covers_under.1 hc
      exact (hstands n hcov).2 (hn.resolve_left (not_not.2 hcov))

/-! ### The stack return -/

theorem all_rows {p : ChanRow → Bool} : s.chans.toList.all p = true ↔ ∀ c : Chan, p (s.row c) = true := by
  simp only [List.all_eq_true, Vector.mem_toList_iff, Vector.mem_iff_getElem]
  constructor
  · exact fun h c => h _ ⟨c.val, c.isLt, rfl⟩
  · rintro h r ⟨i, hi, rfl⟩
    exact h ⟨i, hi⟩

theorem returnConditions_iff : s.returnConditions = true ↔ s.cards.openQueue = [] ∧ s.cards.search = none ∧
    ∀ c : Chan, s.chanState c = .unbound ∧ (s.row c).op = none ∧ (s.row c).discards = [] := by
  rw [State.returnConditions, Bool.and_eq_true, Bool.and_eq_true, all_rows, and_assoc]
  simp [State.chanState, and_assoc]

/-- Sheets returned one by one: the FREE entries handed over in order, and the tally up by one for each. -/
theorem returnFold_leaves : ∀ (l : List Nat) (s : State), s.sheets.tally ≤ s.setup.sheetCount →
    (∃ x hold, (l.foldl State.returnOne s).sheets = { s.sheets with
      stack := x, tally := min (s.sheets.tally + l.length) s.setup.sheetCount, hold := hold }) ∧
    HandedOver s (l.foldl State.returnOne s) (l.map fun n => mapWriteOf s.setup .sheetManager .mapWrite n 0 0) ∧
    l.foldl State.returnOne s = { s with
      sheets := (l.foldl State.returnOne s).sheets, engine := (l.foldl State.returnOne s).engine }
  | [], s, h => by
    refine ⟨⟨s.sheets.stack, s.sheets.hold, ?_⟩, HandedOver.refl s, rfl⟩
    rw [List.length_nil, Nat.add_zero, Nat.min_eq_left h]
    rfl
  | n :: rest, s, h => by
    have hone : s.returnOne n = { s with
        sheets := (s.returnOne n).sheets,
        engine := { s.engine with
          waiting := s.engine.waiting ++ [mapWriteOf s.setup .sheetManager .mapWrite n 0 0] } } := by
      rw [State.returnOne, raiseTally_eq]
      rfl
    have hsheets : ∃ x hold, (s.returnOne n).sheets = { s.sheets with
        stack := x, tally := min (s.sheets.tally + 1) s.setup.sheetCount, hold := hold } := by
      rw [State.returnOne, raiseTally_eq]
      exact ⟨_, _, rfl⟩
    obtain ⟨x, hold, hsheets⟩ := hsheets
    have hsetup : (s.returnOne n).setup = s.setup := by rw [hone]
    obtain ⟨⟨y, hold', hy⟩, hover, hframe⟩ := returnFold_leaves rest (s.returnOne n) (by
      rw [hsheets, hsetup]
      exact Nat.min_le_right _ _)
    rw [List.foldl_cons]
    refine ⟨⟨y, hold', ?_⟩, ?_, ?_⟩
    · rw [hy, hsheets, hsetup, List.length_cons]
      simp only [SheetManager.mk.injEq, true_and, and_true]
      omega
    · have hfirst : HandedOver s (s.returnOne n) [mapWriteOf s.setup .sheetManager .mapWrite n 0 0] := by
        rw [HandedOver, hone]
      exact hfirst.trans (hsetup ▸ hover)
    · rw [hframe, hone]

/-- Settles O45: the fold over the stack, where it is due. -/
theorem stackReturnFreesTheStack : Obligations.StackReturnFreesTheStack := by
  unfold Obligations.StackReturnFreesTheStack
  intro s settled
  have hsettled : settled ↔ s.returnConditions = true ∧ s.sheets.scan = .idle := by
    rw [returnConditions_iff]
    exact ⟨fun ⟨a, b, c, d⟩ => ⟨⟨a, b, d⟩, c⟩, fun ⟨⟨a, b, d⟩, c⟩ => ⟨a, b, c, d⟩⟩
  constructor
  · intro hpart hset hreturned htally
    obtain ⟨hconditions, hscan⟩ := hsettled.1 hset
    have hstep : exec .stackReturn s = done s s.returnStack :=
      congrArg (done s) (if_pos ⟨hpart, hconditions, hscan, by simp [hreturned]⟩)
    obtain ⟨⟨x, hold, hsheets⟩, hover, hframe⟩ := returnFold_leaves s.sheets.stack s htally
    obtain ⟨d, hd, hrep⟩ := done_desk (s := s) (u := s.returnStack)
      (by rw [State.returnStack, hframe]; simp [hpart]) (by rw [State.returnStack, hframe])
    refine ⟨_, hstep.trans hd, rfl, rfl, ?_, ?_, ?_, hover, hrep, ?_⟩
    · exact (congrArg SheetManager.tally hsheets).trans rfl
    · exact (congrArg SheetManager.scan hsheets).trans hscan
    · exact (congrArg SheetManager.waiting hsheets).trans rfl
    · rw [State.returnStack, hframe]
  · intro h
    have hstep : exec .stackReturn s = done s s := by
      refine congrArg (done s) (if_neg ?_)
      rintro ⟨hpart, hconditions, hscan, hreturned⟩
      rcases h with h | h | h
      · exact h hpart
      · exact h (hsettled.2 ⟨hconditions, hscan⟩)
      · exact hreturned h
    rw [hstep]
    exact done_same rfl

end Sys2Proof.Machine
end

section
/-! PROOFS. Bytes of the exchange formats, and the desk block as it is sampled. -/

namespace Sys2Proof.Machine

open Sys2Proof

variable {s t u : State}

/-! ### Bytes and fields -/

theorem length_bytesOf : ∀ w v : Nat, (bytesOf w v).length = w
  | 0, _ => rfl
  | w + 1, v => congrArg (· + 1) (length_bytesOf w (v / 256))

theorem byteAt_cons (b : Byte) (l : List Byte) (i : Nat) : byteAt (b :: l) (i + 1) = byteAt l i := rfl

theorem fieldAt_cons (b : Byte) (l : List Byte) : ∀ w i : Nat, fieldAt (b :: l) (i + 1) w = fieldAt l i w
  | 0, _ => rfl
  | w + 1, i => by rw [fieldAt, fieldAt, byteAt_cons, fieldAt_cons b l w (i + 1)]

theorem fieldAt_bytesOf : ∀ w v : Nat, fieldAt (bytesOf w v) 0 w = v % 256 ^ w
  | 0, v => by simp [fieldAt, Nat.mod_one]
  | w + 1, v => by
    rw [bytesOf, fieldAt, fieldAt_cons, fieldAt_bytesOf w, Nat.pow_succ, Nat.mul_comm (256 ^ w), Nat.mod_mul]
    rfl

theorem fieldAt_congr {a b : List Byte} : ∀ {w i k : Nat}, (∀ j, j < w → byteAt a (i + j) = byteAt b (k + j)) →
    fieldAt a i w = fieldAt b k w
  | 0, _, _, _ => rfl
  | w + 1, i, k, h => by
    have hrest : fieldAt a (i + 1) w = fieldAt b (k + 1) w := fieldAt_congr fun j hj => by
      rw [show i + 1 + j = i + (j + 1) by omega, show k + 1 + j = k + (j + 1) by omega]
      exact h (j + 1) (by omega)
    rw [fieldAt, fieldAt, hrest, show byteAt a i = byteAt b k from h 0 (by omega)]

theorem byteAt_append_left {a b : List Byte} {i : Nat} (h : i < a.length) : byteAt (a ++ b) i = byteAt a i := by
  simp [byteAt, List.getElem?_append_left h]

theorem byteAt_append_right {a b : List Byte} {i : Nat} (h : a.length ≤ i) :
    byteAt (a ++ b) i = byteAt b (i - a.length) := by
  simp [byteAt, List.getElem?_append_right h]

/-- A field that fills the front of a list. -/
theorem fieldAt_append_left {a b : List Byte} {w : Nat} (h : a.length = w) : fieldAt (a ++ b) 0 w = fieldAt a 0 w :=
  fieldAt_congr fun j hj => byteAt_append_left (by omega)

/-- A field behind a list in front, by the length of that list. -/
theorem fieldAt_append_right {a b : List Byte} {n w : Nat} (h : a.length = n) (i : Nat) :
    fieldAt (a ++ b) (n + i) w = fieldAt b i w :=
  fieldAt_congr fun j _ => by
    rw [byteAt_append_right (by omega), show n + i + j - a.length = i + j by omega]

theorem byteAt_zeroBytes (n i : Nat) : byteAt (zeroBytes n) i = 0 := by
  simp only [byteAt, zeroBytes, List.getD_eq_getElem?_getD, List.getElem?_replicate]
  split <;> rfl

theorem byteAt_drop (l : List Byte) (n i : Nat) : byteAt (l.drop n) i = byteAt l (n + i) := by
  simp [byteAt]

theorem byteAt_take {l : List Byte} {n i : Nat} (h : i < n) : byteAt (l.take n) i = byteAt l i := by
  simp [byteAt, h]

/-- A byte of a list of entries of one length, told from the entry it lies in. -/
theorem byteAt_flatten {w : Nat} : ∀ {l : List (List Byte)} {i j : Nat} {e : List Byte},
    (∀ x ∈ l, x.length = w) → l[i]? = some e → j < w → byteAt l.flatten (w * i + j) = byteAt e j
  | _ :: rest, 0, j, e, hl, he, hj => by
    cases he
    rw [List.flatten_cons, Nat.mul_zero, Nat.zero_add, byteAt_append_left (by rw [hl _ List.mem_cons_self]; exact hj)]
  | x :: rest, i + 1, j, e, hl, he, hj => by
    have hx : x.length = w := hl x List.mem_cons_self
    rw [List.flatten_cons, byteAt_append_right (by rw [hx, Nat.mul_succ]; omega), hx,
      show w * (i + 1) + j - w = w * i + j by rw [Nat.mul_succ]; omega]
    exact byteAt_flatten (fun y hy => hl y (List.mem_cons_of_mem _ hy)) he hj

theorem length_flatten {w : Nat} : ∀ {l : List (List Byte)}, (∀ x ∈ l, x.length = w) → l.flatten.length = w * l.length
  | [], _ => rfl
  | x :: rest, h => by
    rw [List.flatten_cons, List.length_append, h x List.mem_cons_self,
      length_flatten fun y hy => h y (List.mem_cons_of_mem _ hy), List.length_cons, Nat.mul_succ, Nat.add_comm]

theorem length_pieces {α : Type} (size : Nat) : ∀ (n : Nat) (l : List α), (pieces size n l).length = n
  | 0, _ => rfl
  | n + 1, _ => congrArg (· + 1) (length_pieces size n _)

theorem pieces_getElem? {α : Type} (size : Nat) : ∀ {n : Nat} {l : List α} {i : Nat}, i < n →
    (pieces size n l)[i]? = some ((l.drop (size * i)).take size)
  | n + 1, _, 0, _ => by simp [pieces]
  | n + 1, l, i + 1, h => by
    rw [pieces, List.getElem?_cons_succ, pieces_getElem? size (by omega), List.drop_drop, Nat.mul_succ, Nat.add_comm]

/-! ### The sampled block (R160) -/

theorem length_statusEntry (c : Chan) : (statusEntry s c).length = 16 := by
  simp [statusEntry, length_bytesOf, zeroBytes]

theorem length_rollBytes (e : RollEntry) : (rollBytes e).length = 8 := by
  simp [rollBytes, length_bytesOf, zeroBytes]

/-- The bytes behind the header: the roll filled up with zero entries, then the channels. -/
def bodyBytes (s : State) : List Byte :=
  (s.cards.roll.map rollBytes).flatten ++ zeroBytes (8 * (16 - s.cards.roll.length)) ++
    ((List.finRange 32).map (statusEntry s)).flatten

theorem length_roll : ((s.cards.roll.map rollBytes).flatten).length = 8 * s.cards.roll.length := by
  rw [length_flatten (w := 8) fun x hx => by
    obtain ⟨e, -, rfl⟩ := List.mem_map.1 hx
    exact length_rollBytes e, List.length_map]

theorem length_status : (((List.finRange 32).map (statusEntry s)).flatten).length = 512 := by
  rw [length_flatten (w := 16) fun x hx => by
    obtain ⟨c, -, rfl⟩ := List.mem_map.1 hx
    exact length_statusEntry c, List.length_map, List.length_finRange]

theorem length_bodyBytes (h : s.cards.roll.length ≤ 16) : (bodyBytes s).length = 640 := by
  rw [bodyBytes, List.length_append, List.length_append, length_roll, length_status, zeroBytes, List.length_replicate]
  omega

theorem byteAt_roll {e : RollEntry} {i j : Nat} (he : s.cards.roll[i]? = some e) (hj : j < 8) :
    byteAt (bodyBytes s) (8 * i + j) = byteAt (rollBytes e) j := by
  have hi : i < s.cards.roll.length := (List.getElem?_eq_some_iff.1 he).1
  rw [bodyBytes, List.append_assoc, byteAt_append_left (by rw [length_roll]; omega)]
  exact byteAt_flatten (w := 8) (fun x hx => by
    obtain ⟨e, -, rfl⟩ := List.mem_map.1 hx
    exact length_rollBytes e) (by rw [List.getElem?_map, he]; rfl) hj

theorem byteAt_pastRoll {n : Nat} (hn : 8 * s.cards.roll.length ≤ n) (h : n < 128) : byteAt (bodyBytes s) n = 0 := by
  rw [bodyBytes, List.append_assoc, byteAt_append_right (by rw [length_roll]; omega), length_roll,
    byteAt_append_left (by simp [zeroBytes]; omega), byteAt_zeroBytes]

theorem byteAt_status (h : s.cards.roll.length ≤ 16) (c : Chan) {j : Nat} (hj : j < 16) :
    byteAt (bodyBytes s) (128 + 16 * c.val + j) = byteAt (statusEntry s c) j := by
  have hlen : ((s.cards.roll.map rollBytes).flatten ++ zeroBytes (8 * (16 - s.cards.roll.length))).length = 128 := by
    rw [List.length_append, length_roll, zeroBytes, List.length_replicate]
    omega
  rw [bodyBytes, byteAt_append_right (by rw [hlen]; omega), hlen,
    show 128 + 16 * c.val + j - 128 = 16 * c.val + j by omega]
  exact byteAt_flatten (w := 16) (fun x hx => by
    obtain ⟨c, -, rfl⟩ := List.mem_map.1 hx
    exact length_statusEntry c) (by simp) hj

/-- Line 1 + n of the sampled block holds the bytes from 64 times n on. -/
theorem deskLine_bytes {g : Word} {n : Nat} (hn : n < 10) : ∃ line,
    (deskLines s g)[1 + n]? = some line ∧ ∀ j, j < 64 → byteAt line j = byteAt (bodyBytes s) (64 * n + j) := by
  refine ⟨((bodyBytes s).drop (64 * n)).take 64, ?_, fun j hj => ?_⟩
  · rw [deskLines, Nat.add_comm, List.getElem?_cons_succ]
    exact pieces_getElem? 64 hn
  · rw [byteAt_take hj, byteAt_drop]

theorem flagBits_eq (x : Context) : modeFlags x = flagBits x := by
  have hurgent : flagCode (urgentFlag x) = if x.letter.map OpenLetter.priority = some .urgent then 1 else 0 := by
    unfold urgentFlag
    cases hl : x.letter with
    | none => rfl
    | some l => cases hp : l.priority <;> simp [flagCode, hp]
  rw [modeFlags, flagBits, hurgent]
  cases x.insert <;> cases x.instruct <;> split <;> rfl

theorem noticeByte_eq (x : Context) : noticeByte x = noticeShown x := by
  unfold noticeByte noticeShown
  cases x.host with
  | some h => rfl
  | none =>
    cases x.transient with
    | none => rfl
    | some p =>
      obtain ⟨n, m⟩ := p
      cases n <;> rfl

theorem length_deskHeader (g : Word) : (deskHeader s g).length = 64 := by
  simp [deskHeader, length_bytesOf, zeroBytes]

theorem mod_word (w : Word) : w.toNat % 256 ^ 4 = w.toNat := Nat.mod_eq_of_lt w.isLt

/-- The generations that open and close line 0, and the bytes between its counts and the second (12.2). -/
theorem deskHeader_generations (g : Word) : fieldAt (deskHeader s g) 0 4 = g.toNat ∧
    fieldAt (deskHeader s g) 60 4 = g.toNat ∧ ∀ i, 20 ≤ i → i < 60 → byteAt (deskHeader s g) i = 0 := by
  have hgeneration : fieldAt (bytesOf 4 g.toNat) 0 4 = g.toNat := (fieldAt_bytesOf 4 _).trans (mod_word g)
  refine ⟨hgeneration, hgeneration, fun i h20 h60 => ?_⟩
  have hfront : deskHeader s g = (bytesOf 4 g.toNat ++ bytesOf 1 s.regs.part.code ++
      bytesOf 1 (flagCode s.sheets.hold) ++ bytesOf 1 s.sheets.stack.length ++ bytesOf 1 s.cards.roll.length ++
      bytesOf 4 s.sheets.tally ++ bytesOf 4 s.orders.finishedCount.toNat ++ bytesOf 4 s.cards.sequence) ++
      (zeroBytes 40 ++ bytesOf 4 g.toNat) := by simp [deskHeader]
  rw [hfront, byteAt_append_right (by simpa [length_bytesOf] using h20),
    byteAt_append_left (by simp [length_bytesOf, zeroBytes]; omega), byteAt_zeroBytes]

/-- The four bytes of line 0 behind its generation (12.2). -/
theorem deskHeader_bytes (g : Word) : byteAt (deskHeader s g) 4 = s.regs.part.code % 2 ^ 8 ∧
    byteAt (deskHeader s g) 5 = flagCode s.sheets.hold % 2 ^ 8 ∧
    byteAt (deskHeader s g) 6 = s.sheets.stack.length % 2 ^ 8 ∧
    byteAt (deskHeader s g) 7 = s.cards.roll.length % 2 ^ 8 := ⟨rfl, rfl, rfl, rfl⟩

/-- The counts of line 0 (12.2). -/
theorem deskHeader_counts (g : Word) : fieldAt (deskHeader s g) 8 4 = s.sheets.tally % 2 ^ 32 ∧
    fieldAt (deskHeader s g) 12 4 = s.orders.finishedCount.toNat ∧
    fieldAt (deskHeader s g) 16 4 = s.cards.sequence % 2 ^ 32 := by
  have hfields : deskHeader s g = (bytesOf 4 g.toNat ++ (bytesOf 1 s.regs.part.code ++
      bytesOf 1 (flagCode s.sheets.hold) ++ bytesOf 1 s.sheets.stack.length ++ bytesOf 1 s.cards.roll.length)) ++
      (bytesOf 4 s.sheets.tally ++ (bytesOf 4 s.orders.finishedCount.toNat ++ (bytesOf 4 s.cards.sequence ++
        (zeroBytes 40 ++ bytesOf 4 g.toNat)))) := by simp [deskHeader]
  have hfront : (bytesOf 4 g.toNat ++ (bytesOf 1 s.regs.part.code ++ bytesOf 1 (flagCode s.sheets.hold) ++
      bytesOf 1 s.sheets.stack.length ++ bytesOf 1 s.cards.roll.length)).length = 8 := by simp [length_bytesOf]
  have hlen : ∀ v, (bytesOf 4 v).length = 4 := length_bytesOf 4
  have hword : ∀ v rest, fieldAt (bytesOf 4 v ++ rest) 0 4 = v % 256 ^ 4 := fun v rest =>
    (fieldAt_append_left (hlen v)).trans (fieldAt_bytesOf 4 v)
  rw [hfields]
  refine ⟨?_, ?_, ?_⟩
  · exact (fieldAt_append_right hfront 0).trans (hword _ _)
  · exact (fieldAt_append_right hfront 4).trans ((fieldAt_append_right (hlen _) 0).trans
      ((hword _ _).trans (mod_word _)))
  · exact (fieldAt_append_right hfront 8).trans ((fieldAt_append_right (hlen _) 4).trans
      ((fieldAt_append_right (hlen _) 0).trans (hword _ _)))

/-- The fields of a roll entry (12.2). -/
theorem rollBytes_fields (e : RollEntry) : fieldAt (rollBytes e) 0 2 = e.card % 2 ^ 16 ∧
    byteAt (rollBytes e) 2 = (match e.priority with | .routine => 0 | .urgent => 1) ∧ byteAt (rollBytes e) 3 = 0 ∧
    fieldAt (rollBytes e) 4 4 = e.sequence % 2 ^ 32 := by
  refine ⟨fieldAt_bytesOf 2 e.card, ?_, rfl, fieldAt_bytesOf 4 e.sequence⟩
  change e.priority.code % 256 = _
  cases e.priority <;> rfl

/-- The fields of a status entry (12.2). -/
theorem statusEntry_fields (c : Chan) :
    let x := (s.row c).ctx
    let e := statusEntry s c
    byteAt e 0 = (match x.state with
      | .unbound => 0 | .idle => 1 | .ready => 2 | .recording => 3 | .playing => 4 | .busy _ => 5) ∧
    byteAt e 1 = (match x.state with
      | .busy .saving => 1 | .busy .filing => 2 | .busy .loading => 3 | .busy .closing => 4
      | _ => 0) ∧
    byteAt e 2 = (match x.inSlot.bind fun k => s.inputs[k].line with
      | none => 0 | some .down => 1 | some .settling => 2 | some .up => 3) ∧
    byteAt e 3 = flagBits x ∧ byteAt e 4 = noticeShown x % 2 ^ 8 ∧ byteAt e 5 = 0 ∧
    fieldAt e 6 2 = (match x.letter with | none => 0xFFFF | some l => l.card % 2 ^ 16) ∧
    fieldAt e 8 4 = (if x.letter = none then 0 else x.cursor % 2 ^ 32) ∧
    fieldAt e 12 4 = (if x.letter = none then 0 else (s.row c).length % 2 ^ 32) := by
  intro x e
  refine ⟨?_, ?_, ?_, ?_, ?_, rfl, ?_, ?_, ?_⟩
  · change x.state.code % 256 = _
    cases x.state <;> rfl
  · change x.state.subCode % 256 = _
    cases x.state with
    | busy sub => cases sub <;> rfl
    | _ => rfl
  · change lineCode (s.lineOf c) % 256 = _
    have hline : s.lineOf c = x.inSlot.bind fun k => s.inputs[k].line := by
      unfold State.lineOf
      cases (s.row c).ctx.inSlot <;> rfl
    rw [hline]
    cases x.inSlot.bind fun k => s.inputs[k].line with
    | none => rfl
    | some l => cases l <;> rfl
  · change modeFlags x % 256 = _
    rw [flagBits_eq, Nat.mod_eq_of_lt]
    unfold flagBits
    split <;> split <;> split <;> decide
  · exact congrArg (· % 2 ^ 8) (noticeByte_eq x)
  · refine (fieldAt_bytesOf 2 ((x.letter.map OpenLetter.card).getD 0xFFFF)).trans ?_
    cases x.letter <;> rfl
  · refine (fieldAt_bytesOf 4 (if x.letter.isSome then x.cursor else 0)).trans ?_
    cases x.letter <;> rfl
  · refine (fieldAt_bytesOf 4 (panelLength (s.row c))).trans ?_
    rw [panelLength]
    change (if x.letter.isSome = true then _ else _) % 256 ^ 4 = _
    cases x.letter <;> rfl

/-- The body writes handed over in ascending order, the last one marked. -/
theorem sendBody_handsOver : ∀ (n line : Nat) (s : State),
    HandedOver s (State.sendBody n line s) ((List.range n).map fun i => writeOf .deskUnit (.deskBody (i + 1 == n))
      ((s.base + (0x100 + 64 * (line + i))) % 2 ^ 64) (s.desk.lines.getD (line + i) [])) ∧
    State.sendBody n line s = { s with engine := (State.sendBody n line s).engine }
  | 0, line, s => ⟨HandedOver.refl s, rfl⟩
  | n + 1, line, s => by
    let u := s.sendDesk (.deskBody (n == 0)) line (s.desk.lines.getD line [])
    obtain ⟨hover, hframe⟩ := sendBody_handsOver n (line + 1) u
    refine ⟨?_, hframe.trans rfl⟩
    have hfirst : HandedOver s u [writeOf .deskUnit (.deskBody (n == 0))
        ((s.base + (0x100 + 64 * line)) % 2 ^ 64) (s.desk.lines.getD line [])] := rfl
    rw [List.range_succ_eq_map, List.map_cons, List.map_map]
    refine (congrArg (HandedOver s _) ?_).mpr (hfirst.trans hover)
    refine congrArg₂ List.cons ?_ (List.map_congr_left fun i _ => ?_)
    · cases n <;> rfl
    · simp only [Function.comp_apply, show line + (i + 1) = line + 1 + i by omega, show (i + 1 + 1 == n + 1) = (i + 1 == n) by simp]
      rfl

end Sys2Proof.Machine
end

section
/-! PROOFS. The desk write: its sampling and its three parts, what its completion ends, and the end of quiesce. -/

namespace Sys2Proof.Machine

open Sys2Proof

variable {s t u : State}

/-! ### Sampling -/

theorem part_code (p : PartState) : p.code % 2 ^ 8 = match p with
    | .disabled => 0 | .starting => 1 | .running => 2 | .quiescing => 3 | .faulted => 4 := by
  cases p <;> rfl

theorem flagCode_byte (b : Bool) : flagCode b % 2 ^ 8 = if b = true then 1 else 0 := by
  cases b <;> rfl

theorem length_deskLines (g : Word) (h : s.cards.roll.length ≤ 16) :
    (deskLines s g).length = 11 ∧ ∀ l ∈ deskLines s g, l.length = 64 := by
  refine ⟨congrArg (· + 1) (length_pieces 64 10 _), fun l hl => ?_⟩
  rcases List.mem_cons.1 hl with rfl | hl
  · exact length_deskHeader g
  · obtain ⟨i, hi, rfl⟩ := List.mem_iff_getElem.1 hl
    have hi10 : i < 10 := by rwa [deskBodyLines, length_pieces] at hi
    obtain ⟨_, hpiece⟩ := List.getElem?_eq_some_iff.1 (pieces_getElem? 64 (l := bodyBytes s) hi10)
    refine (congrArg List.length hpiece).trans ?_
    rw [List.length_take, List.length_drop, length_bodyBytes h]
    omega

/-- The line of a roll entry, and of the place of one that is not there. -/
theorem deskLines_roll (g : Word) {i : Nat} (hi : i < 16) : ∃ line,
    (deskLines s g)[1 + i / 8]? = some line ∧
    (∀ e, s.cards.roll[i]? = some e → fieldAt line (8 * (i % 8)) 2 = e.card % 2 ^ 16 ∧
      byteAt line (8 * (i % 8) + 2) = (match e.priority with | .routine => 0 | .urgent => 1) ∧
      byteAt line (8 * (i % 8) + 3) = 0 ∧
      fieldAt line (8 * (i % 8) + 4) 4 = e.sequence % 2 ^ 32) ∧
    (s.cards.roll.length ≤ i → ∀ j, j < 8 → byteAt line (8 * (i % 8) + j) = 0) := by
  obtain ⟨line, hline, hbyte⟩ := deskLine_bytes (s := s) (g := g) (n := i / 8) (by omega)
  have hplace : ∀ j, j < 8 → byteAt line (8 * (i % 8) + j) = byteAt (bodyBytes s) (8 * i + j) := fun j hj => by
    rw [hbyte _ (by omega)]
    congr 1
    omega
  refine ⟨line, hline, fun e he => ?_, fun hlen j hj => ?_⟩
  · have hentry : ∀ j, j < 8 → byteAt line (8 * (i % 8) + j) = byteAt (rollBytes e) j := fun j hj =>
      (hplace j hj).trans (byteAt_roll he hj)
    obtain ⟨hcard, hpriority, hzero, hsequence⟩ := rollBytes_fields e
    refine ⟨?_, (hentry 2 (by omega)).trans hpriority, (hentry 3 (by omega)).trans hzero, ?_⟩
    · rw [← hcard]
      exact fieldAt_congr fun j hj => (hentry j (by omega)).trans (by rw [Nat.zero_add])
    · rw [← hsequence]
      exact fieldAt_congr fun j hj => (congrArg _ (by omega)).trans (hentry (4 + j) (by omega))
  · rw [hplace j hj]
    exact byteAt_pastRoll (by omega) (by omega)

/-- The line of a channel, byte by byte. -/
theorem deskLines_status (g : Word) (h : s.cards.roll.length ≤ 16) (c : Chan) : ∃ line,
    (deskLines s g)[3 + c.val / 4]? = some line ∧
    ∀ j, j < 16 → byteAt line (16 * (c.val % 4) + j) = byteAt (statusEntry s c) j := by
  obtain ⟨line, hline, hbyte⟩ := deskLine_bytes (s := s) (g := g) (n := 2 + c.val / 4) (by omega)
  refine ⟨line, by rw [← hline]; congr 1; omega, fun j hj => ?_⟩
  rw [hbyte _ (by omega), ← byteAt_status h c hj]
  congr 1
  omega

/-- Lines 1 on of the sampled block, handed over in ascending order, the last one marked. -/
theorem sendBody_first (n : Nat) (s : State) : HandedOver s (State.sendBody (n + 1) 1 s)
    ((List.range (n + 1)).map fun i => writeOf .deskUnit (.deskBody (i == n))
      ((s.base + (0x100 + 64 * (i + 1))) % 2 ^ 64) (s.desk.lines.getD (i + 1) [])) := by
  have hfun : (fun i => writeOf .deskUnit (.deskBody (i == n)) ((s.base + (0x100 + 64 * (i + 1))) % 2 ^ 64)
      (s.desk.lines.getD (i + 1) [])) = fun i => writeOf .deskUnit (.deskBody (i + 1 == n + 1))
        ((s.base + (0x100 + 64 * (1 + i))) % 2 ^ 64) (s.desk.lines.getD (1 + i) []) := by
    funext i
    rw [Nat.add_comm 1 i, show (i + 1 == n + 1) = (i == n) by simp]
  rw [hfun]
  exact (sendBody_handsOver (n + 1) 1 s).1

theorem exec_deskWriteBegin (h : s.active = true) (hr : s.desk.requested = true) (hw : s.desk.writing = false) :
    exec .deskWriteBegin s = .next s.sample :=
  congrArg _ (if_pos ⟨h, hr, by simp [hw]⟩)

/-- Settles O55: the sampled lines field by field, then the three parts in order. -/
theorem deskWriteSamplesAndWrites : Obligations.DeskWriteSamplesAndWrites := by
  unfold Obligations.DeskWriteSamplesAndWrites
  refine ⟨fun s hpart hr hw => ?_, fun s a rest hdue => ⟨fun hp => ?_, fun hp => ?_⟩⟩
  · intro g
    refine ⟨s.sample, deskLines s g, exec_deskWriteBegin (active_iff.2 hpart) hr hw, rfl, rfl, ?_, fun hroll => ?_⟩
    · obtain ⟨hopen, hclose, hzero⟩ := deskHeader_generations (s := s) g
      obtain ⟨hstate, hhold, hstack, hlen⟩ := deskHeader_bytes (s := s) g
      obtain ⟨htally, hcount, hsequence⟩ := deskHeader_counts (s := s) g
      exact ⟨_, rfl, hopen, hclose, hstate.trans (part_code _), hhold.trans (flagCode_byte _), hstack, hlen, htally,
        hcount, hsequence, hzero⟩
    · obtain ⟨hlines, hlength⟩ := length_deskLines g hroll
      refine ⟨hlines, hlength, fun i hi => deskLines_roll g hi, fun c => ?_⟩
      obtain ⟨line, hline, hbyte⟩ := deskLines_status g hroll c
      obtain ⟨h0, h1, h2, h3, h4, h5, h6, h8, h12⟩ := statusEntry_fields (s := s) c
      have hfield : ∀ i w, i + w ≤ 16 → fieldAt line (16 * (c.val % 4) + i) w = fieldAt (statusEntry s c) i w :=
        fun i w hi => fieldAt_congr fun j hj => by rw [Nat.add_assoc]; exact hbyte (i + j) (by omega)
      exact ⟨line, hline, (hbyte 0 (by omega)).trans h0, (hbyte 1 (by omega)).trans h1, (hbyte 2 (by omega)).trans h2,
        (hbyte 3 (by omega)).trans h3, (hbyte 4 (by omega)).trans h4, (hbyte 5 (by omega)).trans h5,
        (hfield 6 2 (by omega)).trans h6, (hfield 8 4 (by omega)).trans h8, (hfield 12 4 (by omega)).trans h12⟩
  · have hexec : exec .deskOpeningWritten s = done s (State.sendBody (9 + 1) 1 (s.landed rest)) :=
      congrArg (done s) (onComplete_due hdue (by simp [hp]))
    have hover := sendBody_first 9 (s.landed rest)
    have hframe := (sendBody_handsOver (9 + 1) 1 (s.landed rest)).2
    generalize State.sendBody (9 + 1) 1 (s.landed rest) = v at hexec hover hframe
    exact ⟨v, hexec.trans (done_same (by rw [hframe]; rfl)), hover, hframe⟩
  · refine ⟨(s.landed rest).sendDesk .deskHeader 0 (s.desk.lines.headD []), ?_, rfl, rfl⟩
    change done s (s.onComplete _ _ _) = _
    rw [onComplete_due hdue (by simp [hp])]
    exact done_same rfl

/-! ### The completion of a desk write -/

/-- The desk unit once its write has completed, before what the completion ends (R161, R165, R166). -/
def State.deskWritten (s : State) : DeskUnit :=
  { s.desk with
    latest := s.desk.generation, writing := false, armed := s.desk.armed && !s.regs.intEnable,
    again := false, requested := s.desk.requested || s.desk.again }

/-- The MSIs raised once a desk write has completed (R166). -/
def State.msiWritten (s : State) : Nat := s.msi + (if (s.regs.intEnable && s.desk.armed) = true then 1 else 0)

theorem applyMsi_eq : s.applyMsi =
    { s with desk := { s.desk with armed := s.desk.armed && !s.regs.intEnable }, msi := s.msiWritten } := by
  unfold State.applyMsi State.msiWritten
  by_cases h : s.regs.intEnable = true ∧ s.desk.armed = true
  · rw [if_pos h]
    simp [h.1, h.2]
  · have hdesk : { s.desk with armed := s.desk.armed && !s.regs.intEnable } = s.desk := by
      refine congrArg (fun b => { s.desk with armed := b }) ?_
      cases hi : s.regs.intEnable <;> cases ha : s.desk.armed <;> simp_all
    rw [if_neg h, hdesk, if_neg (by simpa using h)]
    rfl

theorem writeAgain_eq : s.writeAgain =
    { s with desk := { s.desk with again := false, requested := s.desk.requested || s.desk.again } } := by
  unfold State.writeAgain
  by_cases h : s.desk.again = true
  · rw [if_pos h]
    simp [h]
  · have hdesk : { s.desk with again := false, requested := s.desk.requested || s.desk.again } = s.desk := by
      have ha : s.desk.again = false := by simpa using h
      rw [ha, Bool.or_false, ← ha]
    rw [if_neg h, hdesk]

/-- The state once a desk write has completed, before what the completion ends. -/
def State.writeDone (s : State) : State := { s with desk := s.deskWritten, msi := s.msiWritten }

theorem writeDone_eq : ({ s with desk := { s.desk with latest := s.desk.generation, writing := false } } :
    State).applyMsi.writeAgain = s.writeDone := by
  rw [applyMsi_eq, writeAgain_eq]
  rfl

theorem deskComplete_running (h : s.regs.part = .running) : s.deskComplete = s.writeDone := by
  rw [← writeDone_eq, State.deskComplete]
  simp only [h]

theorem deskComplete_starting (h : s.regs.part = .starting) : s.deskComplete = s.writeDone.endStart := by
  rw [← writeDone_eq, State.deskComplete]
  simp only [h]

theorem deskComplete_quiescing (h : s.regs.part = .quiescing) (hf : s.desk.finalRunning = false) :
    s.deskComplete = s.writeDone := by
  rw [← writeDone_eq, State.deskComplete]
  simp only [h, hf]
  rfl

/-- The final write's completion: the desk unit before the end of quiesce keeps what is asked for. -/
theorem deskComplete_final (h : s.regs.part = .quiescing) (hf : s.desk.finalRunning = true) :
    s.deskComplete = ({ s with
      desk := { s.desk with
        latest := s.desk.generation, writing := false, armed := s.desk.armed && !s.regs.intEnable },
      msi := s.msiWritten } : State).endQuiesce := by
  rw [State.deskComplete]
  simp only [h, hf, if_true, applyMsi_eq]
  rfl

theorem report_eq (hp : t.regs.part ≠ .starting) : s.report t =
    { t with desk := { t.desk with changed := t.desk.changed || decide (t.reports ≠ s.reports) } } := by
  unfold State.report
  by_cases h : t.reports = s.reports
  · rw [if_pos (Or.inl h)]
    simp [h]
  · rw [if_neg (by simp [h, hp])]
    simp [h]

/-- Reports that differ in the storage hold alone. -/
theorem reports_hold (hc : t.chans = s.chans) (hi : t.inputs = s.inputs) :
    t.reports ≠ s.reports ↔ t.sheets.hold ≠ s.sheets.hold := by
  simp [State.reports, hc, hi]

/-- The sheet manager as RUNNING is entered: the hold told from the total, a claim scan perhaps started. -/
theorem enterRunning_eq : ∃ w n a, s.enterRunning = { s with
    regs := { s.regs with part := .running },
    sheets := { s.sheets with
      hold := heldAt s.setup (s.sheets.tally + s.sheets.stack.length) s.sheets.hold,
      scan := w, examined := n, scanAgain := a } } ∧
    (s.sheets.scan = .idle → s.sheets.stack.length < 8 → w = .starting) := by
  obtain ⟨w, n, a, hs⟩ := scanEvent_frame
    ({ s with regs := { s.regs with part := .running } } : State).evaluateHold false
  have henter : s.enterRunning = _ := hs
  rw [evaluateHold_eq] at henter
  refine ⟨w, n, a, henter, fun hi hl => ?_⟩
  have hstart := scanEvent_starts (marks := false)
    (s := ({ s with regs := { s.regs with part := .running } } : State).evaluateHold)
    (by rw [evaluateHold_eq]) (by rw [evaluateHold_eq]; exact hi) (by rw [evaluateHold_eq]; exact hl)
  rwa [hs] at hstart

theorem map_abandoned {l : List Access} {kind : Purpose → Bool} (h : ∀ b ∈ l, kind b.purpose = false) :
    (l.map fun a => if kind a.purpose then { a with purpose := .abandonedRead a.purpose.area } else a) = l := by
  refine (List.map_congr_left fun b hb => ?_).trans (List.map_id l)
  rw [h b hb]
  rfl

theorem abandon_none {kind : Purpose → Bool} (h : ∀ b ∈ s.engine.waiting ++ s.engine.flight, kind b.purpose = false) :
    s.abandon kind = s := by
  simp only [State.abandon]
  rw [map_abandoned fun b hb => h b (List.mem_append_left _ hb),
    map_abandoned fun b hb => h b (List.mem_append_right _ hb)]

theorem foldl_actClose_unbound : ∀ (l : List Chan) (s : State), (∀ c, s.chanState c = .unbound) →
    l.foldl State.actClose s = s
  | [], _, _ => rfl
  | c :: rest, s, h => by
    have hc : s.actClose c = s := by simp only [State.actClose, h c]
    rw [List.foldl_cons, hc, foldl_actClose_unbound rest s h]

/-- A step that ends in STARTING reports nothing. -/
theorem done_starting {t : State} (h : t.regs.part = .starting) : done s t = .next t :=
  congrArg Host.Outcome.next (if_pos (Or.inr h))

/-- A quiesce that finds no render, no channel bound and no read of a sweep. -/
theorem beginQuiesce_bare (hr : s.orders.renders = []) (hu : ∀ c : Chan, s.chanState c = .unbound)
    (hreads : ∀ b ∈ s.engine.waiting ++ s.engine.flight,
      b.purpose ≠ .orderCardRead ∧ ∀ last, b.purpose ≠ .slotRead last) :
    s.beginQuiesce = { s with
      regs := { s.regs with part := .quiescing },
      orders := { s.orders with sweep := .idle, again := false, image := none } } := by
  let v : State := { s with regs := { s.regs with part := .quiescing } }
  have hcut : v.cutSweep = { v with orders := { v.orders with sweep := .idle, again := false, image := none } } := by
    rw [State.cutSweep, abandon_none]
    intro b hb
    obtain ⟨hcard, hslot⟩ := hreads b hb
    cases hp : b.purpose with
    | slotRead last => exact absurd hp (hslot last)
    | orderCardRead => exact absurd hp hcard
    | _ => rfl
  have hrenders : v.cutSweep.quiesceRenders = v.cutSweep := by
    rw [hcut, State.quiesceRenders]
    simp only [show v.orders.renders = [] from hr]
  change (List.finRange 32).foldl State.actClose v.cutSweep.quiesceRenders = _
  rw [hrenders, foldl_actClose_unbound _ _ (by rw [hcut]; exact hu), hcut]

theorem drained_iff {c : Chan} : s.drained c = true ↔ (s.row c).queue = [] ∧
    ∀ b ∈ s.engine.waiting ++ s.engine.flight, b.who = .channel c →
      ∀ card sheet, b.purpose ≠ .headerWrite card sheet := by
  unfold State.drained
  rw [Bool.and_eq_true, List.isEmpty_iff, Bool.not_eq_true', List.any_eq_false]
  refine and_congr_right fun _ => forall₂_congr fun b _ => ?_
  rw [Bool.and_eq_true, beq_iff_eq, not_and]
  refine imp_congr_right fun _ => ?_
  split
  · next card sheet hp => simp [hp]
  · next hp => exact ⟨fun _ card sheet he => hp card sheet he, fun _ => nofun⟩

theorem quiesceDone_iff : s.quiesceDone = true ↔
    (s.stackReturned = true ∧ (∀ k : OrderSlot, s.orders.accepted[k] = none) ∧
      s.orders.renders = [] ∧ ∀ c : Chan, (s.row c).queue = [] ∧
        ∀ b ∈ s.engine.waiting ++ s.engine.flight, b.who = .channel c →
          ∀ card sheet, b.purpose ≠ .headerWrite card sheet) ∧
    ∀ b ∈ s.engine.waiting ++ s.engine.flight, ∀ k, b.purpose ≠ .finishResult k ∧ b.purpose ≠ .finishState k := by
  have haccepted : s.orders.accepted.toList.all Option.isNone = true ↔ ∀ k : OrderSlot, s.orders.accepted[k] = none := by
    simp only [List.all_eq_true, Vector.mem_toList_iff, Vector.mem_iff_getElem]
    constructor
    · exact fun h k => Option.isNone_iff_eq_none.1 (h _ ⟨k.val, k.isLt, rfl⟩)
    · rintro h r ⟨i, hi, rfl⟩
      exact Option.isNone_iff_eq_none.2 (h ⟨i, hi⟩)
  have hfinish : s.outstanding Purpose.isFinish = false ↔ ∀ b ∈ s.engine.waiting ++ s.engine.flight, ∀ k,
      b.purpose ≠ .finishResult k ∧ b.purpose ≠ .finishState k := by
    rw [State.outstanding, List.any_eq_false]
    refine forall₂_congr fun b _ => ?_
    cases b.purpose <;> simp [Purpose.isFinish]
  rw [State.quiesceDone]
  simp only [Bool.and_eq_true, Bool.not_eq_true', haccepted, hfinish, List.isEmpty_iff, List.all_eq_true,
    List.mem_finRange, forall_true_left, drained_iff]
  exact ⟨fun ⟨⟨⟨⟨h1, h2⟩, h3⟩, h4⟩, h5⟩ => ⟨⟨h1, h2, h3, h5⟩, h4⟩, fun ⟨⟨h1, h2, h3, h5⟩, h4⟩ => ⟨⟨⟨⟨h1, h2⟩, h3⟩, h4⟩, h5⟩⟩

/-- Settles O56: each part state's completion by its equation, and the end of quiesce by its conditions. -/
theorem deskWriteCompletes : Obligations.DeskWriteCompletes := by
  unfold Obligations.DeskWriteCompletes
  refine ⟨fun s a rest hdue hp => ?_, fun s hpart => ?_⟩
  · intro raises u desk msi
    have hexec : exec .deskWriteComplete s = done s u.deskComplete :=
      congrArg (done s) (onComplete_due hdue (by simp [hp]))
    refine ⟨fun h => ?_, fun hpart hen => ?_, fun hpart hen hr hu hreads => ?_, fun hpart hf => ⟨fun hen => ?_, fun hen => ?_⟩⟩
    · have hdone : u.deskComplete = u.writeDone :=
        h.elim (deskComplete_running (s := u)) fun h => deskComplete_quiescing (s := u) h.1 h.2
      rw [hexec, hdone]
      exact done_same rfl
    · rw [deskComplete_starting (s := u) hpart] at hexec
      let v : State := { u.writeDone with
        sweep := StartSweep.reset, desk := { u.writeDone.desk with pacing := 0 } }
      have hends : u.writeDone.endStart = v.enterRunning := if_pos hen
      obtain ⟨w, n, again, hrunning, hstarts⟩ := enterRunning_eq (s := v)
      rw [hends] at hexec
      generalize v.enterRunning = x at hexec hrunning
      have hreports : (x.reports ≠ s.reports) ↔ x.sheets.hold ≠ s.sheets.hold :=
        reports_hold (by rw [hrunning]; rfl) (by rw [hrunning]; rfl)
      have hreport : s.report x = { x with desk := { x.desk with
          changed := x.desk.changed || decide (x.sheets.hold ≠ s.sheets.hold) } } := by
        rw [report_eq (by rw [hrunning]; simp), decide_eq_decide.2 hreports]
      refine ⟨s.report x, hexec, ?_⟩
      rw [hreport, hrunning]
      exact ⟨rfl, rfl, rfl, rfl, fun hl => heldAt_below hl, fun hi hl => hstarts hi hl, rfl⟩
    · rw [deskComplete_starting (s := u) hpart] at hexec
      let v : State := { u.writeDone with
        sweep := StartSweep.reset, desk := { u.writeDone.desk with pacing := 0 } }
      have hends : u.writeDone.endStart = v.beginQuiesce := if_neg (show ¬ s.regs.enable = true by simp [hen])
      rw [hexec, hends, beginQuiesce_bare (s := v) hr hu hreads]
      exact done_same rfl
    · rw [deskComplete_final (s := u) hpart hf] at hexec
      refine ⟨_, (hexec.trans (congrArg (done s) (if_neg (show ¬ s.regs.enable = true by simp [hen])))).trans
        (done_same rfl), rfl, rfl, rfl, rfl⟩
    · rw [deskComplete_final (s := u) hpart hf] at hexec
      have hbegin := hexec.trans (congrArg (done s) (if_pos (show s.regs.enable = true from hen)))
      refine ⟨_, hbegin.trans (done_starting rfl), rfl, rfl, rfl, rfl, ?_, rfl⟩
      simp only [HandedOver, State.beginStart, State.sendRead, State.handOver, List.append_assoc]
      rfl
  · intro settled answered
    refine ⟨fun hset hans hasked => ?_, fun h => ?_⟩
    · have hactive : ({ s with desk := { s.desk with finalAsked := true } } : State).active = true :=
        active_iff.2 (Or.inr (Or.inr hpart))
      refine congrArg Host.Outcome.next ((if_pos ⟨hpart, quiesceDone_iff.2 ⟨hset, hans⟩, by simp [hasked]⟩).trans ?_)
      rw [requestDesk_active hactive]
      cases hw : s.desk.writing
      · have hagain : s.desk.again = (s.desk.again || false) := (Bool.or_false _).symm
        simp only [Bool.false_eq_true, if_false, Bool.not_false, Bool.or_true, ← hagain]
      · have hrequested : s.desk.requested = (s.desk.requested || false) := (Bool.or_false _).symm
        simp only [if_true, Bool.not_true, Bool.or_true, ← hrequested]
    · refine congrArg Host.Outcome.next (if_neg ?_)
      rintro ⟨-, hdone, hasked⟩
      obtain ⟨hset, hans⟩ := quiesceDone_iff.1 hdone
      rcases h with h | h | h
      · exact h hset
      · exact h hans
      · exact hasked h

end Sys2Proof.Machine
end

section
/-! PROOFS. The frame codec: the gain, pause compression, the scale, and a voice record's decode. -/

namespace Sys2Proof.Machine

open Sys2Proof

/-! ### Saturation and rounding (R30, R38) -/

theorem saturate_bounds (y : Int) : -32768 ≤ saturate y ∧ saturate y ≤ 32767 := by
  unfold saturate
  omega

theorem gained_of_floor {gain : Nat} {x q : Int} (h : 64 * q ≤ x * gain + 32) (h' : x * gain + 32 < 64 * (q + 1)) :
    gained gain x = q := by
  unfold gained
  omega

theorem gain_saturates {gain : Nat} {x q : Int} (hq : gained gain x = q) :
    (clipped gain x = true ↔ q < -32768 ∨ 32767 < q) ∧
    (q < -32768 → gainSample gain x = -32768) ∧ (32767 < q → gainSample gain x = 32767) ∧
    (-32768 ≤ q → q ≤ 32767 → gainSample gain x = q) := by
  rw [clipped, gainSample, hq, bne_iff_ne]
  unfold saturate
  omega

/-- A quotient by its two bounds, both sides doubled where the rounding halves the divisor. -/
theorem codeFor_eq {s : Nat} {d q : Int} (h : 2 ^ (s + 1) * q ≤ 2 * d + 2 ^ s)
    (h' : 2 * d + 2 ^ s < 2 ^ (s + 1) * (q + 1)) :
    codeFor s d = if q < -8 then -8 else if 7 < q then 7 else q := by
  have hquot : (if s = 0 then d else (d + 2 ^ (s - 1)) / 2 ^ s) = q := by
    cases s with
    | zero =>
      rw [if_pos rfl]
      omega
    | succ k =>
      rw [if_neg (Nat.succ_ne_zero k), Nat.add_sub_cancel]
      have hpow : (0 : Int) < 2 ^ k := by positivity
      rw [pow_succ _ (k + 1), pow_succ] at h h'
      rw [pow_succ]
      refine Int.ediv_eq_iff_of_pos (by omega) |>.2 ⟨?_, ?_⟩ <;> nlinarith
  unfold codeFor
  rw [hquot]
  dsimp only
  split
  · omega
  · split <;> omega

theorem codeFor_bounds (s : Nat) (d : Int) : -8 ≤ codeFor s d ∧ codeFor s d ≤ 7 := by
  unfold codeFor
  dsimp only
  omega

/-! ### The scale (R37) -/

theorem step_le_largest : ∀ {ys : List Int} {n : Nat} {a b : Int}, ys[n]? = some a → ys[n + 1]? = some b →
    (b - a).natAbs ≤ largestStep ys
  | _ :: _ :: _, 0, _, _, ha, hb => by
    cases ha
    cases hb
    exact Nat.le_max_left _ _
  | _ :: y :: ys, n + 1, _, _, ha, hb => (step_le_largest (ys := y :: ys) ha hb).trans (Nat.le_max_right _ _)

theorem largest_is_step : ∀ {ys : List Int}, 0 < largestStep ys →
    ∃ n a b, ys[n]? = some a ∧ ys[n + 1]? = some b ∧ largestStep ys = (b - a).natAbs
  | [], h => absurd h (by simp [largestStep])
  | [_], h => absurd h (by simp [largestStep])
  | x :: y :: ys, h => by
    rcases le_total (largestStep (y :: ys)) (y - x).natAbs with hle | hle
    · exact ⟨0, x, y, rfl, rfl, Nat.max_eq_left hle⟩
    · have hmax : largestStep (x :: y :: ys) = largestStep (y :: ys) := Nat.max_eq_right hle
      obtain ⟨n, a, b, ha, hb, hstep⟩ := largest_is_step (ys := y :: ys) (hmax ▸ h)
      exact ⟨n + 1, a, b, ha, hb, hmax.trans hstep⟩

theorem largestStep_le : ∀ {ys : List Int}, (∀ y ∈ ys, -32768 ≤ y ∧ y ≤ 32767) → largestStep ys ≤ 65535
  | [], _ => Nat.zero_le _
  | [_], _ => Nat.zero_le _
  | x :: y :: ys, h => by
    have hx := h x List.mem_cons_self
    have hy := h y (List.mem_cons_of_mem _ List.mem_cons_self)
    exact Nat.max_le.2 ⟨by omega, largestStep_le fun z hz => h z (List.mem_cons_of_mem _ hz)⟩

/-- The scale is the least of 0 to 14 that reaches the largest step: all 15 fail for no step of 16-bit samples. -/
theorem scaleFor_spec {d : Nat} (h : d ≤ 65535) :
    scaleFor d ≤ 14 ∧ d ≤ 7 * 2 ^ scaleFor d ∧ ∀ k < scaleFor d, 7 * 2 ^ k < d := by
  unfold scaleFor
  cases hf : (List.range 15).find? fun s => decide (d ≤ 7 * 2 ^ s) with
  | none =>
    have hlast := List.find?_eq_none.1 hf 14 (by simp)
    exact absurd (decide_eq_true (show d ≤ 7 * 2 ^ 14 by omega)) hlast
  | some s =>
    rw [List.find?_range_eq_some] at hf
    obtain ⟨hd, hs, hleast⟩ := hf
    exact ⟨Nat.le_of_lt_succ (List.mem_range.1 hs), of_decide_eq_true hd, fun k hk => by simpa using hleast k hk⟩

/-! ### Codes and bytes (R41) -/

theorem codeOf_nibble {c : Int} (h : -8 ≤ c) (h' : c ≤ 7) : codeOf (codeNibble c) = c := by
  unfold codeOf codeNibble
  split <;> omega

theorem codeNibble_lt (c : Int) : codeNibble c < 16 := by
  unfold codeNibble
  omega

theorem length_codeBytes : ∀ cs : List Int, (codeBytes cs).length = (cs.length + 1) / 2
  | [] => rfl
  | [_] => by rw [codeBytes, List.length_singleton, List.length_singleton]
  | _ :: _ :: rest => by
    rw [codeBytes, List.length_cons, length_codeBytes rest, List.length_cons, List.length_cons]
    omega

/-- Code n stands in byte n / 2: an even place in the low half, an odd one in the high half. -/
theorem byteAt_codeBytes : ∀ {cs : List Int} {n : Nat} {c : Int}, cs[n]? = some c →
    (if n % 2 = 0 then byteAt (codeBytes cs) (n / 2) % 16 else byteAt (codeBytes cs) (n / 2) / 16) = codeNibble c
  | [a], 0, _, h => by
    cases h
    have := codeNibble_lt a
    change (codeNibble a % 2 ^ 8) % 16 = _
    omega
  | a :: b :: _, 0, _, h => by
    cases h
    have := codeNibble_lt a
    have := codeNibble_lt b
    change ((codeNibble a + 16 * codeNibble b) % 2 ^ 8) % 16 = _
    omega
  | a :: b :: _, 1, _, h => by
    cases h
    have := codeNibble_lt a
    have := codeNibble_lt b
    change ((codeNibble a + 16 * codeNibble b) % 2 ^ 8) / 16 = _
    omega
  | _ :: _ :: rest, n + 2, _, h => by
    rw [Nat.add_mod_right, Nat.add_div_right n (by decide), codeBytes, byteAt_cons]
    exact byteAt_codeBytes (cs := rest) h

/-! ### A voice record's bytes -/

section Voice

variable {scale clips : Nat} {anchor : Int} {codes : List Int}

theorem voice_scale (h : scale ≤ 14) : scaleOf (Rec.voice scale clips anchor codes).bytes = scale := by
  change (scale % 2 ^ 8) % 16 = scale
  omega

theorem voice_clips (h : clips ≤ 255) : byteAt (Rec.voice scale clips anchor codes).bytes 1 = clips :=
  Nat.mod_eq_of_lt (Nat.lt_succ_of_le h)

theorem voice_anchor (h : -32768 ≤ anchor ∧ anchor ≤ 32767) :
    anchorOf (Rec.voice scale clips anchor codes).bytes = anchor := by
  have hfield : fieldAt (Rec.voice scale clips anchor codes).bytes 2 2 = (anchor % 65536).toNat := by
    rw [Rec.bytes, fieldAt_cons, fieldAt_cons, fieldAt_append_left (length_bytesOf _ _), fieldAt_bytesOf]
    exact Nat.mod_eq_of_lt (by omega)
  rw [anchorOf, hfield, BitVec.toInt_eq_toNat_cond, BitVec.toNat_ofNat]
  split <;> omega

theorem voice_code {n : Nat} {c : Int} (h : codes[n]? = some c) (hc : -8 ≤ c ∧ c ≤ 7) :
    codeAt (Rec.voice scale clips anchor codes).bytes (n + 1) = c := by
  have hbyte : byteAt (Rec.voice scale clips anchor codes).bytes (4 + n / 2) = byteAt (codeBytes codes) (n / 2) := by
    rw [Rec.bytes, show 4 + n / 2 = n / 2 + 2 + 1 + 1 by omega, byteAt_cons, byteAt_cons,
      byteAt_append_right (by rw [length_bytesOf]; omega), length_bytesOf, Nat.add_sub_cancel]
  have hplace := byteAt_codeBytes h
  rw [codeAt, Nat.add_sub_cancel, hbyte, ← codeOf_nibble hc.1 hc.2, ← hplace]
  exact congrArg codeOf (if_congr (by omega) rfl rfl)

theorem length_voice : (Rec.voice scale clips anchor codes).bytes.length = 4 + (codes.length + 1) / 2 := by
  rw [Rec.bytes, List.length_cons, List.length_cons, List.length_append, length_bytesOf, length_codeBytes]
  omega

/-- The codes read back are the codes written. -/
theorem voice_codes (hlen : codes.length = 119) (hc : ∀ c ∈ codes, -8 ≤ c ∧ c ≤ 7) :
    ((List.range 119).map fun n => codeAt (Rec.voice scale clips anchor codes).bytes (n + 1)) = codes := by
  refine List.ext_getElem? fun n => ?_
  rw [List.getElem?_map]
  rcases Nat.lt_or_ge n 119 with hn | hn
  · have hget : codes[n]? = some (codes[n]'(hlen ▸ hn)) := List.getElem?_eq_getElem _
    rw [List.getElem?_range hn, Option.map_some, voice_code hget (hc _ (List.getElem_mem _)), hget]
  · rw [List.getElem?_eq_none (by simpa using hn), List.getElem?_eq_none (by omega), Option.map_none]

end Voice

/-! ### Quantizing and decoding (R38, R39, R42) -/

theorem length_quantize (s : Nat) : ∀ (previous : Int) (ys : List Int), (quantize s previous ys).length = ys.length
  | _, [] => rfl
  | _, _ :: ys => congrArg (· + 1) (length_quantize s _ ys)

theorem quantize_bounds (s : Nat) : ∀ (previous : Int) (ys : List Int), ∀ c ∈ quantize s previous ys, -8 ≤ c ∧ c ≤ 7
  | previous, y :: ys, c, hc => by
    rcases List.mem_cons.1 hc with rfl | hc
    · exact codeFor_bounds _ _
    · exact quantize_bounds s _ ys c hc

theorem length_decodeFrom (s : Nat) : ∀ (previous : Int) (cs : List Int), (decodeFrom s previous cs).length = cs.length
  | _, [] => rfl
  | _, _ :: cs => congrArg (· + 1) (length_decodeFrom s _ cs)

/-- Each decoded sample is the one before it moved by the code the encoder chose from that very sample. -/
theorem decode_quantized (s : Nat) : ∀ {previous : Int} {ys : List Int} {n : Nat} {r y : Int},
    (previous :: decodeFrom s previous (quantize s previous ys))[n]? = some r → ys[n]? = some y →
      (decodeFrom s previous (quantize s previous ys))[n]? = some (reconstruct s r (codeFor s (y - r)))
  | _, _ :: _, 0, _, _, hr, hy => by
    cases hr
    cases hy
    rfl
  | _, _ :: ys, n + 1, _, _, hr, hy => decode_quantized s (ys := ys) (n := n) hr hy

/-- A frame's record decodes to the anchor and the encoder's reconstruction behind it. -/
theorem decodeVoice_record {scale clips : Nat} {anchor : Int} {ys : List Int} (hs : scale ≤ 14)
    (ha : -32768 ≤ anchor ∧ anchor ≤ 32767) (hlen : ys.length = 119) :
    decodeVoice (Rec.voice scale clips anchor (quantize scale anchor ys)).bytes =
      anchor :: decodeFrom scale anchor (quantize scale anchor ys) := by
  rw [decodeVoice]
  simp only [voice_scale hs, voice_anchor ha,
    voice_codes ((length_quantize _ _ _).trans hlen) (quantize_bounds _ _ _)]

theorem gainSample_bounds {gain : Nat} {xs : List Int} : ∀ y ∈ xs.map (gainSample gain), -32768 ≤ y ∧ y ≤ 32767 := by
  intro y hy
  obtain ⟨x, -, rfl⟩ := List.mem_map.1 hy
  exact saturate_bounds _

/-! ### Pause compression (R32 to R34) -/

section Pause

variable {gain T H P : Nat} {run : PauseRun} {xs : List Int}

theorem silent_iff : silent T (xs.map (gainSample gain)) = true ↔
    (xs.map fun x => (gainSample gain x).natAbs).sum / 128 < T := by
  rw [silent, activity, List.map_map, decide_eq_true_iff]
  rfl

theorem encode_heard (h : ¬ silent T (xs.map (gainSample gain)) = true) :
    encodeFrame gain T H P run xs = ({ run with silent := 0, pending := 0 },
      (if run.pending = 0 then [] else [.pause run.pending false]) ++ [voiceRecord gain xs]) :=
  if_neg h

theorem encode_silent {n : Nat} (h : silent T (xs.map (gainSample gain)) = true)
    (hn : min (run.silent + 1) (H + P + 1) = n) :
    encodeFrame gain T H P run xs =
      if n ≤ H then ({ run with silent := n }, [voiceRecord gain xs])
      else if n ≤ H + P then
        if run.pending + 1 = P then ({ run with silent := n, pending := 0 }, [.pause P false])
        else ({ run with silent := n, pending := run.pending + 1 }, [])
      else ({ run with silent := n }, []) := by
  subst hn
  exact if_pos h

end Pause

theorem pause_fields {frames : Nat} {lost : Bool} (h : 1 ≤ frames) (h' : frames ≤ 255) :
    (Rec.pause frames lost).bytes.length = 64 ∧ isPause (Rec.pause frames lost).bytes = true ∧
    framesOf (Rec.pause frames lost).bytes = frames ∧
    recordEntryOf (Rec.pause frames lost).bytes = { frames := frames, kind := if lost then .lost else .pause } := by
  have hfirst : byteAt (Rec.pause frames lost).bytes 0 = if lost then 0x1F else 0x0F := by
    rw [Rec.bytes]
    cases lost <;> rfl
  have hpause : isPause (Rec.pause frames lost).bytes = true := by
    rw [isPause, scaleOf, hfirst]
    cases lost <;> rfl
  have hcount : byteAt (Rec.pause frames lost).bytes 1 = frames := Nat.mod_eq_of_lt (Nat.lt_succ_of_le h')
  refine ⟨rfl, hpause, ?_, ?_⟩
  · rw [framesOf, if_pos hpause, hcount, Nat.max_eq_right h]
  · rw [recordEntryOf, if_pos hpause, hcount, hfirst]
    cases lost <;> rfl

/-- Settles O57: the gain and the code by their quotients, the record by reading back what was written, and pause
compression branch by branch. -/
theorem voiceRecordDecodesToReconstruction : Obligations.VoiceRecordDecodesToReconstruction := by
  unfold Obligations.VoiceRecordDecodesToReconstruction
  refine ⟨fun gain x => ?_, fun s d q => codeFor_eq, fun gain xs hlen => ?_, fun frames lost => pause_fields,
    fun gain T H P run xs => ?_⟩
  · obtain ⟨hlow, hhigh⟩ := saturate_bounds (gained gain x)
    exact ⟨hlow, hhigh, fun q h h' => gain_saturates (gained_of_floor h h')⟩
  · intro ys data s
    obtain ⟨anchor, rest, hys⟩ : ∃ anchor rest, ys = anchor :: rest :=
      List.exists_cons_of_length_pos (by rw [List.length_map, hlen]; decide)
    have hrest : rest.length = 119 := by
      have : ys.length = 120 := by rw [List.length_map, hlen]
      rw [hys] at this
      exact Nat.succ.inj this
    have hbounds : ∀ y ∈ ys, -32768 ≤ y ∧ y ≤ 32767 := gainSample_bounds
    have hclips : clipCount gain xs ≤ 255 := (List.countP_le_length).trans (by omega)
    obtain ⟨hs, hreach, hleast⟩ := scaleFor_spec (largestStep_le hbounds)
    have hdata : data = (Rec.voice (scaleFor (largestStep ys)) (clipCount gain xs) anchor
        (quantize (scaleFor (largestStep ys)) anchor rest)).bytes := by
      change (Rec.voice (scaleFor (largestStep ys)) (clipCount gain xs) (ys.headD 0)
        (quantize (scaleFor (largestStep ys)) (ys.headD 0) ys.tail)).bytes = _
      rw [hys]
      rfl
    have hscale : s = scaleFor (largestStep ys) := (congrArg scaleOf hdata).trans (voice_scale hs)
    have hdecode : decodeVoice data = anchor :: decodeFrom s anchor (quantize s anchor rest) := by
      rw [hdata, hscale]
      exact decodeVoice_record hs (hbounds anchor (by rw [hys]; exact List.mem_cons_self)) hrest
    refine ⟨?_, by omega, ?_, ?_, fun n a b ha hb => ?_, fun hpos => ?_, ?_, ?_, fun n r y hr hy => ?_⟩
    · rw [hdata, length_voice, length_quantize, hrest]
    · exact beq_eq_false_iff_ne.2 (show s ≠ 15 by omega)
    · rw [hdata, voice_clips hclips]
      rfl
    · rw [hscale]
      exact (step_le_largest ha hb).trans hreach
    · have hbelow := hleast (s - 1) (by omega)
      obtain ⟨n, a, b, ha, hb, hstep⟩ := largest_is_step (ys := ys) (by omega)
      exact ⟨n, a, b, ha, hb, hstep ▸ hbelow⟩
    · rw [hdecode, List.length_cons, length_decodeFrom, length_quantize, hrest]
    · rw [hdecode, hys]
      rfl
    · rw [hys] at hy
      rw [hdecode] at hr ⊢
      exact decode_quantized s hr hy
  · intro voice A result
    have hloud : T ≤ A → ¬ silent T (xs.map (gainSample gain)) = true := fun h =>
      silent_iff.not.2 (Nat.not_lt.2 h)
    have hquiet : A < T → silent T (xs.map (gainSample gain)) = true := silent_iff.2
    refine ⟨fun h h0 => ?_, fun h h0 => ?_, fun h hH => ?_, fun h hH hP hlast => ?_, fun h hH hP hmore => ?_,
      fun h hP => ?_⟩
    · refine (encode_heard (hloud h)).trans ?_
      rw [if_pos h0, ← h0]
      rfl
    · refine (encode_heard (hloud h)).trans ?_
      rw [if_neg (Nat.pos_iff_ne_zero.1 h0)]
      rfl
    · rw [show result = _ from encode_silent (hquiet h) (Nat.min_eq_left (by omega)), if_pos hH]
    · rw [show result = _ from encode_silent (hquiet h) (Nat.min_eq_left (by omega)), if_neg (Nat.not_le.2 hH),
        if_pos hP, if_pos hlast]
    · rw [show result = _ from encode_silent (hquiet h) (Nat.min_eq_left (by omega)), if_neg (Nat.not_le.2 hH),
        if_pos hP, if_neg hmore]
    · rw [show result = _ from encode_silent (hquiet h) (Nat.min_eq_right hP), if_neg (by omega), if_neg (by omega)]

end Sys2Proof.Machine
end

section
/-! PROOFS. Placement as a whole: what any run of it leaves alone. `Places c s t` says that `t` comes from `s` by
work on the records of channel `c`: placing, holding and discarding them, ending the take, closing its sheets. Each
operation of Takes.lean has one lemma here, in the form `Places c s t → Places c s (operation t)`. -/

namespace Sys2Proof.Machine

open Sys2Proof

variable {s t u : State} {c : Chan} {r r' : ChanRow}

/-! ### The relation -/

/-- The writes that placement hands over: records, headers, map entries. -/
def Access.ofPlacement (a : Access) : Bool :=
  match a.purpose with
  | .recordWrite .. | .headerWrite .. | .mapWrite => true
  | _ => false

/-- A row's state, operation and write sheet under placement: a take goes on or ends into SAVING; otherwise the state
stands, and closing placements may come to their end. -/
inductive PlacingRow (r r' : ChanRow) : Prop where
  | stays (state : r'.ctx.state = r.ctx.state) (sheet : r.ctx.state ≠ .recording → r'.sheet = r.sheet)
      (op : r'.op = r.op ∨ (r.placing = true ∧ r'.op = r.op.map fun op => op.at .draining))
  | ended (was : r.ctx.state = .recording) (state : r'.ctx.state = .busy .saving) (sheet : r'.sheet = none)
      (op : r'.op = some (.checkpoint .placing) ∨ r'.op = some (.checkpoint .draining))

/-- A context under placement: cursor, notice and state alone may differ. -/
def PlacingContext (x y : Context) : Prop :=
  y = { x with cursor := y.cursor, transient := y.transient, state := y.state }

structure Places (c : Chan) (s t : State) : Prop where
  rest : t = { s with chans := t.chans, letters := t.letters, sheets := t.sheets, engine := t.engine }
  others : OtherRows c s t
  writes : ∃ more, HandedOver s t more ∧ ∀ a ∈ more, a.ofPlacement = true
  requests : ∀ q ∈ t.sheets.waiting, q ∈ s.sheets.waiting ∨ q = .take c
  context : PlacingContext (s.row c).ctx (t.row c).ctx
  row : PlacingRow (s.row c) (t.row c)

theorem PlacingRow.refl : PlacingRow r r := .stays rfl (fun _ => rfl) (.inl rfl)

theorem CardOp.at_draining_placing (h : r.placing = true) (ho : r'.op = r.op.map fun op => op.at .draining) :
    r'.placing = false := by
  unfold ChanRow.placing at h ⊢
  rw [ho]
  split at h
  · next hop => rw [hop]; rfl
  · next hop => rw [hop]; rfl
  · exact absurd h Bool.false_ne_true

theorem PlacingRow.trans {r'' : ChanRow} (h : PlacingRow r r') (g : PlacingRow r' r'') : PlacingRow r r'' := by
  cases h with
  | stays hst hsh hop =>
    cases g with
    | stays gst gsh gop =>
      refine .stays (gst.trans hst) (fun hn => (gsh (hst ▸ hn)).trans (hsh hn)) ?_
      rcases hop with hop | ⟨hp, hop⟩
      · rcases gop with gop | ⟨gp, gop⟩
        · exact .inl (gop.trans hop)
        · refine .inr ⟨?_, gop.trans (by rw [hop])⟩
          rwa [ChanRow.placing, hop] at gp
      · rcases gop with gop | ⟨gp, -⟩
        · exact .inr ⟨hp, gop.trans hop⟩
        · exact absurd gp (by rw [CardOp.at_draining_placing hp hop]; exact Bool.false_ne_true)
    | ended gwas gst gsh gop => exact .ended (hst ▸ gwas) gst gsh gop
  | ended hwas hst hsh hop =>
    cases g with
    | stays gst gsh gop =>
      refine .ended hwas (gst.trans hst) ((gsh (by simp [hst])).trans hsh) ?_
      rcases gop with gop | ⟨-, gop⟩
      · exact gop ▸ hop
      · right
        rcases hop with hop | hop <;> rw [gop, hop] <;> rfl
    | ended gwas => exact absurd (hst.symm.trans gwas) (by simp)

theorem PlacingContext.trans {x y z : Context} (h : PlacingContext x y) (g : PlacingContext y z) :
    PlacingContext x z := by
  unfold PlacingContext at h g ⊢
  rw [g, h]

theorem HandedOver.nil (h : t.engine = s.engine) : HandedOver s t [] := by
  unfold HandedOver
  rw [h, List.append_nil]

theorem OtherRows.trans (h : OtherRows c s t) (g : OtherRows c t u) : OtherRows c s u :=
  fun d hd => (g d hd).trans (h d hd)

theorem Places.refl : Places c s s :=
  ⟨rfl, fun _ _ => rfl, ⟨[], .nil rfl, nofun⟩, fun _ h => .inl h, rfl, .refl⟩

theorem Places.trans (h : Places c s t) (g : Places c t u) : Places c s u where
  rest := by
    rw [g.rest, h.rest]
  others := h.others.trans g.others
  writes := by
    obtain ⟨l, hl, hp⟩ := h.writes
    obtain ⟨m, hm, gp⟩ := g.writes
    exact ⟨l ++ m, hl.trans hm, fun a ha => (List.mem_append.1 ha).elim (hp a) (gp a)⟩
  requests q hq := (g.requests q hq).elim (h.requests q) .inr
  context := h.context.trans g.context
  row := h.row.trans g.row

/-! ### Single updates -/

theorem Places.modRow {f : ChanRow → ChanRow} (h : Places c s t) (hc : PlacingContext (t.row c).ctx (f (t.row c)).ctx)
    (hr : PlacingRow (t.row c) (f (t.row c))) : Places c s (t.modRow c f) :=
  h.trans ⟨rfl, fun _ hd => row_modRow_ne hd, ⟨[], .nil rfl, nofun⟩, fun _ hq => .inl hq,
    by rw [row_modRow_self]; exact hc, by rw [row_modRow_self]; exact hr⟩

/-- An update of a row that leaves context, operation and write sheet. -/
theorem Places.plainRow {f : ChanRow → ChanRow} (h : Places c s t) (hc : (f (t.row c)).ctx = (t.row c).ctx)
    (ho : (f (t.row c)).op = (t.row c).op) (hs : (f (t.row c)).sheet = (t.row c).sheet) : Places c s (t.modRow c f) :=
  h.modRow (by rw [hc]; rfl) (.stays (by rw [hc]) (fun _ => hs) (.inl ho))

theorem Places.modCtx {f : Context → Context} (h : Places c s t) (hc : PlacingContext (t.row c).ctx (f (t.row c).ctx))
    (hs : (f (t.row c).ctx).state = (t.row c).ctx.state) : Places c s (t.modCtx c f) :=
  h.modRow (f := fun r => { r with ctx := f r.ctx }) hc (.stays hs (fun _ => rfl) (.inl rfl))

theorem Places.raise {n : Notice} (h : Places c s t) : Places c s (t.raise c n) := h.modCtx rfl rfl

theorem Places.handOver {a : Access} (h : Places c s t) (ha : a.ofPlacement = true) : Places c s (t.handOver a) :=
  h.trans ⟨rfl, fun _ _ => rfl, ⟨[a], rfl, fun _ hb => List.mem_singleton.1 hb ▸ ha⟩, fun _ hq => .inl hq, rfl, .refl⟩

theorem Places.letters {x : LetterStore} (h : Places c s t) : Places c s { t with letters := x } :=
  h.trans ⟨rfl, fun _ _ => rfl, ⟨[], .nil rfl, nofun⟩, fun _ hq => .inl hq, rfl, .refl⟩

theorem Places.sheets {x : SheetManager} (h : Places c s t) (hx : ∀ q ∈ x.waiting, q ∈ t.sheets.waiting ∨ q = .take c) :
    Places c s { t with sheets := x } :=
  h.trans ⟨rfl, fun _ _ => rfl, ⟨[], .nil rfl, nofun⟩, hx, rfl, .refl⟩

/-! ### The sheet manager -/

theorem Places.evaluateHold (h : Places c s t) : Places c s t.evaluateHold := by
  rw [evaluateHold_eq]
  exact h.sheets fun _ => .inl

theorem Places.scanEvent {marks : Bool} (h : Places c s t) : Places c s (t.scanEvent marks) := by
  obtain ⟨w, n, a, he⟩ := scanEvent_frame t marks
  rw [he]
  exact h.sheets fun _ => .inl

theorem Places.freeSheet {who : Requester} {n : Nat} (h : Places c s t) : Places c s (t.freeSheet who n) := by
  refine Places.scanEvent ?_
  rw [raiseTally_eq]
  exact Places.sheets (h.handOver rfl) fun _ => .inl

theorem Places.freeDead {n : Nat} (h : Places c s t) : Places c s (t.freeDead n) := by
  rw [State.freeDead, State.freeClosed]
  split
  · exact h.sheets fun _ => .inl
  · exact h.freeSheet

theorem Places.popStack (h : Places c s t) : Places c s t.popStack :=
  Places.scanEvent (Places.evaluateHold (h.sheets (x := { t.sheets with stack := t.sheets.stack.tail }) fun _ => .inl))

theorem Places.requestSheet (h : Places c s t) : Places c s (t.requestSheet (.take c)).2 := by
  have hasks : ∀ q ∈ t.sheets.waiting ++ [.take c], q ∈ t.sheets.waiting ∨ q = .take c := fun q hq =>
    (List.mem_append.1 hq).imp id List.mem_singleton.1
  unfold State.requestSheet
  split
  · split
    · exact h.popStack
    · exact h.sheets hasks
  · split
    · exact h.sheets hasks
    · exact h

theorem Places.closeSheet {w : WriteSheet} (h : Places c s t) : Places c s (t.closeSheet c w) := by
  rw [State.closeSheet, State.sendWrite]
  exact h.handOver rfl

theorem Places.sendMapEntry {who : Requester} {n st card : Nat} (h : Places c s t) :
    Places c s (t.sendMapEntry who .mapWrite n st card) := h.handOver rfl

theorem Places.giveSheet {n : Nat} (h : Places c s t) : Places c s (t.giveSheet c n) := by
  rw [State.giveSheet]
  refine h.sendMapEntry.modRow ?_ ?_
  · split <;> rfl
  · split
    · next hrec => exact .stays rfl (fun hn => absurd hrec hn) (.inl rfl)
    · exact .stays rfl (fun _ => rfl) (.inl rfl)

/-! ### Overwriting -/

theorem Places.removeRecord (h : Places c s t) : Places c s (t.removeRecord c) := by
  rw [State.removeRecord]
  dsimp only
  split
  · exact h
  · split
    · exact (Places.letters (h.letters.plainRow rfl rfl rfl)).freeDead
    · exact h.letters.plainRow rfl rfl rfl

theorem Places.overwrite {n : Nat} (h : Places c s t) : Places c s (State.overwrite c n t) := by
  induction n generalizing t with
  | zero => exact h
  | succ n ih =>
    rw [State.overwrite]
    split
    · split
      · exact ih h.removeRecord
      · exact h
    · exact h

/-! ### Placing one record -/

theorem Places.placeInto {w : WriteSheet} {rec : Rec} {extend : Bool} (h : Places c s t) :
    Places c s (t.placeInto c w rec extend) := by
  have hplaced : ∀ (f : ChanRow → ChanRow), (f (t.row c)).ctx = { (t.row c).ctx with
        cursor := (f (t.row c)).ctx.cursor } → (f (t.row c)).op = (t.row c).op →
      ((t.row c).ctx.state ≠ .recording → (f (t.row c)).sheet = (t.row c).sheet) →
      Places c s (t.modRow c f) := fun f hc ho hs =>
    h.modRow (by unfold PlacingContext; rw [hc]) (.stays (by rw [hc]) hs (.inl ho))
  rw [State.placeInto]
  dsimp only
  refine Places.overwrite ?_
  have hrow : Places c s (t.modRow c fun r => { r with
      spans := some (addRecord r.spanList r.ctx.cursor w.sheet w.next rec.frames r.ctx.instruct extend),
      ctx := { r.ctx with cursor := r.ctx.cursor + rec.frames },
      placement := r.placement.map fun p => { p with
        recorded := p.recorded + rec.frames, spanOpen := true,
        closing := if decide (t.chanState c = .recording) = true then p.closing
          else some { w with next := w.next + 1 } },
      sheet := if decide (t.chanState c = .recording) = true then some { w with next := w.next + 1 } else r.sheet,
      queue := makeReady rec w.card w.sheet w.next r.queue }) :=
    hplaced _ rfl rfl fun hn => if_neg (by rwa [decide_eq_true_iff])
  split
  · exact (hrow.letters.handOver rfl).closeSheet
  · exact hrow.letters.handOver rfl

theorem Places.countLost {rec : Rec} {b : Bool} (h : Places c s t) : Places c s (t.countLost c rec b) := by
  rw [State.countLost]
  split
  · exact (h.plainRow rfl rfl rfl).raise
  · exact h

theorem Places.placeHead {rec : Rec} (h : Places c s t) : Places c s (t.placeHead c rec).2 := by
  rcases hf : fitRecord (t.row c).length rec with _ | ⟨final, shortened⟩
  · simpa only [State.placeHead, hf] using h
  · rcases hu : (t.row c).usableTarget with _ | w
    · simp only [State.placeHead, hf, hu]
      split
      · exact h
      · split
        · exact h
        · have hrequest := h.requestSheet
          split <;> rename_i heq <;> rw [heq] at hrequest
          · exact hrequest
          · exact hrequest
          · split
            · exact hrequest.giveSheet.placeInto.countLost
            · exact hrequest.giveSheet
    · simp only [State.placeHead, hf, hu]
      split
      · exact h
      · exact h.placeInto.countLost

/-! ### The end of a take -/

/-- A row whose take has ended, before its write sheet is looked at (R16, R35). -/
def ChanRow.takeEnded (r : ChanRow) (sub : SubState) : ChanRow :=
  { r with
    sheet := none,
    placement := r.placement.map fun p => { p with closing := r.sheet },
    flush := if 0 < r.codec.pending then some r.codec.pending else none,
    codec := { r.codec with silent := 0, pending := 0 },
    ctx := { r.ctx with state := .busy sub },
    op := some (if sub = .closing then .suspending .placing else .checkpoint .placing) }

theorem Places.freeUnlive {n : Nat} (h : Places c s t) : Places c s (if t.live n = 0 then t.freeDead n else t) := by
  split
  · exact h.freeDead
  · exact h

/-- The end of a take frees its write sheet where no record of it is left, and does nothing else to the state. -/
theorem endTake_places (sub : SubState) : Places c (s.modRow c (ChanRow.takeEnded · sub)) (s.endTake c sub) := by
  cases hs : (s.row c).sheet with
  | none =>
    simp only [State.endTake, hs]
    exact .refl
  | some w =>
    simp only [State.endTake, hs]
    exact Places.freeUnlive .refl

theorem Places.endTake (h : Places c s t) (hrec : (t.row c).ctx.state = .recording) : Places c s (t.endTake c .saving) :=
  (h.modRow (f := (ChanRow.takeEnded · .saving)) rfl (.ended hrec rfl rfl (.inl rfl))).trans (endTake_places .saving)

theorem Places.discardHead {rec : Rec} {why : Notice} (h : Places c s t) : Places c s (t.discardHead c rec why) := by
  rw [State.discardHead]
  dsimp only
  split
  · next hrec =>
    refine Places.endTake (Places.plainRow (Places.raise (h.plainRow rfl rfl rfl)) rfl rfl rfl) ?_
    simp only [row_modRow_self, State.raise, row_modCtx_self]
    exact hrec
  · exact (h.plainRow rfl rfl rfl).raise

theorem Places.afterShortened (h : Places c s t) : Places c s (t.afterShortened c) := by
  rw [State.afterShortened]
  split
  · next hrec =>
    refine Places.endTake (h.raise.plainRow rfl rfl rfl) ?_
    simp only [row_modRow_self, State.raise, row_modCtx_self]
    exact hrec
  · exact h.raise

theorem Places.finishClosing (h : Places c s t) (hp : (t.row c).placing = true) : Places c s (t.finishClosing c) := by
  have hdrain : ∀ {v : State}, Places c s v → (v.row c).placing = true → Places c s (v.setStage c .draining) :=
    fun hv hvp => hv.modRow rfl (.stays rfl (fun _ => rfl) (.inr ⟨hvp, rfl⟩))
  rw [State.finishClosing]
  split
  · split
    · exact hdrain h.closeSheet hp
    · exact hdrain h hp
  · exact hdrain h hp

theorem Places.handFlush {n : Nat} (h : Places c s t) : Places c s (t.handFlush c n) := by
  have hflush : Places c s (t.modRow c fun r => { r with flush := none }) := h.plainRow rfl rfl rfl
  rw [State.handFlush]
  split
  · exact hflush.plainRow rfl rfl rfl
  · exact hflush.plainRow rfl rfl rfl

/-! ### Placement to rest -/

theorem Places.settle {n : Nat} (h : Places c s t) : Places c s (State.settle c n t) := by
  induction n generalizing t with
  | zero => exact h
  | succ n ih =>
    rw [State.settle]
    split
    · exact ih (h.plainRow rfl rfl rfl)
    · split
      · exact ih h.handFlush
      · next rec _ _ =>
        have hp := Places.placeHead (rec := rec) h
        split
        · rename_i heq; rw [heq] at hp; exact hp
        · rename_i heq; rw [heq] at hp; exact ih hp.discardHead
        · rename_i heq; rw [heq] at hp
          split
          · exact ih hp.afterShortened
          · exact ih hp
      · split
        · next hp => exact h.finishClosing (Bool.and_eq_true _ _ ▸ hp).1
        · exact h

theorem Places.settled (h : Places c s t) : Places c s (t.settled c) := h.settle

theorem Places.offer {rec : Rec} {tied : Bool} (h : Places c s t) : Places c s (t.offer c rec tied) := by
  rw [State.offer]
  split
  · exact Places.settled (h.plainRow rfl rfl rfl)
  · exact Places.settled (h.plainRow rfl rfl rfl)

theorem Places.offerAll {l : List Rec} {tied : Bool} (h : Places c s t) : Places c s (t.offerAll c tied l) := by
  induction l generalizing t tied with
  | nil => exact h
  | cons rec rest ih =>
    rw [State.offerAll]
    split
    · exact ih h.offer
    · exact h

/-- A take that ends by any cause but DISCARD. -/
theorem stopTake_places (sub : SubState) : Places c (s.modRow c (ChanRow.takeEnded · sub)) (s.stopTake c sub) :=
  (endTake_places sub).settled

theorem Places.stopTake (h : Places c s t) (hrec : (t.row c).ctx.state = .recording) :
    Places c s (t.stopTake c .saving) := (h.endTake hrec).settled

theorem Places.serveTake {n : Nat} (h : Places c s t) : Places c s (t.serveTake c n) := h.giveSheet.settled

theorem Places.refuseTake (h : Places c s t) : Places c s (t.refuseTake c) := by
  rw [State.refuseTake]
  dsimp only
  refine Places.settled ?_
  split
  · next hrec =>
    refine (Places.raise (h.plainRow rfl rfl rfl)).endTake ?_
    simp only [State.raise, row_modCtx_self, row_modRow_self]
    exact hrec
  · exact (h.plainRow rfl rfl rfl).raise

end Sys2Proof.Machine
end

section
/-! PROOFS. Frames that arrive: the line they move, the key they carry, and the channel that hears them. -/

namespace Sys2Proof.Machine

open Sys2Proof

variable {s t u v : State} {c d : Chan} {k : Timeslot} {samples : List Sample} {word : Option Word}

/-! ### Upward words (R115) -/

theorem framePresent_iff (w : Word) : framePresent (some w) = true ↔ w.toNat % 256 ≤ 1 ∧
    w.toNat / 2 ^ 24 = (w.toNat % 256) ^^^ (w.toNat / 2 ^ 8 % 256) ^^^ (w.toNat / 2 ^ 16 % 256) := by
  have htop : w.toNat / 2 ^ 24 % 2 ^ 8 = w.toNat / 2 ^ 24 := Nat.mod_eq_of_lt (by have := w.isLt; omega)
  rw [framePresent, Bool.and_eq_true, decide_eq_true_iff, beq_iff_eq, ← BitVec.toNat_inj]
  simp only [wordType, BitVec.extractLsb'_toNat, BitVec.toNat_xor, Nat.shiftRight_eq_div_pow, pow_zero, Nat.div_one,
    htop]

theorem wordType_eq (w : Word) : wordType w = w.toNat % 256 := by
  simp [wordType]

theorem wordCode_eq (w : Word) : wordCode w = w.toNat / 2 ^ 8 % 256 := by
  simp [wordCode, Nat.shiftRight_eq_div_pow]

theorem wordArg_eq (w : Word) : wordArg w = w.toNat / 2 ^ 16 % 256 := by
  simp [wordArg, Nat.shiftRight_eq_div_pow]

/-! ### The line after a frame (R116) -/

section Line

variable {recover good : Nat} {line : LineState}

theorem lineAfter_absent : lineAfter recover line good false = (.down, 0) := rfl

theorem lineAfter_up : lineAfter recover .up good true = (.up, good) := rfl

theorem lineAfter_down_recovers (h : recover ≤ 1) : lineAfter recover .down good true = (.up, 1) := if_pos h

theorem lineAfter_down_settles (h : 1 < recover) : lineAfter recover .down good true = (.settling, 1) :=
  if_neg (Nat.not_le.2 h)

theorem lineAfter_settling_recovers (h : recover ≤ good + 1) : lineAfter recover .settling good true = (.up, recover) :=
  if_pos h

theorem lineAfter_settling_stays (h : good + 1 < recover) :
    lineAfter recover .settling good true = (.settling, good + 1) := if_neg (Nat.not_le.2 h)

end Line

/-! ### A frame judged -/

/-- The state with one input timeslot replaced. -/
def State.withInput (s : State) (k : Timeslot) (i : InputSlot) : State := { s with inputs := s.inputs.set k i }

/-- The timeslot after a frame of a line that is owned: judged by its owner's recover count, the frame kept. -/
def State.judgedSlot (s : State) (k : Timeslot) (c : Chan) (line : LineState) (samples : List Sample)
    (word : Option Word) : InputSlot :=
  let next := lineAfter (s.row c).ctx.recover line s.inputs[k].good (framePresent word)
  { owner := some c, line := some next.1, good := next.2, assembly := some { samples := samples, word := word } }

theorem withInput_get {i : InputSlot} : (s.withInput k i).inputs[k] = i := by
  simp [State.withInput]

theorem withInput_withInput {i j : InputSlot} : (s.withInput k i).withInput k j = s.withInput k j := by
  simp [State.withInput]

theorem withInput_reports {i : InputSlot} (h : i.line = s.inputs[k].line) : (s.withInput k i).reports = s.reports := by
  have hlines : (s.inputs.set k i).map InputSlot.line = s.inputs.map InputSlot.line := by
    ext j hj
    simp only [Vector.getElem_map, Vector.getElem_set]
    split
    · next he => subst he; rw [h]; rfl
    · rfl
  have hlist : (s.inputs.set k i).toList.map InputSlot.line = s.inputs.toList.map InputSlot.line := by
    rw [← Vector.toList_map, hlines, Vector.toList_map]
  exact congrArg (fun l => (s.reports.1, l, s.reports.2.2)) hlist

theorem inputComplete_full (h : s.inputs[k].assembly ≠ none) : s.inputComplete k samples word = s :=
  if_pos (Option.isSome_iff_ne_none.2 h)

theorem inputComplete_empty (h : s.inputs[k].assembly = none) : s.inputComplete k samples word =
    if s.regs.part = .faulted then
      s.withInput k { s.inputs[k] with assembly := some { samples := samples, word := word } }
    else (s.withInput k { s.inputs[k] with assembly := some { samples := samples, word := word } }).judge
      k samples word := by
  rw [State.inputComplete, h]
  rfl

/-- A timeslot without an owner is not judged. -/
theorem judge_unowned (h : s.inputs[k].owner = none) : s.judge k samples word = s := by
  rw [State.judge]
  simp only [h]

/-- The frame of an owned timeslot: its line is judged, and a line that was UP delivers it or is lost. -/
theorem judge_owned {line : LineState} (ho : s.inputs[k].owner = some c) (hl : s.inputs[k].line = some line) :
    s.judge k samples word =
      let v := s.withInput k { s.judgedSlot k c line samples word with assembly := s.inputs[k].assembly }
      if line = .up then (if framePresent word = true then v.deliver c samples word else v.lineLost c) else v := by
  rw [State.judge]
  simp only [ho, hl]
  rfl

theorem inputComplete_owned {line : LineState} (hf : s.regs.part ≠ .faulted) (ha : s.inputs[k].assembly = none)
    (ho : s.inputs[k].owner = some c) (hl : s.inputs[k].line = some line) :
    s.inputComplete k samples word =
      let v := s.withInput k (s.judgedSlot k c line samples word)
      if line = .up then (if framePresent word = true then v.deliver c samples word else v.lineLost c) else v := by
  rw [inputComplete_empty ha, if_neg hf, judge_owned (by rw [withInput_get]; exact ho) (by rw [withInput_get]; exact hl),
    withInput_withInput, withInput_get]
  simp only [State.judgedSlot, withInput_get]
  rfl

/-! ### A frame heard, a key that arrives (R117) -/

/-- The codec unit after one more operation of channel work (R45). -/
def CodecUnit.worked (x : CodecUnit) : CodecUnit := { x with inputOps := x.inputOps + 1 }

theorem hearFrame_quiet (h : s.chanState c ≠ .recording) : s.hearFrame c samples = s := if_neg h

/-- A frame heard in a take is one operation of the codec and placement's work on its records. -/
theorem hearFrame_places (h : s.chanState c = .recording) :
    Places c { s with codec := s.codec.worked } (s.hearFrame c samples) := by
  let u : State := { s with codec := s.codec.worked }
  have hrun : ∀ run : PauseRun, Places c u (u.modRow c fun r => { r with codec := run }) := fun _ =>
    Places.refl.plainRow rfl rfl rfl
  rw [State.hearFrame, if_pos h]
  exact (hrun _).offerAll

theorem keyArrives_refused {key : Key} (ht : s.takesKeys c = true) (h : 8 ≤ (s.row c).ctx.keys.length) :
    s.keyArrives c key = s.raise c .refused := by
  rw [State.keyArrives, if_pos ht, if_neg (show ¬ (s.row c).ctx.keys.length < Config.keyLimit from Nat.not_lt.2 h)]

theorem keyArrives_joins {key : Key} (ht : s.takesKeys c = true) (h : (s.row c).ctx.keys.length < 8) :
    s.keyArrives c key = s.modCtx c fun x => { x with keys := x.keys ++ [key] } := by
  rw [State.keyArrives, if_pos ht, if_pos (show (s.row c).ctx.keys.length < Config.keyLimit from h)]

theorem keyArrives_discarded {key : Key} (h : s.takesKeys c = false) : s.keyArrives c key = s :=
  if_neg (Bool.not_eq_true _ ▸ h)

theorem takesKeys_iff : s.takesKeys c = true ↔
    s.regs.part = .running ∧ s.chanState c ≠ .unbound ∧ s.chanState c ≠ .busy .closing := by
  rw [State.takesKeys, Bool.and_eq_true, Bool.and_eq_true, beq_iff_eq, bne_iff_ne, bne_iff_ne, and_assoc]

theorem deliver_key {w : Word} (h : wordType w = 1) : s.deliver c samples (some w) =
    (s.hearFrame c samples).keyArrives c { code := wordCode w, arg := wordArg w } := if_pos h

theorem deliver_keyless (h : ∀ w, word = some w → wordType w ≠ 1) : s.deliver c samples word = s.hearFrame c samples := by
  cases word with
  | some w => exact if_neg (h w rfl)
  | none => rfl

/-! ### What a delivered frame leaves alone -/

/-- The work of the highway on a channel: rows, letters, sheets, engine, codec and changed alone. -/
structure HighwayWork (c : Chan) (s t : State) : Prop where
  rest : t = { s with
    chans := t.chans, letters := t.letters, sheets := t.sheets, engine := t.engine, codec := t.codec, desk := t.desk }
  desk : t.desk = s.desk
  others : OtherRows c s t

theorem HighwayWork.refl : HighwayWork c s s := ⟨rfl, rfl, fun _ _ => rfl⟩

theorem HighwayWork.trans (h : HighwayWork c s t) (g : HighwayWork c t u) : HighwayWork c s u :=
  ⟨by rw [g.rest, h.rest], g.desk.trans h.desk, h.others.trans g.others⟩

theorem HighwayWork.modRow {f : ChanRow → ChanRow} : HighwayWork c s (s.modRow c f) :=
  ⟨rfl, rfl, fun _ hd => row_modRow_ne hd⟩

theorem HighwayWork.modCtx {f : Context → Context} : HighwayWork c s (s.modCtx c f) := .modRow

theorem Places.highway (h : Places c s t) : HighwayWork c s t :=
  ⟨by rw [h.rest], by rw [h.rest], h.others⟩

theorem hearFrame_highway : HighwayWork c s (s.hearFrame c samples) := by
  by_cases h : s.chanState c = .recording
  · have hwork : HighwayWork c s { s with codec := s.codec.worked } := ⟨rfl, rfl, fun _ _ => rfl⟩
    exact hwork.trans (hearFrame_places h).highway
  · rw [hearFrame_quiet h]
    exact .refl

theorem keyArrives_highway {key : Key} : HighwayWork c s (s.keyArrives c key) := by
  rw [State.keyArrives]
  split
  · split
    · exact .modCtx
    · exact .modCtx
  · exact .refl

theorem deliver_highway : HighwayWork c s (s.deliver c samples word) := by
  cases word with
  | some w =>
    by_cases h : wordType w = 1
    · rw [deliver_key h]
      exact hearFrame_highway.trans keyArrives_highway
    · rw [deliver_keyless fun v hv => Option.some.inj hv ▸ h]
      exact hearFrame_highway
  | none => exact hearFrame_highway

theorem emptyAhead_highway : HighwayWork c s (s.emptyAhead c) := ⟨rfl, rfl, fun _ hd => row_modRow_ne hd⟩

theorem lineLost_highway : HighwayWork c s (s.lineLost c) := by
  rw [State.lineLost]
  split
  · exact HighwayWork.modRow.trans (stopTake_places .saving).highway
  · rw [State.stopPlayback]
    exact emptyAhead_highway.trans .modCtx
  · exact .refl

/-- The line of a channel in RECORDING falls: its take has ended into SAVING. -/
theorem lineLost_recording (h : s.chanState c = .recording) : (s.lineLost c).chanState c = .busy .saving := by
  have hlost : s.lineLost c = s.stopTake c .saving := by
    rw [State.lineLost, h]
  rw [hlost]
  have hrow := (stopTake_places (s := s) (c := c) .saving).row
  rw [row_modRow_self] at hrow
  cases hrow with
  | stays hst => exact hst
  | ended _ hst => exact hst

theorem lineLost_playing (h : s.chanState c = .playing) : (s.lineLost c).chanState c = .ready := by
  have hlost : s.lineLost c = s.stopPlayback c := by
    rw [State.lineLost, h]
  rw [hlost, State.chanState, State.stopPlayback, row_modCtx_self]

theorem lineLost_other (hr : s.chanState c ≠ .recording) (hp : s.chanState c ≠ .playing) : s.lineLost c = s := by
  rw [State.lineLost]
  split
  · next h => exact absurd h hr
  · next h => exact absurd h hp
  · rfl

/-- Settles O15: the judged timeslot by `lineAfter`, its row by the branch of `judge` that the line takes. -/
theorem inputFramesMoveTheLine : Obligations.InputFramesMoveTheLine := by
  unfold Obligations.InputFramesMoveTheLine
  refine ⟨⟨rfl, framePresent_iff⟩, fun s k samples word => ⟨fun h => ?_, fun ha hor => ?_⟩,
    fun s k c samples word old hf hs ha ho hl => ?_⟩
  · exact (congrArg (done s) (inputComplete_full h)).trans (done_same rfl)
  · have hfill : s.inputComplete k samples word =
        s.withInput k { s.inputs[k] with assembly := some { samples := samples, word := word } } := by
      rw [inputComplete_empty ha]
      split
      · rfl
      · next hf => exact judge_unowned (by rw [withInput_get]; exact hor.resolve_left hf)
    exact (congrArg (done s) hfill).trans (done_same (withInput_reports rfl))
  · intro count good
    let v := s.withInput k (s.judgedSlot k c old samples word)
    have hx := inputComplete_owned (samples := samples) (word := word) hf ha ho hl
    dsimp only at hx
    have hwork : HighwayWork c v (s.inputComplete k samples word) := by
      rw [hx]
      split
      · split
        · exact deliver_highway
        · exact lineLost_highway
      · exact .refl
    obtain ⟨x, hxe⟩ : ∃ x, s.inputComplete k samples word = x := ⟨_, rfl⟩
    rw [hxe] at hx hwork
    have hregs : x.regs = s.regs := by rw [hwork.rest]; rfl
    have hslot : x.inputs = v.inputs := by rw [hwork.rest]
    obtain ⟨d, hd, hrep⟩ := done_desk (s := s) (u := x) (by rw [hregs]; exact hs) (hwork.desk.trans rfl)
    have hnext : ∀ {present : Bool}, framePresent word = present →
        ∀ {line' good'}, lineAfter count old good present = (line', good') →
        (lineAfter count old good (framePresent word)).1 = line' ∧
          (lineAfter count old good (framePresent word)).2 = good' := fun hp _ _ hl => by
      rw [hp, hl]
      exact ⟨rfl, rfl⟩
    have hlost : old = .up → framePresent word = false → x = v.lineLost c := fun ho hp => by
      rw [hx, if_pos ho, if_neg (by rw [hp]; exact Bool.false_ne_true)]
    refine ⟨{ x with desk := d }, _, _, (congrArg (done s) hxe).trans hd, hslot, fun hp => hnext hp lineAfter_absent,
      fun hp ho => hnext hp (by rw [ho]; exact lineAfter_up), fun hp ho hc => hnext hp (ho ▸ lineAfter_down_recovers hc),
      fun hp ho hc => hnext hp (ho ▸ lineAfter_down_settles hc),
      fun hp ho hc => hnext hp (ho ▸ lineAfter_settling_stays hc),
      fun hp ho hc => hnext hp (ho ▸ lineAfter_settling_recovers hc), fun h => ?_, fun ho hp hr => ?_,
      fun ho hp hr => ?_, hwork.others⟩
    · have hv : x = v := by
        by_cases ho : old = .up
        · obtain ⟨hp, hr, hpl⟩ := h.resolve_left (not_not_intro ho)
          rw [hlost ho hp]
          exact lineLost_other hr hpl
        · rw [hx, if_neg ho]
      rw [hv]
      exact ⟨rfl, hv ▸ hrep⟩
    · exact (congrArg (State.chanState · c) (hlost ho hp)).trans (lineLost_recording hr)
    · exact (congrArg (State.chanState · c) (hlost ho hp)).trans (lineLost_playing hr)

/-! ### A key that arrives -/

/-- The context of a channel whose take goes on, or ends, under placement. -/
theorem Places.keys (h : Places c s t) : (t.row c).ctx.keys = (s.row c).ctx.keys := by
  rw [h.context]

theorem hearFrame_keys : ((s.hearFrame c samples).row c).ctx.keys = (s.row c).ctx.keys := by
  by_cases h : s.chanState c = .recording
  · exact (hearFrame_places h).keys
  · rw [hearFrame_quiet h]

/-- A take that hears a frame goes on or ends into SAVING, so that it takes keys as before. -/
theorem hearFrame_recording (h : s.chanState c = .recording) :
    (s.hearFrame c samples).chanState c = .recording ∨ (s.hearFrame c samples).chanState c = .busy .saving := by
  cases (hearFrame_places (samples := samples) h).row with
  | stays hst => exact .inl (hst.trans h)
  | ended _ hst => exact .inr hst

theorem hearFrame_regs : (s.hearFrame c samples).regs = s.regs := by
  rw [hearFrame_highway.rest]

/-- Settles O16: the frame is heard, then its key joins, is refused or is discarded by `takesKeys`. -/
theorem keysJoinTheQueue : Obligations.KeysJoinTheQueue := by
  unfold Obligations.KeysJoinTheQueue
  intro s k c samples w ha ho hl hp hw x key heard
  have hkey : s.regs.part ≠ .faulted →
      s.inputComplete k samples (some w) = (heard.hearFrame c samples).keyArrives c key := fun hf => by
    have hjudged : s.withInput k (s.judgedSlot k c .up samples (some w)) = heard := by
      rw [State.judgedSlot, hp]
      simp only [lineAfter_up, ← ho, ← hl]
      rfl
    rw [inputComplete_owned hf ha ho hl]
    dsimp only
    rw [if_pos rfl, if_pos hp, hjudged, deliver_key (by rw [wordType_eq]; exact hw), wordCode_eq, wordArg_eq]
  have hreports : heard.reports = s.reports := withInput_reports rfl
  have hheard : s.chanState c ≠ .recording → heard.hearFrame c samples = heard := fun h =>
    hearFrame_quiet (s := heard) h
  have hwork : HighwayWork c heard ((heard.hearFrame c samples).keyArrives c key) :=
    hearFrame_highway.trans keyArrives_highway
  have htold : s.regs.part ≠ .faulted → s.regs.part ≠ .starting → ∃ d,
      exec (.inputFrame k samples (some w)) s =
        .next { (heard.hearFrame c samples).keyArrives c key with desk := d } := fun hf hs => by
    obtain ⟨d, hd, -⟩ := done_desk (s := s) (u := (heard.hearFrame c samples).keyArrives c key)
      (by rw [hwork.rest]; exact hs) (hwork.desk.trans rfl)
    exact ⟨d, (congrArg (done s) (hkey hf)).trans hd⟩
  have hkeys : ((heard.hearFrame c samples).row c).ctx.keys = x.keys := hearFrame_keys
  refine ⟨fun hpart => ?_, fun hpart => ?_⟩
  · have hdrop : (heard.hearFrame c samples).keyArrives c key = heard.hearFrame c samples :=
      keyArrives_discarded (Bool.eq_false_iff.2 fun ht => by
        have hrunning := (takesKeys_iff.1 ht).1
        rw [hearFrame_regs, show heard.regs.part = .quiescing from hpart] at hrunning
        exact absurd hrunning (by decide))
    by_cases hr : s.chanState c = .recording
    · obtain ⟨d, hd⟩ := htold (by simp [hpart]) (by simp [hpart])
      exact ⟨_, hd, hwork.others, fun hn => absurd hr hn, (congrArg (fun u => (u.row c).ctx.keys) hdrop).trans hkeys⟩
    · refine ⟨heard, (congrArg (done s) ?_).trans (done_same hreports), fun _ _ => rfl, fun _ => rfl, rfl⟩
      rw [hkey (by simp [hpart]), hdrop, hheard hr]
  · by_cases hr : s.chanState c = .recording
    · obtain ⟨d, hd⟩ := htold (by simp [hpart]) (by simp [hpart])
      have htakes : (heard.hearFrame c samples).takesKeys c = true :=
        takesKeys_iff.2 ⟨(congrArg Registers.part hearFrame_regs).trans hpart, by
          rcases hearFrame_recording (s := heard) (samples := samples) hr with h | h <;> rw [h] <;> decide, by
          rcases hearFrame_recording (s := heard) (samples := samples) hr with h | h <;> rw [h] <;> decide⟩
      refine ⟨_, hd, hwork.others, fun h => ?_, fun h => absurd hr h, fun h => absurd hr h, fun _ hlen => ?_,
        fun _ hlen => ?_⟩
      · rcases h with h | h <;> rw [h] at hr <;> exact absurd hr (by decide)
      · rw [row_desk, keyArrives_joins htakes (by rw [hkeys]; exact hlen), row_modCtx_self, hkeys]
      · rw [row_desk, keyArrives_refused htakes (by rw [hkeys]; exact hlen), State.raise, row_modCtx_self]
        exact ⟨hkeys, rfl⟩
    · have hexec : exec (.inputFrame k samples (some w)) s = done s (heard.keyArrives c key) :=
        congrArg (done s) ((hkey (by simp [hpart])).trans (by rw [hheard hr]))
      by_cases hopen : s.chanState c = .unbound ∨ s.chanState c = .busy .closing
      · have hdrop : heard.keyArrives c key = heard := keyArrives_discarded (Bool.eq_false_iff.2 fun ht =>
          hopen.elim (takesKeys_iff.1 ht).2.1 (takesKeys_iff.1 ht).2.2)
        refine ⟨heard, hexec.trans ((congrArg (done s) hdrop).trans (done_same hreports)), fun _ _ => rfl,
          fun _ => rfl, fun _ hu hc => absurd hopen (not_or.2 ⟨hu, hc⟩), fun _ hu hc => absurd hopen (not_or.2 ⟨hu, hc⟩),
          fun h => absurd h hr, fun h => absurd h hr⟩
      · obtain ⟨hu, hc⟩ := not_or.1 hopen
        have htakes : heard.takesKeys c = true := takesKeys_iff.2 ⟨hpart, hu, hc⟩
        have hsets : ∀ y : Context, heard.keyArrives c key = heard.setRow c { s.row c with ctx := y } →
            ∃ t, exec (.inputFrame k samples (some w)) s = .next t ∧ ContextBecomes heard t c y := fun y hy => by
          obtain ⟨t, ht, hrow, -, -⟩ := done_row (s := s) (b := heard)
            (show s.regs.part ≠ .starting by simp [hpart]) hreports rfl hy
          exact ⟨t, hexec.trans ht, hrow⟩
        by_cases hlen : x.keys.length < 8
        · obtain ⟨t, ht, hrow⟩ := hsets { x with keys := x.keys ++ [key] } (keyArrives_joins htakes hlen)
          exact ⟨t, ht, hrow.others, fun h => absurd h hopen, fun _ _ _ _ => hrow,
            fun _ _ _ h => absurd hlen (Nat.not_lt.2 h), fun h => absurd h hr, fun h => absurd h hr⟩
        · obtain ⟨t, ht, hrow⟩ := hsets { x with transient := some (.refused, 32) }
            (keyArrives_refused htakes (Nat.le_of_not_lt hlen))
          exact ⟨t, ht, hrow.others, fun h => absurd h hopen, fun _ _ _ h => absurd h hlen, fun _ _ _ _ => hrow,
            fun h => absurd h hr, fun h => absurd h hr⟩

end Sys2Proof.Machine
end

section
/-! PROOFS. The frame boundary: lines judged for missing frames, panel steps, and what every output carries. -/

namespace Sys2Proof.Machine

open Sys2Proof

variable {s t u v : State} {c d : Chan} {j k : Timeslot}

/-! ### Lines that no frame reached -/

/-- What the judging of missing frames leaves: the units but letters, sheets, engine and codec; the timeslots' owners
and assemblies; and no channel enters PLAYING. -/
structure Judged (s t : State) : Prop where
  rest : t = { s with
    chans := t.chans, inputs := t.inputs, letters := t.letters, sheets := t.sheets, engine := t.engine,
    codec := t.codec }
  slots : ∀ k : Timeslot, t.inputs[k].owner = s.inputs[k].owner ∧ t.inputs[k].assembly = s.inputs[k].assembly
  playing : ∀ c, t.chanState c = .playing → s.chanState c = .playing

theorem Judged.refl : Judged s s := ⟨rfl, fun _ => ⟨rfl, rfl⟩, fun _ => id⟩

theorem Judged.trans (h : Judged s t) (g : Judged t u) : Judged s u where
  rest := by rw [g.rest, h.rest]
  slots k := ⟨(g.slots k).1.trans (h.slots k).1, (g.slots k).2.trans (h.slots k).2⟩
  playing c hc := h.playing c (g.playing c hc)

theorem Judged.withInput {i : InputSlot} (ho : i.owner = s.inputs[k].owner) (ha : i.assembly = s.inputs[k].assembly) :
    Judged s (s.withInput k i) where
  rest := rfl
  slots j := by
    simp only [State.withInput, Fin.getElem_fin, Vector.getElem_set]
    split
    · next he => simp only [← he]; exact ⟨ho, ha⟩
    · exact ⟨rfl, rfl⟩
  playing _ := id

theorem Judged.of_highway (h : HighwayWork c s t) (hp : t.chanState c = .playing → s.chanState c = .playing) :
    Judged s t where
  rest := by
    have hdesk := h.desk
    conv_lhs => rw [h.rest]
    rw [hdesk]
    rw [h.rest]
  slots k := by
    rw [h.rest]
    exact ⟨rfl, rfl⟩
  playing d := by
    by_cases hd : d = c
    · rw [hd]; exact hp
    · rw [State.chanState, h.others d hd]; exact id

theorem lineLost_playing_was : (s.lineLost c).chanState c = .playing → s.chanState c = .playing := by
  by_cases hr : s.chanState c = .recording
  · rw [lineLost_recording hr]
    exact fun h => absurd h (by simp)
  · by_cases hp : s.chanState c = .playing
    · exact fun _ => hp
    · rw [lineLost_other hr hp]
      exact id

/-- A missing frame is judged absent: the line falls, and takes and playback end. -/
theorem judgeMissing_judged : Judged s (s.judgeMissing k) := by
  rw [State.judgeMissing]
  split
  · cases ho : s.inputs[k].owner with
    | none =>
      rw [judge_unowned ho]
      exact .refl
    | some c =>
      cases hl : s.inputs[k].line with
      | none =>
        rw [State.judge]
        simp only [ho, hl]
        exact .refl
      | some line =>
        rw [judge_owned ho hl]
        have hslot : Judged s (s.withInput k { s.judgedSlot k c line zeroSamples none with
            assembly := s.inputs[k].assembly }) := .withInput ho.symm rfl
        dsimp only
        split
        · rw [if_neg (by simp [framePresent])]
          exact hslot.trans (.of_highway lineLost_highway lineLost_playing_was)
        · exact hslot
  · exact .refl

theorem judged_all (l : List Timeslot) : Judged s (l.foldl State.judgeMissing s) := by
  induction l generalizing s with
  | nil => exact .refl
  | cons k l ih => exact judgeMissing_judged.trans ih

/-- Where every owned timeslot has its frame, none is missing. -/
theorem judgeMissing_none (h : ∀ k : Timeslot, s.inputs[k].owner ≠ none → s.inputs[k].assembly ≠ none)
    (l : List Timeslot) : l.foldl State.judgeMissing s = s := by
  induction l with
  | nil => rfl
  | cons k l ih =>
    have hone : s.judgeMissing k = s := by
      rw [State.judgeMissing]
      split
      · next ha =>
        have hnone := Option.isNone_iff_eq_none.1 ha
        exact judge_unowned (by_contra fun ho => h k ho hnone)
      · rfl
    rw [List.foldl_cons, hone, ih]

/-! ### What composing an output leaves alone -/

/-- A context under playback: cursor, play position and state alone may differ. -/
def PlayContext (x y : Context) : Prop :=
  y = { x with state := y.state, cursor := y.cursor, playPos := y.playPos }

theorem PlayContext.trans {x y z : Context} (h : PlayContext x y) (g : PlayContext y z) : PlayContext x z := by
  unfold PlayContext at h g ⊢
  rw [g, h]

structure Composed (s t : State) : Prop where
  rest : t = { s with chans := t.chans, outputs := t.outputs, engine := t.engine, codec := t.codec }
  owners : ∀ k : Timeslot, t.outputs[k].owner = s.outputs[k].owner
  context : ∀ d, PlayContext (s.row d).ctx (t.row d).ctx
  playing : ∀ d, t.chanState d = .playing → s.chanState d = .playing

theorem Composed.refl : Composed s s := ⟨rfl, fun _ => rfl, fun _ => rfl, fun _ => id⟩

theorem Composed.trans (h : Composed s t) (g : Composed t u) : Composed s u where
  rest := by rw [g.rest, h.rest]
  owners k := (g.owners k).trans (h.owners k)
  context d := (h.context d).trans (g.context d)
  playing d hd := h.playing d (g.playing d hd)

theorem Composed.modRow {f : ChanRow → ChanRow} (hc : PlayContext (s.row c).ctx (f (s.row c)).ctx)
    (hp : (f (s.row c)).ctx.state = .playing → (s.row c).ctx.state = .playing) : Composed s (s.modRow c f) where
  rest := rfl
  owners _ := rfl
  context d := by
    rw [row_modRow]
    split
    · next hd => rw [hd]; exact hc
    · rfl
  playing d := by
    rw [State.chanState, row_modRow]
    split
    · next hd => rw [hd]; exact hp
    · exact id

theorem Composed.engine {x : Engine} : Composed s { s with engine := x } := ⟨rfl, fun _ => rfl, fun _ => rfl, fun _ => id⟩

theorem Composed.codec {x : CodecUnit} : Composed s { s with codec := x } := ⟨rfl, fun _ => rfl, fun _ => rfl, fun _ => id⟩

theorem endPlayback_composed : Composed s (s.endPlayback c) := by
  have hgone : Composed s (s.readsGone c) := .engine
  have hsilent : Composed (s.readsGone c) ((s.readsGone c).setRow c (s.row c).silent) :=
    Composed.modRow (f := fun _ => (s.row c).silent) rfl id
  rw [State.endPlayback, emptyAhead_eq]
  exact (hgone.trans hsilent).trans (Composed.modRow (f := fun r => { r with ctx := { r.ctx with
    state := .ready, playPos := none, cursor := (s.row c).length } }) rfl (fun h => absurd h (by simp)))

theorem askPlayback_composed : Composed s (State.askPlayback c 4 s) := by
  obtain ⟨more, -, hrow, hothers, -, hrest⟩ := askPlayback_asks c 4 s (Nat.le_add_left _ _)
  have hctx : ∀ d, ((State.askPlayback c 4 s).row d).ctx = (s.row d).ctx := fun d => by
    by_cases hd : d = c
    · rw [hd, hrow]
    · rw [hothers d hd]
  exact ⟨by rw [hrest], fun k => by rw [hrest], fun d => by rw [hctx]; rfl,
    fun d => by rw [State.chanState, hctx]; exact id⟩

theorem endRecord_composed : Composed s (s.endRecord c) := by
  rw [State.endRecord]
  refine (Composed.modRow (c := c) (f := fun r => { r with
    ahead := r.ahead.tail, ctx := { r.ctx with cursor := r.ctx.playPos.getD r.ctx.cursor } }) rfl id).trans ?_
  split
  · exact endPlayback_composed
  · exact askPlayback_composed

/-- The state a frame of a record read leaves before its record may end: the play position one further. -/
def State.played (s : State) (c : Chan) (data : List Byte) (p : Nat) : State :=
  State.modCtx (if isPause data then s else { s with codec := s.codec.worked }) c
    fun x => { x with playPos := some (p + 1) }

/-- No frame of a record: output has not begun, the record is late, or there is no play position. -/
theorem playFrame_still (h : (s.row c).began = false ∨ (∀ q, (s.row c).ahead.head? = some q → q.data = none) ∨
    (s.row c).ctx.playPos = none) : s.playFrame c = (zeroSamples, s) := by
  rw [State.playFrame]
  dsimp only
  split
  · next place more p hbegan hahead hpos =>
    have hlate : place.data = none := by
      rcases h with h | h | h
      · exact absurd (h.symm.trans hbegan) (by decide)
      · exact h place (by rw [hahead]; rfl)
      · exact absurd (h.symm.trans hpos) (by simp)
    rw [hlate]
  · rfl

/-- A frame of the record at the play position. -/
theorem playFrame_plays {q : PlayPlace} {tail : List PlayPlace} {data : List Byte} {p : Nat}
    (hb : (s.row c).began = true) (ha : (s.row c).ahead = q :: tail) (hd : q.data = some data)
    (hp : (s.row c).ctx.playPos = some p) : s.playFrame c =
      (if isPause data then zeroSamples else toSamples (decodeVoice data),
        if q.start + q.frames ≤ p + 1 then (s.played c data p).endRecord c else s.played c data p) := by
  rw [State.playFrame]
  simp only [hb, ha, hp, hd, State.played]
  split <;> rfl

theorem played_composed {data : List Byte} {p : Nat} : Composed s (s.played c data p) := by
  rw [State.played]
  refine Composed.trans (t := if isPause data then s else { s with codec := s.codec.worked }) ?_
    (Composed.modRow (f := fun r => { r with ctx := { r.ctx with playPos := some (p + 1) } }) rfl id)
  split
  · exact .refl
  · exact .codec

/-- A frame of a playing channel is a frame of the record at the play position, or none. -/
theorem playFrame_cases : s.playFrame c = (zeroSamples, s) ∨ ∃ q tail data p, (s.row c).began = true ∧
    (s.row c).ahead = q :: tail ∧ q.data = some data ∧ (s.row c).ctx.playPos = some p := by
  cases hb : (s.row c).began with
  | false => exact .inl (playFrame_still (.inl hb))
  | true =>
    cases ha : (s.row c).ahead with
    | nil => exact .inl (playFrame_still (.inr (.inl (by rw [ha]; nofun))))
    | cons q tail =>
      cases hd : q.data with
      | none => exact .inl (playFrame_still (.inr (.inl (by rw [ha]; rintro _ ⟨⟩; exact hd))))
      | some data =>
        cases hp : (s.row c).ctx.playPos with
        | none => exact .inl (playFrame_still (.inr (.inr hp)))
        | some p => exact .inr ⟨q, tail, data, p, rfl, rfl, hd, rfl⟩

theorem playFrame_composed : Composed s (s.playFrame c).2 := by
  rcases playFrame_cases (s := s) (c := c) with h | ⟨q, tail, data, p, hb, ha, hd, hp⟩
  · rw [h]
    exact .refl
  · rw [playFrame_plays hb ha hd hp]
    dsimp only
    split
    · exact played_composed.trans endRecord_composed
    · exact played_composed

/-! ### One output timeslot -/

/-- The state with an output timeslot's samples and word replaced. -/
def State.withOutput (s : State) (k : Timeslot) (samples : List Sample) (word : List Byte) : State :=
  { s with outputs := s.outputs.set k { s.outputs[k] with samples := samples, word := word } }

theorem withOutput_composed {samples : List Sample} {word : List Byte} : Composed s (s.withOutput k samples word) where
  rest := rfl
  owners j := by
    simp only [State.withOutput, Fin.getElem_fin, Vector.getElem_set]
    split
    · next he => simp only [← he]
    · rfl
  context _ := rfl
  playing _ := id

theorem withOutput_get {samples : List Sample} {word : List Byte} : (s.withOutput k samples word).outputs[k] =
    { s.outputs[k] with samples := samples, word := word } := by
  simp [State.withOutput]

theorem withOutput_get_ne {samples : List Sample} {word : List Byte} (h : j ≠ k) :
    (s.withOutput k samples word).outputs[j] = s.outputs[j] := by
  simp only [State.withOutput, Fin.getElem_fin, Vector.getElem_set]
  exact if_neg fun he => h (Fin.ext he.symm)

theorem composeOutput_unowned (h : s.outputs[k].owner = none) :
    s.composeOutput k = s.withOutput k zeroSamples allOffWord := by
  rw [State.composeOutput, h]
  rfl

theorem composeOutput_blank (h : s.outputs[k].owner = some c) (hl : s.lineOf c ≠ some .up) :
    s.composeOutput k = s.withOutput k zeroSamples blankWord := by
  rw [State.composeOutput, h]
  exact if_neg hl

theorem composeOutput_quiet (h : s.outputs[k].owner = some c) (hl : s.lineOf c = some .up)
    (hp : s.chanState c ≠ .playing) : s.composeOutput k = s.withOutput k zeroSamples (s.row c).ctx.panel := by
  rw [State.composeOutput, h]
  refine (if_pos hl).trans ?_
  dsimp only
  split
  · next he => exact absurd he hp
  · rfl

theorem composeOutput_plays (h : s.outputs[k].owner = some c) (hl : s.lineOf c = some .up)
    (hp : s.chanState c = .playing) :
    s.composeOutput k = (s.playFrame c).2.withOutput k (s.playFrame c).1 (s.row c).ctx.panel := by
  rw [State.composeOutput, h]
  refine (if_pos hl).trans ?_
  dsimp only
  rw [hp]
  rfl

/-- The three kinds of owned outputs and the unowned one, each as its work on the state. -/
theorem composeOutput_cases (s : State) (k : Timeslot) :
    (∃ samples word, s.composeOutput k = s.withOutput k samples word) ∨
      ∃ c, s.outputs[k].owner = some c ∧ s.lineOf c = some .up ∧ s.chanState c = .playing := by
  cases ho : s.outputs[k].owner with
  | none => exact .inl ⟨_, _, composeOutput_unowned ho⟩
  | some c =>
    by_cases hl : s.lineOf c = some .up
    · by_cases hp : s.chanState c = .playing
      · exact .inr ⟨c, rfl, hl, hp⟩
      · exact .inl ⟨_, _, composeOutput_quiet ho hl hp⟩
    · exact .inl ⟨_, _, composeOutput_blank ho hl⟩

theorem composeOutput_composed : Composed s (s.composeOutput k) := by
  rcases composeOutput_cases s k with ⟨samples, word, h⟩ | ⟨c, ho, hl, hp⟩
  · rw [h]
    exact withOutput_composed
  · rw [composeOutput_plays ho hl hp]
    exact playFrame_composed.trans withOutput_composed

theorem composed_all (l : List Timeslot) : Composed s (l.foldl State.composeOutput s) := by
  induction l generalizing s with
  | nil => exact .refl
  | cons k l ih => exact composeOutput_composed.trans ih

theorem endRecord_outputs : (s.endRecord c).outputs = s.outputs := by
  rw [State.endRecord]
  dsimp only
  split
  · rfl
  · obtain ⟨-, -, -, -, -, hrest⟩ := askPlayback_asks c 4 (s.modRow c fun r => { r with
      ahead := r.ahead.tail, ctx := { r.ctx with cursor := r.ctx.playPos.getD r.ctx.cursor } }) (Nat.le_add_left _ _)
    exact (congrArg State.outputs hrest).trans rfl

theorem playFrame_outputs : (s.playFrame c).2.outputs = s.outputs := by
  rcases playFrame_cases (s := s) (c := c) with h | ⟨q, tail, data, p, hb, ha, hd, hp⟩
  · rw [h]
  · have hplayed : (s.played c data p).outputs = s.outputs := by
      rw [State.played]
      split <;> rfl
    rw [playFrame_plays hb ha hd hp]
    dsimp only
    split
    · exact endRecord_outputs.trans hplayed
    · exact hplayed

theorem composeOutput_get_ne (h : j ≠ k) : (s.composeOutput k).outputs[j] = s.outputs[j] := by
  rcases composeOutput_cases s k with ⟨samples, word, he⟩ | ⟨c, ho, hl, hp⟩
  · rw [he, withOutput_get_ne h]
  · rw [composeOutput_plays ho hl hp, withOutput_get_ne h, playFrame_outputs]

theorem composeAll_get {l : List Timeslot} (h : k ∉ l) : (l.foldl State.composeOutput s).outputs[k] = s.outputs[k] := by
  induction l generalizing s with
  | nil => rfl
  | cons j l ih =>
    rw [List.mem_cons, not_or] at h
    rw [List.foldl_cons, ih h.2, composeOutput_get_ne h.1]

/-- Every timeslot has its turn once: what stands before it, and what comes behind. -/
theorem composeAll_at (s : State) (k : Timeslot) : ∃ before after, List.finRange 64 = before ++ k :: after ∧
    k ∉ before ∧ k ∉ after ∧ (List.finRange 64).foldl State.composeOutput s =
      after.foldl State.composeOutput ((before.foldl State.composeOutput s).composeOutput k) := by
  obtain ⟨before, after, hl⟩ := List.append_of_mem (List.mem_finRange k)
  have hnodup := List.nodup_finRange 64
  rw [hl, List.nodup_append, List.nodup_cons] at hnodup
  obtain ⟨-, ⟨hafter, -⟩, hdisjoint⟩ := hnodup
  exact ⟨before, after, hl, fun h => hdisjoint k h k List.mem_cons_self rfl, hafter, by
    rw [hl, List.foldl_append, List.foldl_cons]⟩

/-! ### The boundary as its steps -/

/-- The panel steps, on the state that the judging of missing frames left. -/
def State.panelled (t : State) : State :=
  { t.emptyAssemblies with chans := t.chans.map (ChanRow.panelStep t.sheets.hold) }

theorem row_panelled : t.panelled.row c = (t.row c).panelStep t.sheets.hold := row_mapRows (s := t.emptyAssemblies)

/-- The state whose outputs are composed: missing frames judged, assemblies empty, panels stepped. -/
def State.stepped (s : State) : State := ((List.finRange 64).foldl State.judgeMissing s).panelled

/-- The state with every output composed. -/
def State.composed (s : State) : State := (List.finRange 64).foldl State.composeOutput s.stepped

theorem boundary_faulted (h : s.regs.part = .faulted) : s.boundary = s.emptyAssemblies.silence := if_pos h

theorem boundary_works (h : s.regs.part ≠ .faulted) : s.boundary = s.composed.shareCodec.pace := by
  unfold State.boundary State.composed State.stepped State.panelled
  rw [if_neg h]
  generalize (List.finRange 64).foldl State.judgeMissing s = t
  rfl

theorem pace_eq : ∃ d, s.pace = { s with desk := d } := by
  rw [State.pace]
  split
  · split
    · exact ⟨_, rfl⟩
    · exact ⟨_, rfl⟩
  · exact ⟨_, rfl⟩

theorem shareCodec_pace (s : State) : ∃ x d, s.shareCodec.pace = { s with codec := x, desk := d } := by
  obtain ⟨d, hd⟩ := pace_eq (s := s.shareCodec)
  exact ⟨_, d, hd⟩

theorem report_eq_desk (s t : State) : ∃ d, s.report t = { t with desk := d } := by
  rw [State.report]
  split
  · exact ⟨_, rfl⟩
  · exact ⟨_, rfl⟩

/-- A frame boundary outside FAULTED answers the composed state, codec and desk unit apart. -/
theorem frameBoundary_eq (h : s.regs.part ≠ .faulted) :
    ∃ x d, exec .frameBoundary s = .next { s.composed with codec := x, desk := d } := by
  obtain ⟨x, d, hb⟩ := shareCodec_pace s.composed
  obtain ⟨e, he⟩ := report_eq_desk s s.boundary
  exact ⟨x, e, congrArg Host.Outcome.next (he.trans (by rw [boundary_works h, hb]))⟩

/-- The panel step of a bound row: its lamps and panel, and the notice lowered. -/
theorem panelStep_bound {hold : Bool} {r : ChanRow} (h : r.ctx.state ≠ .unbound) : r.panelStep hold =
    { r with ctx := { r.ctx.advanceLamps hold with
      panel := panelWord { r with ctx := r.ctx.advanceLamps hold } hold
      transient := r.ctx.transient.bind fun x => if x.2 ≤ 1 then none else some (x.1, x.2 - 1) } } := by
  have hlower : ∀ x : Context, x.lowerNotice =
      { x with transient := x.transient.bind fun n => if n.2 ≤ 1 then none else some (n.1, n.2 - 1) } := fun x => by
    unfold Context.lowerNotice
    cases hx : x.transient with
    | none => exact congrArg (fun n => { x with transient := n }) hx
    | some n => rfl
  exact (if_neg h).trans (congrArg (fun x => { r with ctx := x }) (hlower _))

theorem panelStep_unbound {hold : Bool} {r : ChanRow} (h : r.ctx.state = .unbound) : r.panelStep hold = r := if_pos h

theorem panelStep_state {hold : Bool} {r : ChanRow} : (r.panelStep hold).ctx.state = r.ctx.state := by
  by_cases h : r.ctx.state = .unbound
  · rw [panelStep_unbound h]
  · rw [panelStep_bound h]
    rfl

theorem panelled_rest : t.panelled = { t with chans := t.panelled.chans, inputs := t.panelled.inputs } := rfl

theorem stepped_rest : s.stepped = { s with
    chans := s.stepped.chans, inputs := s.stepped.inputs, letters := s.stepped.letters, sheets := s.stepped.sheets,
    engine := s.stepped.engine, codec := s.stepped.codec } := by
  have hj := (judged_all (s := s) (List.finRange 64)).rest
  rw [State.stepped]
  generalize (List.finRange 64).foldl State.judgeMissing s = t at hj
  rw [hj]
  rfl

theorem stepped_inputs (k : Timeslot) :
    s.stepped.inputs[k].owner = s.inputs[k].owner ∧ s.stepped.inputs[k].assembly = none := by
  obtain ⟨ho, -⟩ := (judged_all (s := s) (List.finRange 64)).slots k
  rw [State.stepped]
  generalize (List.finRange 64).foldl State.judgeMissing s = t at ho
  simp only [State.panelled, State.emptyAssemblies, Fin.getElem_fin, Vector.getElem_map]
  exact ⟨ho, trivial⟩

theorem stepped_playing (h : s.stepped.chanState c = .playing) : s.chanState c = .playing := by
  have hp := (judged_all (s := s) (List.finRange 64)).playing c
  rw [State.stepped] at h
  generalize (List.finRange 64).foldl State.judgeMissing s = t at hp h
  rw [State.chanState, row_panelled, panelStep_state] at h
  exact hp h

/-- Outside FAULTED the boundary's composed state, by the timeslot it is looked at. -/
theorem composed_composed : Composed s.stepped s.composed := composed_all _

theorem composed_rest : s.composed = { s with
    chans := s.composed.chans, inputs := s.composed.inputs, outputs := s.composed.outputs,
    letters := s.composed.letters, sheets := s.composed.sheets, engine := s.composed.engine,
    codec := s.composed.codec } := by
  have hr := composed_composed (s := s).rest
  have hs := stepped_rest (s := s)
  generalize s.composed = t at hr ⊢
  rw [hr, hs]

theorem Composed.lineOf (h : Composed s t) : t.lineOf c = s.lineOf c := by
  have hslot : (t.row c).ctx.inSlot = (s.row c).ctx.inSlot := by rw [h.context c]
  have hinputs : t.inputs = s.inputs := by rw [h.rest]
  rw [State.lineOf, State.lineOf, hslot, hinputs]

theorem Composed.panel (h : Composed s t) : (t.row c).ctx.panel = (s.row c).ctx.panel := by
  rw [h.context c]

/-- What the output of a timeslot carries once every output is composed. -/
theorem composed_output (s : State) (k : Timeslot) :
    (s.outputs[k].owner = none →
      s.composed.outputs[k].samples = zeroSamples ∧ s.composed.outputs[k].word = allOffWord) ∧
    ∀ c, s.outputs[k].owner = some c →
      (s.composed.lineOf c ≠ some .up →
        s.composed.outputs[k].samples = zeroSamples ∧ s.composed.outputs[k].word = blankWord) ∧
      (s.composed.lineOf c = some .up → s.composed.outputs[k].word = (s.composed.row c).ctx.panel) ∧
      (s.chanState c ≠ .playing → s.composed.outputs[k].samples = zeroSamples) := by
  obtain ⟨before, after, -, -, hafter, hall⟩ := composeAll_at s.stepped k
  have hbefore := composed_all (s := s.stepped) before
  have hone := composeOutput_composed (s := before.foldl State.composeOutput s.stepped) (k := k)
  have hrest := composed_all (s := (before.foldl State.composeOutput s.stepped).composeOutput k) after
  have hget := composeAll_get (s := (before.foldl State.composeOutput s.stepped).composeOutput k) hafter
  rw [← hall] at hrest hget
  change Composed _ s.composed at hrest
  change s.composed.outputs[k] = _ at hget
  have howner : (before.foldl State.composeOutput s.stepped).outputs[k].owner = s.outputs[k].owner :=
    (hbefore.owners k).trans (by rw [stepped_rest])
  have hplaying : ∀ c, (before.foldl State.composeOutput s.stepped).chanState c = .playing → s.chanState c = .playing :=
    fun c h => stepped_playing (hbefore.playing c h)
  generalize before.foldl State.composeOutput s.stepped = u at *
  rw [hget]
  refine ⟨fun ho => ?_, fun c ho => ?_⟩
  · rw [composeOutput_unowned (howner.trans ho), withOutput_get]
    exact ⟨rfl, rfl⟩
  · have hu := howner.trans ho
    have hline : s.composed.lineOf c = u.lineOf c := hrest.lineOf.trans hone.lineOf
    have hpanel : (s.composed.row c).ctx.panel = (u.row c).ctx.panel := hrest.panel.trans hone.panel
    rw [hline, hpanel]
    refine ⟨fun hl => ?_, fun hl => ?_, fun hp => ?_⟩
    · rw [composeOutput_blank hu hl, withOutput_get]
      exact ⟨rfl, rfl⟩
    · by_cases hp : u.chanState c = .playing
      · rw [composeOutput_plays hu hl hp, withOutput_get]
      · rw [composeOutput_quiet hu hl hp, withOutput_get]
    · by_cases hl : u.lineOf c = some .up
      · rw [composeOutput_quiet hu hl fun h => hp (hplaying c h), withOutput_get]
      · rw [composeOutput_blank hu hl, withOutput_get]

end Sys2Proof.Machine
end

section
/-! PROOFS. The frame boundary settled: outputs and playback, panel steps and notices, the pacing count. -/

namespace Sys2Proof.Machine

open Sys2Proof

variable {s t u v : State} {c d : Chan} {j k : Timeslot}

/-! ### A channel aside from another's playback -/

/-- The accesses of a channel that wait. -/
def askedBy (c : Chan) (l : List Access) : List Access := l.filter fun a => a.who = .channel c

/-- A channel's row and its waiting accesses stand. -/
structure Aside (c : Chan) (s t : State) : Prop where
  row : t.row c = s.row c
  asked : askedBy c t.engine.waiting = askedBy c s.engine.waiting

theorem Aside.refl : Aside c s s := ⟨rfl, rfl⟩

theorem Aside.trans (h : Aside c s t) (g : Aside c t u) : Aside c s u :=
  ⟨g.row.trans h.row, g.asked.trans h.asked⟩

theorem Aside.modRow {f : ChanRow → ChanRow} (h : c ≠ d) : Aside c s (s.modRow d f) := ⟨row_modRow_ne h, rfl⟩

theorem askedBy_append {l m : List Access} : askedBy c (l ++ m) = askedBy c l ++ askedBy c m := List.filter_append ..

theorem askedBy_playReads {p : Setup} {places : List PlayPlace} : askedBy c (playReads p c places) = playReads p c places := by
  refine List.filter_eq_self.2 fun a ha => ?_
  obtain ⟨q, -, rfl⟩ := List.mem_map.1 ha
  exact decide_eq_true rfl

theorem askedBy_playReads_ne {p : Setup} {places : List PlayPlace} (h : c ≠ d) :
    askedBy c (playReads p d places) = [] := by
  refine List.filter_eq_nil_iff.2 fun a ha hw => ?_
  obtain ⟨q, -, rfl⟩ := List.mem_map.1 ha
  exact h.symm (Requester.channel.inj (of_decide_eq_true hw))

theorem plays_who {a : Access} (h : a.plays d = true) : a.who = .channel d := by
  rw [Access.plays, Bool.and_eq_true, beq_iff_eq] at h
  exact h.1

theorem askedBy_readsGone (h : c ≠ d) : askedBy c (s.readsGone d).engine.waiting = askedBy c s.engine.waiting := by
  simp only [askedBy, State.readsGone, List.filter_filter]
  refine List.filter_congr fun a _ => ?_
  cases hp : a.plays d with
  | false => simp
  | true =>
    have hw : a.who ≠ .channel c := fun hc => h (Requester.channel.inj (hc.symm.trans (plays_who hp)))
    simp [hw]

theorem endPlayback_aside (h : c ≠ d) : Aside c s (s.endPlayback d) := by
  have hgone : Aside c s ((s.readsGone d).setRow d (s.row d).silent) := ⟨row_setRow_ne h, askedBy_readsGone h⟩
  rw [State.endPlayback, emptyAhead_eq]
  exact hgone.trans (Aside.modRow h)

theorem askPlayback_aside (h : c ≠ d) : Aside c s (State.askPlayback d 4 s) := by
  obtain ⟨more, -, -, hothers, hover, -⟩ := askPlayback_asks d 4 s (Nat.le_add_left _ _)
  refine ⟨hothers c h, ?_⟩
  rw [hover]
  exact askedBy_append.trans (by rw [askedBy_playReads_ne h, List.append_nil])

theorem endRecord_aside (h : c ≠ d) : Aside c s (s.endRecord d) := by
  rw [State.endRecord]
  refine (Aside.modRow (d := d) (f := fun r => { r with
    ahead := r.ahead.tail, ctx := { r.ctx with cursor := r.ctx.playPos.getD r.ctx.cursor } }) h).trans ?_
  split
  · exact endPlayback_aside h
  · exact askPlayback_aside h

theorem played_aside {data : List Byte} {p : Nat} (h : c ≠ d) : Aside c s (s.played d data p) := by
  rw [State.played]
  refine Aside.trans (t := if isPause data then s else { s with codec := s.codec.worked }) ?_
    (Aside.modRow (f := fun r => { r with ctx := { r.ctx with playPos := some (p + 1) } }) h)
  split
  · exact .refl
  · exact ⟨rfl, rfl⟩

theorem playFrame_aside (h : c ≠ d) : Aside c s (s.playFrame d).2 := by
  rcases playFrame_cases (s := s) (c := d) with hq | ⟨q, tail, data, p, hb, ha, hd, hp⟩
  · rw [hq]
    exact .refl
  · rw [playFrame_plays hb ha hd hp]
    dsimp only
    split
    · exact (played_aside h).trans (endRecord_aside h)
    · exact played_aside h

theorem composeOutput_aside (h : s.outputs[k].owner ≠ some c) : Aside c s (s.composeOutput k) := by
  rcases composeOutput_cases s k with ⟨samples, word, he⟩ | ⟨d, ho, hl, hp⟩
  · rw [he]
    exact ⟨rfl, rfl⟩
  · have hd : c ≠ d := fun hc => h (hc ▸ ho)
    rw [composeOutput_plays ho hl hp]
    exact (playFrame_aside hd).trans ⟨rfl, rfl⟩

theorem composeAll_aside {l : List Timeslot} (h : ∀ j ∈ l, s.outputs[j].owner ≠ some c) :
    Aside c s (l.foldl State.composeOutput s) := by
  induction l generalizing s with
  | nil => exact .refl
  | cons k l ih =>
    refine (composeOutput_aside (h k List.mem_cons_self)).trans (ih fun j hj => ?_)
    rw [composeOutput_composed.owners]
    exact h j (List.mem_cons_of_mem _ hj)

/-- A channel that owns one output, as it stands at its turn and after the boundary. -/
theorem composed_turn (h : ∀ j : Timeslot, s.outputs[j].owner = some c ↔ j = k) :
    ∃ u, Composed s.stepped u ∧ Aside c s.stepped u ∧ Composed (u.composeOutput k) s.composed ∧
      Aside c (u.composeOutput k) s.composed ∧ s.composed.outputs[k] = (u.composeOutput k).outputs[k] := by
  obtain ⟨before, after, -, hbefore, hafter, hall⟩ := composeAll_at s.stepped k
  have howner : ∀ j : Timeslot, s.stepped.outputs[j].owner = s.outputs[j].owner := fun j => by rw [stepped_rest]
  have hc := composed_all (s := s.stepped) before
  have ha : Aside c s.stepped (before.foldl State.composeOutput s.stepped) := composeAll_aside fun j hj ho =>
    hbefore ((h j).1 ((howner j).symm.trans ho) ▸ hj)
  have hone := composeOutput_composed (s := before.foldl State.composeOutput s.stepped) (k := k)
  have hrest := composed_all (s := (before.foldl State.composeOutput s.stepped).composeOutput k) after
  have hlast : Aside c ((before.foldl State.composeOutput s.stepped).composeOutput k)
      (after.foldl State.composeOutput ((before.foldl State.composeOutput s.stepped).composeOutput k)) :=
    composeAll_aside fun j hj ho => hafter ((h j).1 (by rw [← howner, ← hc.owners, ← hone.owners]; exact ho) ▸ hj)
  have hget := composeAll_get (s := (before.foldl State.composeOutput s.stepped).composeOutput k) hafter
  rw [← hall] at hrest hget hlast
  exact ⟨_, hc, ha, hrest, hlast, hget⟩

/-! ### A frame of a playing channel -/

/-- The last frame of a record before L: the cursor follows, and further records are asked for. -/
theorem endRecord_asks {q : PlayPlace} {tail : List PlayPlace} {p : Nat} (ha : (s.row c).ahead = q :: tail)
    (hp : (s.row c).ctx.playPos = some p) (hl : p ≠ (s.row c).length) :
    ∃ more, AsksFrom s.letters.records (s.row c).spanList (placesEnd p tail) tail more ∧
      (s.endRecord c).row c = { s.row c with ahead := tail ++ more, ctx := { (s.row c).ctx with cursor := p } } ∧
      HandedOver s (s.endRecord c) (playReads s.setup c more) := by
  let r' : ChanRow := { s.row c with ahead := tail, ctx := { (s.row c).ctx with cursor := p } }
  have hstate : s.endRecord c = State.askPlayback c 4 (s.setRow c r') := by
    have hset : s.modRow c (fun r => { r with
        ahead := r.ahead.tail, ctx := { r.ctx with cursor := r.ctx.playPos.getD r.ctx.cursor } }) = s.setRow c r' := by
      rw [State.modRow, ha, hp]
      rfl
    rw [State.endRecord, hset, row_setRow_self]
    exact if_neg (by rw [show r'.ctx.playPos = some p from hp]; exact fun h => hl (Option.some.inj h))
  obtain ⟨more, hasks, hrow, -, hover, -⟩ := askPlayback_asks c 4 (s.setRow c r') (Nat.le_add_left _ _)
  rw [row_setRow_self] at hasks hrow
  refine ⟨more, ?_, by rw [hstate]; exact hrow, by rw [hstate]; exact hover⟩
  have hposition : r'.askPosition = placesEnd p tail := by
    rw [ChanRow.askPosition, placesEnd]
    change (match tail.getLast? with
      | some q => q.start + q.frames
      | none => (s.row c).ctx.playPos.getD 0) = _
    rw [hp]
    rfl
  rw [hposition] at hasks
  exact hasks

/-- The last frame of the letter: playback ends in READY at L. -/
theorem endRecord_ends {p : Nat} (hp : (s.row c).ctx.playPos = some p) (hl : p = (s.row c).length) :
    ∃ r, (s.endRecord c).row c = r ∧ r.ahead = [] ∧ r.spans = (s.row c).spans ∧ r.queue = (s.row c).queue ∧
      r.ctx.state = .ready ∧ r.ctx.playPos = none ∧ r.ctx.cursor = (s.row c).length ∧
      ∀ a ∈ (s.endRecord c).engine.waiting, a.plays c = false := by
  let r' : ChanRow := { s.row c with
    ahead := (s.row c).ahead.tail, ctx := { (s.row c).ctx with cursor := (s.row c).ctx.playPos.getD (s.row c).ctx.cursor } }
  have hstate : s.endRecord c = (s.setRow c r').endPlayback c := by
    rw [State.endRecord]
    change (if ((s.setRow c r').row c).ctx.playPos = some ((s.setRow c r').row c).length then _ else _) = _
    rw [row_setRow_self]
    exact if_pos (hp.trans (congrArg some hl))
  rw [hstate, endPlayback_setRow]
  refine ⟨_, row_setRow_self, rfl, rfl, rfl, rfl, rfl, rfl, fun a ha => ?_⟩
  simpa using (List.mem_filter.1 ha).2

theorem played_row {data : List Byte} {p : Nat} : (s.played c data p).row c =
    { s.row c with ctx := { (s.row c).ctx with playPos := some (p + 1) } } := by
  rw [State.played, row_modCtx_self]
  split <;> rfl

theorem played_frame {data : List Byte} {p : Nat} : (s.played c data p).engine = s.engine ∧
    (s.played c data p).letters = s.letters ∧ (s.played c data p).setup = s.setup := by
  rw [State.played]
  split <;> exact ⟨rfl, rfl, rfl⟩

/-- A frame of playback leaves the span list and the write queue. -/
theorem playFrame_keeps : ((s.playFrame c).2.row c).spans = (s.row c).spans ∧
    ((s.playFrame c).2.row c).queue = (s.row c).queue := by
  rcases playFrame_cases (s := s) (c := c) with h | ⟨q, tail, data, p, hb, ha, hd, hp⟩
  · rw [h]
    exact ⟨rfl, rfl⟩
  · have hpos : ((s.played c data p).row c).ctx.playPos = some (p + 1) := by rw [played_row]
    rw [playFrame_plays hb ha hd hp]
    dsimp only
    split
    · by_cases hl : p + 1 = ((s.played c data p).row c).length
      · obtain ⟨r, hr, -, hspans, hqueue, -⟩ := endRecord_ends hpos hl
        rw [hr, hspans, hqueue, played_row]
        exact ⟨rfl, rfl⟩
      · obtain ⟨more, -, hrow, -⟩ := endRecord_asks (tail := tail) (by rw [played_row]; exact ha) hpos hl
        rw [hrow, played_row]
        exact ⟨rfl, rfl⟩
    · rw [played_row]
      exact ⟨rfl, rfl⟩

/-! ### The boundary of a channel that plays -/

theorem stepped_full (h : ∀ k : Timeslot, s.inputs[k].owner ≠ none → s.inputs[k].assembly ≠ none) :
    s.stepped = s.panelled := by
  rw [State.stepped, judgeMissing_none h]

theorem panelStep_row {hold : Bool} {r : ChanRow} (h : r.ctx.state ≠ .unbound) :
    ∃ x, r.panelStep hold = { r with ctx := x } ∧ x.state = r.ctx.state ∧ x.cursor = r.ctx.cursor ∧
      x.playPos = r.ctx.playPos ∧ x.inSlot = r.ctx.inSlot :=
  ⟨_, panelStep_bound h, rfl, rfl, rfl, rfl⟩

theorem panelled_lineOf (h : s.chanState c ≠ .unbound) : s.panelled.lineOf c = s.lineOf c := by
  obtain ⟨x, hx, -, -, -, hslot⟩ := panelStep_row (hold := s.sheets.hold) h
  rw [State.lineOf, State.lineOf, row_panelled, hx, hslot]
  cases (s.row c).ctx.inSlot with
  | none => rfl
  | some k =>
    change (s.inputs.map fun i : InputSlot => { i with assembly := none })[k].line = _
    simp only [Fin.getElem_fin, Vector.getElem_map]

/-- A playing channel with one output gives it the frame that `playFrame` answers, from a state that has the channel's
row after its panel step. -/
theorem boundary_plays (hf : s.regs.part ≠ .faulted) (hp : s.chanState c = .playing) (hl : s.lineOf c = some .up)
    (hk : ∀ j : Timeslot, s.outputs[j].owner = some c ↔ j = k)
    (hfull : ∀ j : Timeslot, s.inputs[j].owner ≠ none → s.inputs[j].assembly ≠ none) :
    ∃ u t : State, exec .frameBoundary s = .next t ∧ t.row c = (u.playFrame c).2.row c ∧
      t.outputs[k].samples = (u.playFrame c).1 ∧
      askedBy c t.engine.waiting = askedBy c (u.playFrame c).2.engine.waiting ∧
      askedBy c u.engine.waiting = askedBy c s.engine.waiting ∧ u.letters = s.letters ∧ u.setup = s.setup ∧
      u.row c = (s.row c).panelStep s.sheets.hold := by
  have hbound : s.chanState c ≠ .unbound := by rw [hp]; decide
  obtain ⟨u, hcu, hau, -, har, hget⟩ := composed_turn hk
  obtain ⟨x, d, hexec⟩ := frameBoundary_eq hf
  rw [stepped_full hfull] at hcu hau
  have howner : u.outputs[k].owner = some c := (hcu.owners k).trans ((hk k).2 rfl)
  have hrow : u.row c = (s.row c).panelStep s.sheets.hold := hau.row.trans row_panelled
  have hplays : u.composeOutput k = (u.playFrame c).2.withOutput k (u.playFrame c).1 (u.row c).ctx.panel :=
    composeOutput_plays howner (hcu.lineOf.trans ((panelled_lineOf hbound).trans hl))
      (by rw [State.chanState, hrow, panelStep_state]; exact hp)
  rw [hplays] at har hget
  generalize s.composed = w at hexec har hget
  refine ⟨u, _, hexec, har.row, (congrArg OutputSlot.samples hget).trans ?_, har.asked, hau.asked, by rw [hcu.rest]; rfl,
    by rw [hcu.rest]; rfl, hrow⟩
  rw [withOutput_get]

theorem emptyAssemblies_reports : s.emptyAssemblies.silence.reports = s.reports := by
  have hlines : s.emptyAssemblies.inputs.toList.map InputSlot.line = s.inputs.toList.map InputSlot.line := by
    rw [State.emptyAssemblies, Vector.toList_map, List.map_map]
    rfl
  exact congrArg (fun l => (s.reports.1, l, s.reports.2.2)) hlines

/-- Settles O18: what every output carries by its owner and line, and a playing channel's frame by `playFrame`. -/
theorem frameBoundaryFillsOutputs : Obligations.FrameBoundaryFillsOutputs := by
  unfold Obligations.FrameBoundaryFillsOutputs
  refine ⟨fun s => ?_, fun s c k hf hp hl hk hfull => ?_⟩
  · by_cases hf : s.regs.part = .faulted
    · refine ⟨s.emptyAssemblies.silence, (congrArg (done s) (boundary_faulted hf)).trans (done_same ?_), rfl, rfl, rfl,
        rfl, rfl, rfl, rfl, rfl, fun k => ?_, fun _ => ⟨fun k => ?_, rfl⟩, fun h => absurd hf h⟩
      · exact emptyAssemblies_reports
      · simp [State.silence, State.emptyAssemblies]
      · simp [State.silence, State.emptyAssemblies, zeroSamples, allOffWord]
    · obtain ⟨x, d, hexec⟩ := frameBoundary_eq hf
      have hrest := composed_rest (s := s)
      have houtputs := composed_output s
      have hinputs : ∀ k : Timeslot, s.composed.inputs[k].owner = s.inputs[k].owner ∧
          s.composed.inputs[k].assembly = none := fun k => by
        have hsame : s.composed.inputs = s.stepped.inputs := by rw [(composed_composed (s := s)).rest]
        rw [hsame]
        exact stepped_inputs k
      have howners : ∀ k : Timeslot, s.composed.outputs[k].owner = s.outputs[k].owner := fun k =>
        ((composed_composed (s := s)).owners k).trans (by rw [stepped_rest])
      generalize s.composed = t at *
      refine ⟨_, hexec, ?_, ?_, ?_, ?_, ?_, ?_, ?_, ?_, fun k => ⟨(hinputs k).2, (hinputs k).1, howners k⟩,
        fun h => absurd h hf, fun _ k => ⟨(houtputs k).1, (houtputs k).2⟩⟩ <;> rw [hrest]
  · intro r asks
    obtain ⟨u, t, hexec, hrow, hsamples, hasked, hu, hletters, hsetup, hur⟩ := boundary_plays hf hp hl hk hfull
    obtain ⟨x, hx, hstate, hcursor, hpos, -⟩ := panelStep_row (hold := s.sheets.hold) (r := r)
      (show r.ctx.state ≠ .unbound by rw [show r.ctx.state = .playing from hp]; decide)
    rw [hx] at hur
    have hstill : ∀ {more}, askedBy c (u.playFrame c).2.engine.waiting = askedBy c u.engine.waiting ++
        playReads s.setup c more → asks t more := fun h => hasked.trans (h.trans (by rw [hu]; rfl))
    have hkeeps : (t.row c).spans = r.spans ∧ (t.row c).queue = r.queue := by
      obtain ⟨hspans, hqueue⟩ := playFrame_keeps (s := u) (c := c)
      rw [hrow, hspans, hqueue, hur]
      exact ⟨rfl, rfl⟩
    refine ⟨t, hexec, hkeeps.1, hkeeps.2, fun h => ?_, fun q tail data p hb ha hd hpp => ?_⟩
    · have hq : u.playFrame c = (zeroSamples, u) := playFrame_still (by rw [hur]; exact h.imp_right (Or.imp_right hpos.trans))
      rw [hq] at hrow hsamples hstill
      rw [State.chanState, hrow, hur]
      exact ⟨hsamples, rfl, rfl, hstate.trans hp, hpos, hcursor, hstill (List.append_nil _).symm⟩
    · have hahead : (u.row c).ahead = q :: tail := by rw [hur]; exact ha
      have hq := playFrame_plays (s := u) (c := c) (data := data) (p := p) (by rw [hur]; exact hb) hahead hd
        (by rw [hur]; exact hpos.trans hpp)
      rw [hq] at hrow hsamples hasked hstill
      obtain ⟨hengine, hplayedLetters, hplayedSetup⟩ := played_frame (s := u) (c := c) (data := data) (p := p)
      have hplayed : (u.played c data p).row c = { r with ctx := { x with playPos := some (p + 1) } } := by
        rw [played_row, hur]
      have hplayedPos : ((u.played c data p).row c).ctx.playPos = some (p + 1) := by rw [hplayed]
      refine ⟨hsamples.trans (if_congr beq_iff_eq rfl rfl), fun hmore => ?_, fun hend hlen => ?_, fun hend hlen => ?_⟩
      · rw [if_neg (Nat.not_le.2 hmore)] at hrow hstill
        rw [State.chanState, hrow, hplayed]
        exact ⟨rfl, hb, hstate.trans hp, rfl, hcursor, hstill (by rw [hengine]; exact (List.append_nil _).symm)⟩
      · obtain ⟨more, hasks, hended, hover⟩ := endRecord_asks (tail := tail) (by rw [hplayed]; exact ha) hplayedPos
          (by rw [hplayed]; exact hlen)
        rw [if_pos hend] at hrow hstill
        rw [hplayedLetters, hletters, hplayed] at hasks
        rw [hplayed] at hended
        refine ⟨more, ?_, hasks, ?_⟩
        · rw [hrow, hended]
        · rw [State.chanState, hrow, hended]
          refine ⟨hb, hstate.trans hp, rfl, rfl, hstill ?_⟩
          rw [hover, hplayedSetup, hsetup]
          exact askedBy_append.trans (by rw [askedBy_playReads, hengine])
      · obtain ⟨r', hended, hahead', -, -, hready, hnone, hcur, hquiet⟩ := endRecord_ends hplayedPos
          (by rw [hplayed]; exact hlen)
        rw [if_pos hend] at hrow hasked
        rw [State.chanState, hrow, hended]
        refine ⟨hahead', hready, hnone, hcur.trans (by rw [hplayed]; rfl), fun a ha => ?_⟩
        refine Bool.eq_false_iff.2 fun hplays => ?_
        have hmem : a ∈ askedBy c t.engine.waiting := List.mem_filter.2 ⟨ha, decide_eq_true (plays_who hplays)⟩
        rw [hasked] at hmem
        exact absurd hplays (by rw [hquiet a (List.mem_filter.1 hmem).1]; exact Bool.false_ne_true)

/-! ### The pacing count (R164) -/

theorem report_pacing : (s.report t).desk.pacing = t.desk.pacing ∧ (s.report t).desk.expired = t.desk.expired := by
  rw [State.report]
  split <;> exact ⟨rfl, rfl⟩

/-- The pacing count after a boundary, by what the state it paces has of the part's registers, setup and desk. -/
theorem boundary_paces (hf : s.regs.part ≠ .faulted) : ∃ t : State, s.boundary = t.pace ∧ t.regs = s.regs ∧
    t.setup = s.setup ∧ t.desk = s.desk := by
  have hrest := composed_rest (s := s)
  refine ⟨s.composed.shareCodec, boundary_works hf, ?_⟩
  generalize s.composed = t at hrest
  rw [hrest]
  exact ⟨rfl, rfl, rfl⟩

theorem expire_idle (h : s.desk.expired = false) : s.expire = s := if_neg (by rw [h]; exact Bool.false_ne_true)

/-- The desk unit once an expiry has acted: a desk write requested while changed is set. -/
def DeskUnit.expiryTaken (x : DeskUnit) : DeskUnit :=
  { x with
    expired := false,
    requested := x.requested || (x.changed && !x.writing), again := x.again || (x.changed && x.writing) }

/-- The order unit once a sweep has been asked for (R131). -/
def OrderUnit.sweepAsked (x : OrderUnit) : OrderUnit :=
  if x.sweep = .idle then { x with sweep := .requested } else { x with again := true }

theorem requestSweep_eq : s.requestSweep =
    { s with orders := if s.regs.part = .running then s.orders.sweepAsked else s.orders } := by
  rw [State.requestSweep]
  split
  · rw [OrderUnit.sweepAsked]
    split <;> rfl
  · rfl

/-- The sheet manager once an event that marks nothing has come: a scan starts where one may (R80). -/
def SheetManager.scanAsked (x : SheetManager) (allowed : Bool) : SheetManager :=
  if x.scan = .idle ∧ allowed = true ∧ x.stack.length < 8 then
    { x with scan := .starting, examined := 0, scanAgain := false }
  else x

theorem scanEvent_unmarked : s.scanEvent false = { s with sheets := s.sheets.scanAsked s.scanAllowed } := by
  rw [State.scanEvent, SheetManager.scanAsked]
  cases hi : s.sheets.scan with
  | idle =>
    simp only [Bool.and_eq_true, decide_eq_true_iff, true_and, show Config.scanBelow = 8 from rfl]
    split <;> rfl
  | starting => simp
  | reading => simp

theorem scanAsked_hold (x : SheetManager) (allowed : Bool) : (x.scanAsked allowed).hold = x.hold := by
  rw [SheetManager.scanAsked]
  split <;> rfl

/-- The three ways an expiry leaves the desk unit: changed clear, a write under way, none under way. -/
theorem expiryTaken_eq (x : DeskUnit) : (if x.changed = true then
      (if x.writing = true then { x with expired := false, again := true }
        else { x with expired := false, requested := true })
    else { x with expired := false }) = x.expiryTaken := by
  obtain ⟨_, _, writing, _, changed, _, _, _, _, _, _, _, _, _⟩ := x
  cases changed
  · simp [DeskUnit.expiryTaken]
  · cases writing <;> simp [DeskUnit.expiryTaken]

/-- An expiry in RUNNING or QUIESCING: a sweep asked for, a claim scan perhaps started, the desk unit told. -/
theorem expire_works (hp : s.regs.part = .running ∨ s.regs.part = .quiescing) (he : s.desk.expired = true) :
    s.expire = { s with
      orders := if s.regs.part = .running then s.orders.sweepAsked else s.orders,
      sheets := s.sheets.scanAsked s.scanAllowed, desk := s.desk.expiryTaken } := by
  have hactive : ∀ o x y, ({ s with orders := o, sheets := x, desk := y } : State).active = true := fun _ _ _ =>
    active_iff.2 (.inr hp)
  rw [State.expire, if_pos he]
  dsimp only
  rw [if_pos hp, requestSweep_eq, scanEvent_unmarked]
  change (if s.desk.changed = true then State.requestDesk { s with
      orders := if s.regs.part = .running then s.orders.sweepAsked else s.orders,
      sheets := s.sheets.scanAsked s.scanAllowed, desk := { s.desk with expired := false } } else { s with
      orders := if s.regs.part = .running then s.orders.sweepAsked else s.orders,
      sheets := s.sheets.scanAsked s.scanAllowed, desk := { s.desk with expired := false } }) = _
  rw [requestDesk_active (hactive _ _ _), ← expiryTaken_eq]
  split <;> rfl

/-- Settles O20: the count by `pace`, the expiry by its three parts. -/
theorem pacingTimerExpires : Obligations.PacingTimerExpires := by
  unfold Obligations.PacingTimerExpires
  refine ⟨fun s => ⟨s.report s.boundary, rfl, ?_⟩, fun s hp => ⟨fun he => ?_, fun he => ?_⟩, fun s hp => ?_⟩
  · rw [report_pacing.1, report_pacing.2]
    by_cases hf : s.regs.part = .faulted
    · rw [boundary_faulted hf]
      exact ⟨fun h => absurd hf (by rcases h with h | h <;> rw [h] <;> decide), fun _ _ => ⟨rfl, rfl⟩⟩
    · obtain ⟨t, ht, hregs, hsetup, hdesk⟩ := boundary_paces hf
      rw [ht, State.pace, hregs, hsetup, hdesk]
      refine ⟨fun hp => ?_, fun hr hq => ?_⟩
      · rw [if_pos hp]
        refine ⟨fun h => ?_, fun h => ?_⟩
        · rw [if_neg (Nat.not_le.2 h)]
          exact ⟨rfl, rfl⟩
        · rw [if_pos h]
          exact ⟨rfl, rfl⟩
      · rw [if_neg (not_or.2 ⟨hr, hq⟩), hdesk]
        exact ⟨rfl, rfl⟩
  · exact (congrArg (done s) (expire_idle he)).trans (done_same rfl)
  · refine (congrArg (done s) (expire_works (.inl hp) he)).trans ((done_same ?_).trans ?_)
    · exact congrArg (fun b => (s.reports.1, s.reports.2.1, b)) (scanAsked_hold _ _)
    · rw [if_pos hp, SheetManager.scanAsked, scanAllowed_running hp]
      simp only [true_and]
      rfl
  · intro settled
    have hallowed : s.scanAllowed = true ↔ ¬ settled := by
      rw [State.scanAllowed, hp, show settled ↔ s.returnConditions = true from returnConditions_iff.symm]
      simp
    refine ⟨fun he => (congrArg (done s) (expire_idle he)).trans (done_same rfl), fun he => ?_⟩
    refine ⟨_, (congrArg (done s) (expire_works (.inr hp) he)).trans (done_same ?_), fun hi hl hn => ?_, fun h => ?_, ?_⟩
    · exact congrArg (fun b => (s.reports.1, s.reports.2.1, b)) (scanAsked_hold _ _)
    · exact if_pos ⟨hi, hallowed.2 hn, hl⟩
    · refine if_neg ?_
      rintro ⟨hi, ha, hl⟩
      rcases h with h | h | h
      · exact h hi
      · exact absurd hl (Nat.not_lt.2 h)
      · exact hallowed.1 ha h
    · rw [if_neg (by rw [hp]; decide)]
      rfl

/-! ### The panel step (R118 to R124) -/

theorem advance_eq (l : Lamp) (mode : LampMode) : l.advance mode = lampAfter l mode := by
  unfold Lamp.advance lampAfter
  by_cases h : l.mode = mode
  · cases mode <;> simp [h]
  · rw [if_pos (Ne.symm h), if_pos h]

theorem level_eq (l : Lamp) : flagCode l.level = lampBit l := by
  unfold Lamp.level lampBit
  cases l.mode <;> simp [flagCode]

theorem lampBit_le (l : Lamp) : lampBit l ≤ 1 := by
  unfold lampBit
  split <;> decide

theorem flagBits_le (x : Context) : flagBits x ≤ 7 := by
  unfold flagBits
  split <;> split <;> split <;> decide

section Panel

variable {r : ChanRow} {hold : Bool}

/-- The first seven bytes of a panel word. -/
def panelBody (r : ChanRow) (hold : Bool) : List Byte :=
  bytesOf 1 (lampBit r.ctx.lampRecord + 2 * lampBit r.ctx.lampReady + 4 * lampBit r.ctx.lampAttention) ++
    bytesOf 1 (flagBits r.ctx + 8 * flagCode hold) ++ bytesOf 1 (noticeShown r.ctx) ++
    bytesOf 2 (panelPosition r.ctx * 3 / 200) ++ bytesOf 2 (panelLength r * 3 / 200)

theorem panelWord_eq : panelWord r hold = panelBody r hold ++ [checkByte (panelBody r hold)] := by
  simp only [panelWord, panelBody, level_eq, flagBits_eq, noticeByte_eq, seconds]

theorem panelWord_check : (panelWord r hold).foldl (· ^^^ ·) 0#8 = 0#8 := by
  rw [panelWord_eq, List.foldl_append]
  exact BitVec.xor_self

theorem panelWord_lamps : byteAt (panelWord r hold) 0 =
    lampBit r.ctx.lampRecord + 2 * lampBit r.ctx.lampReady + 4 * lampBit r.ctx.lampAttention := by
  have hrecord := lampBit_le r.ctx.lampRecord
  have hready := lampBit_le r.ctx.lampReady
  have hattention := lampBit_le r.ctx.lampAttention
  rw [panelWord_eq]
  exact Nat.mod_eq_of_lt (by omega)

theorem panelWord_flags : byteAt (panelWord r hold) 1 = flagBits r.ctx + (if hold then 8 else 0) := by
  have hflags := flagBits_le r.ctx
  have hbit : 8 * flagCode hold = if hold = true then 8 else 0 := by cases hold <;> rfl
  rw [panelWord_eq, ← hbit]
  refine Nat.mod_eq_of_lt ?_
  rw [hbit]
  split <;> omega

theorem panelWord_notice : (panelWord r hold)[2]? = some (BitVec.ofNat 8 (noticeShown r.ctx)) := by
  rw [panelWord_eq]
  rfl

theorem panelWord_position : fieldAt (panelWord r hold) 3 2 = panelPosition r.ctx * 3 / 200 % 2 ^ 16 := by
  rw [panelWord_eq]
  exact fieldAt_bytesOf 2 (panelPosition r.ctx * 3 / 200)

theorem panelWord_length : fieldAt (panelWord r hold) 5 2 = panelLength r * 3 / 200 % 2 ^ 16 := by
  rw [panelWord_eq]
  exact fieldAt_bytesOf 2 (panelLength r * 3 / 200)

end Panel

theorem recordLampMode_eq (x : Context) : recordLampMode x = if x.state = .recording then .on else .off := rfl

theorem attentionLampMode_eq (x : Context) (hold : Bool) : attentionLampMode x hold =
    if x.host ≠ none then .on else if x.transient ≠ none then .wink else if hold then .blink else .off := by
  unfold attentionLampMode
  cases x.host <;> cases x.transient <;> rfl

/-- The panel step of a bound channel where no frame is missing. -/
theorem boundary_panel (hf : s.regs.part ≠ .faulted)
    (hfull : ∀ j : Timeslot, s.inputs[j].owner ≠ none → s.inputs[j].assembly ≠ none) :
    ∃ t, exec .frameBoundary s = .next t ∧
      PlayContext ((s.row c).panelStep s.sheets.hold).ctx (t.row c).ctx := by
  obtain ⟨x, d, hexec⟩ := frameBoundary_eq hf
  have hc := (composed_composed (s := s)).context c
  rw [stepped_full hfull, row_panelled] at hc
  generalize s.composed = t at hexec hc
  exact ⟨_, hexec, hc⟩

/-- Settles O19: the panel word byte by byte, and the expiry by the notice's count. -/
theorem panelStepShowsAndLowersNotices : Obligations.PanelStepShowsAndLowersNotices := by
  unfold Obligations.PanelStepShowsAndLowersNotices
  refine ⟨fun s c hf hb hfull => ?_, fun s c => ⟨fun n hf hs ht => ?_, fun h => ?_⟩⟩
  · intro x record ready attention position length
    obtain ⟨t, hexec, hctx⟩ := boundary_panel (c := c) hf hfull
    rw [panelStep_bound hb] at hctx
    have hready : readyLampMode x = (match x.state with
        | .ready => .on | .playing => .blink | .busy _ => .wink | _ => .off) := by
      unfold readyLampMode
      cases x.state <;> rfl
    have hlamps : ∀ {mode : LampMode} {l : Lamp} {m : LampMode}, mode = m → l.advance mode = lampAfter l m :=
      fun h => (advance_eq _ _).trans (by rw [h])
    have hrecordLamp : (x.advanceLamps s.sheets.hold).lampRecord = record := hlamps (recordLampMode_eq x)
    have hreadyLamp : (x.advanceLamps s.sheets.hold).lampReady = ready := hlamps hready
    have hattentionLamp : (x.advanceLamps s.sheets.hold).lampAttention = attention :=
      hlamps (attentionLampMode_eq x s.sheets.hold)
    have hposition : panelPosition (x.advanceLamps s.sheets.hold) = position := by
      change panelPosition x = _
      unfold panelPosition
      simp only [position]
      cases x.letter <;> simp
    have hlength : panelLength { s.row c with ctx := x.advanceLamps s.sheets.hold } = length := by
      change (if x.letter.isSome then (s.row c).length else 0) = _
      simp only [length]
      cases x.letter <;> simp
    refine ⟨t, hexec, ?_⟩
    rw [hctx]
    dsimp only
    refine ⟨rfl, panelWord_check, hrecordLamp, hreadyLamp, hattentionLamp, ?_, panelWord_flags, ?_, ?_,
      panelWord_notice, fun n k h => ?_, fun h => ?_⟩
    · rw [panelWord_lamps, hrecordLamp, hreadyLamp, hattentionLamp]
    · rw [panelWord_position, hposition]
    · rw [panelWord_length, hlength]
    · rw [h]
      rfl
    · rw [h]
      rfl
  · have hbody : (match (s.row c).ctx.transient with
        | some (_, 0) => if s.regs.part = .faulted then s else s.modCtx c fun x => { x with transient := none }
        | _ => s) = s.setRow c { s.row c with ctx := { (s.row c).ctx with transient := none } } := by
      rw [ht]
      exact if_neg hf
    obtain ⟨t, ht, hrow, -, -⟩ := done_row (s := s) (b := s) hs rfl rfl hbody
    exact ⟨t, ht, hrow⟩
  · refine (congrArg (done s) ?_).trans (done_same rfl)
    split
    · next n ht => exact absurd ht (h n)
    · rfl

end Sys2Proof.Machine
end

section
/-! PROOFS. Placing one record, said explicitly: what placement leaves in the row, the letter store and the engine
where the record fits, and the steps in which placement comes to rest. -/

namespace Sys2Proof.Machine

open Sys2Proof

variable {s t u : State} {c d : Chan} {w : WriteSheet} {rec : Rec} {p : Placement}

/-! ### The write queue (R171) -/

theorem firstWaiting_append {q l : List QueueEntry} (h : firstWaiting q = none) :
    firstWaiting (q ++ l) = firstWaiting l := by
  induction q with
  | nil => rfl
  | cons e q ih =>
    cases e with
    | waiting => exact absurd h (by simp [firstWaiting])
    | ready => exact ih h
    | writing => exact ih h

theorem lostWaiting_append {q l : List QueueEntry} (h : firstWaiting q = none) : lostWaiting (q ++ l) = lostWaiting l := by
  induction q with
  | nil => rfl
  | cons e q ih =>
    cases e with
    | waiting => exact absurd h (by simp [firstWaiting])
    | ready => simpa [lostWaiting] using ih h
    | writing => simpa [lostWaiting] using ih h

theorem lostWaiting_none {q : List QueueEntry} (h : firstWaiting q = none) : lostWaiting q = 0 := by
  have hq := lostWaiting_append (l := []) h
  rwa [List.append_nil] at hq

theorem makeReady_append {q after : List QueueEntry} {first final : Rec} {tied : Bool} {card sheet slot : Nat}
    (h : firstWaiting q = none) : makeReady final card sheet slot (q ++ .waiting first tied :: after) =
      q ++ .ready final card sheet slot :: after := by
  induction q with
  | nil => rfl
  | cons e q ih =>
    cases e with
    | waiting => exact absurd h (by simp [firstWaiting])
    | ready => exact congrArg (_ :: ·) (ih h)
    | writing => exact congrArg (_ :: ·) (ih h)

/-! ### The letter-full test (R63) -/

theorem fitRecord_fits {length : Nat} (h : length + rec.frames ≤ 120000) : fitRecord length rec = some (rec, false) := by
  cases rec with
  | voice => exact if_pos h
  | pause frames lost => exact if_pos (Nat.le_sub_of_add_le (by rw [Nat.add_comm]; exact h))

/-! ### One record into a slot (R59) -/

/-- The letter store with a record entered in a slot (R52, R72). -/
def LetterStore.entered (x : LetterStore) (sheet slot : Nat) (rec : Rec) : LetterStore :=
  { live := Count.set x.live sheet (Count.get x.live sheet + 1),
    records := Table.put x.records (recordKey sheet slot) rec.entry }

theorem recordKey_eq (sheet slot : Nat) : recordKey sheet slot = 128 * sheet + slot := by
  rw [recordKey, Nat.mul_comm]

theorem get_countSet_self {l : List (Nat × Nat)} {k n : Nat} : Count.get (Count.set l k n) k = n := by
  rw [get_countSet, if_pos rfl]

theorem get_countSet_ne {l : List (Nat × Nat)} {k m n : Nat} (h : m ≠ k) : Count.get (Count.set l k n) m = Count.get l m := by
  rw [get_countSet, if_neg h]

theorem recordEntered (h : t.letters = s.letters.entered w.sheet w.next rec) : RecordEntered s t w.sheet w.next rec where
  live := by rw [State.live, h, LetterStore.entered, get_countSet_self]; rfl
  otherLive n hn := by rw [State.live, h, LetterStore.entered, get_countSet_ne hn]; rfl
  entry := by rw [h, ← recordKey_eq]; exact get_put_self
  otherEntries n hn := by rw [h]; exact get_put_ne (by rw [recordKey_eq]; exact hn)

/-- A row with a record placed at its cursor, in the next slot of a write sheet. -/
def ChanRow.withRecord (r : ChanRow) (w : WriteSheet) (rec : Rec) (extend : Bool) : ChanRow :=
  { r with
    spans := some (addRecord r.spanList r.ctx.cursor w.sheet w.next rec.frames r.ctx.instruct extend),
    ctx := { r.ctx with cursor := r.ctx.cursor + rec.frames },
    placement := r.placement.map fun p => { p with
      recorded := p.recorded + rec.frames, spanOpen := true,
      closing := if r.ctx.state = .recording then p.closing else some { w with next := w.next + 1 } },
    sheet := if r.ctx.state = .recording then some { w with next := w.next + 1 } else r.sheet,
    queue := makeReady rec w.card w.sheet w.next r.queue }

/-- The state with a record placed, no old record removed behind it. -/
def State.withRecord (s : State) (c : Chan) (w : WriteSheet) (rec : Rec) (extend : Bool) : State :=
  { s.setRow c ((s.row c).withRecord w rec extend) with
    letters := s.letters.entered w.sheet w.next rec,
    engine := { s.engine with waiting := s.engine.waiting ++ placedWrites s.setup c w rec } }

theorem row_withRecord {extend : Bool} : (s.withRecord c w rec extend).row c = (s.row c).withRecord w rec extend :=
  row_setRow_self

theorem withRecord_others {extend : Bool} : OtherRows c s (s.withRecord c w rec extend) := fun _ hd => row_setRow_ne hd

theorem withRecord_over {extend : Bool} : HandedOver s (s.withRecord c w rec extend) (placedWrites s.setup c w rec) := rfl

/-- Removal asks for an OVERWRITE take. -/
theorem overwrite_none {n : Nat} (h : ∀ p, (s.row c).placement = some p → p.mode ≠ .overwrite) :
    State.overwrite c n s = s := by
  cases n with
  | zero => rfl
  | succ n =>
    rw [State.overwrite]
    split
    · next p hp => exact if_neg fun hm => h p hp hm.1
    · rfl

/-- The writes of a placed record: its own, and behind the last slot's the header of its sheet. -/
theorem sends_placed (v : State) :
    (if w.next = Config.lastSlot then
      (v.sendWrite (.channel c) (.recordWrite w.card w.sheet w.next) (sheetSlotAddress v.setup w.sheet w.next)
        rec.bytes).closeSheet c { w with next := w.next + 1 }
    else v.sendWrite (.channel c) (.recordWrite w.card w.sheet w.next) (sheetSlotAddress v.setup w.sheet w.next)
      rec.bytes) = { v with engine := { v.engine with waiting := v.engine.waiting ++ placedWrites v.setup c w rec } } := by
  rw [placedWrites]
  by_cases h : w.next = 127
  · rw [if_pos (show w.next = Config.lastSlot from h), if_pos h]
    simp only [State.closeSheet, State.sendWrite, State.handOver, List.append_assoc, h]
    rfl
  · rw [if_neg (show w.next ≠ Config.lastSlot from h), if_neg h]
    rfl

/-- Placing a record: the row, the store, the writes; then the removals of an OVERWRITE take. -/
theorem placeInto_eq {extend : Bool} : s.placeInto c w rec extend = State.overwrite c
    (match ((s.row c).withRecord w rec extend).placement with
      | some p => p.recorded - p.removed
      | none => 0) (s.withRecord c w rec extend) := by
  have hrow : s.modRow c (fun r => { r with
      spans := some (addRecord r.spanList r.ctx.cursor w.sheet w.next rec.frames r.ctx.instruct extend),
      ctx := { r.ctx with cursor := r.ctx.cursor + rec.frames },
      placement := r.placement.map fun p => { p with
        recorded := p.recorded + rec.frames, spanOpen := true,
        closing := if decide (s.chanState c = .recording) = true then p.closing
          else some { w with next := w.next + 1 } },
      sheet := if decide (s.chanState c = .recording) = true then some { w with next := w.next + 1 } else r.sheet,
      queue := makeReady rec w.card w.sheet w.next r.queue }) = s.setRow c ((s.row c).withRecord w rec extend) := by
    simp only [decide_eq_true_iff]
    rfl
  rw [State.placeInto]
  dsimp only
  rw [hrow, sends_placed]
  change State.overwrite c (match ((s.withRecord c w rec extend).row c).placement with
      | some p => p.recorded - p.removed
      | none => 0) (s.withRecord c w rec extend) = _
  rw [row_withRecord]

/-- A record placed where nothing is removed behind it. -/
theorem placeInto_keeps {extend : Bool} (h : ∀ p, (s.row c).placement = some p → p.mode ≠ .overwrite) :
    s.placeInto c w rec extend = s.withRecord c w rec extend := by
  rw [placeInto_eq]
  refine overwrite_none fun p hp => ?_
  rw [row_withRecord] at hp
  obtain ⟨q, hq, rfl⟩ := Option.map_eq_some_iff.1 hp
  exact h q hq

/-! ### Placing the record at the head -/

/-- A record that fits, going to the next slot of the sheet in use. -/
theorem placeHead_usable (hf : (s.row c).length + rec.frames ≤ 120000) (hu : (s.row c).usableTarget = some w)
    (he : (s.row c).extendsSpan w = true ∨ (s.row c).spanList.length < 1024) : s.placeHead c rec =
      (.placed false, (s.placeInto c w rec ((s.row c).extendsSpan w)).countLost c rec false) := by
  have hroom : (!(s.row c).extendsSpan w && decide (Config.spanLimit ≤ (s.row c).spanList.length)) = false := by
    rcases he with he | he
    · rw [he]; rfl
    · rw [decide_eq_false (show ¬ Config.spanLimit ≤ _ from Nat.not_le.2 he), Bool.and_false]
  simp only [State.placeHead, fitRecord_fits hf, hu, hroom, Bool.false_eq_true, if_false]

theorem countLost_voice (h : rec.isLost = false) {b : Bool} : s.countLost c rec b = s :=
  if_neg (by rw [h]; exact Bool.false_ne_true)

/-! ### Placement's steps (R15, R17, R36) -/

/-- LOST records are asked for: a take runs or closing placements do, frames are pending as lost, and the write queue
has room. -/
def ChanRow.asksLost (r : ChanRow) : Bool :=
  (decide (r.ctx.state = .recording) || r.placing) && decide (0 < r.codec.lost - lostWaiting r.queue) &&
    decide (r.queue.length < Config.writeQueueLimit)

theorem settle_asks {n : Nat} (h : (s.row c).asksLost = true) : State.settle c (n + 1) s =
    State.settle c n (s.modRow c fun r => { r with
      queue := r.queue ++ [.waiting (.pause (min ((s.row c).codec.lost - lostWaiting (s.row c).queue) 255) true) false] }) := by
  rw [State.settle]
  exact if_pos h

theorem settle_quiet {n : Nat} (h : (s.row c).asksLost = false) : State.settle c (n + 1) s =
    match (s.row c).dueFlush, firstWaiting (s.row c).queue with
    | some frames, _ => State.settle c n (s.handFlush c frames)
    | none, some rec =>
      match s.placeHead c rec with
      | (.held, t) => t
      | (.discarded why, t) => State.settle c n (t.discardHead c rec why)
      | (.placed shortened, t) => State.settle c n (if shortened then t.afterShortened c else t)
    | none, none => if (s.row c).placing && (s.row c).codec.lost == 0 then s.finishClosing c else s := by
  rw [State.settle]
  exact if_neg (by rw [show (_ && _ && _) = false from h]; exact Bool.false_ne_true)

theorem settle_flushes {n frames : Nat} (h : (s.row c).asksLost = false) (hf : (s.row c).dueFlush = some frames) :
    State.settle c (n + 1) s = State.settle c n (s.handFlush c frames) := by
  rw [settle_quiet h, hf]

theorem settle_places {n : Nat} (h : (s.row c).asksLost = false) (hf : (s.row c).dueFlush = none)
    (hw : firstWaiting (s.row c).queue = some rec) (hp : s.placeHead c rec = (.placed false, t)) :
    State.settle c (n + 1) s = State.settle c n t := by
  rw [settle_quiet h, hf, hw]
  dsimp only
  rw [hp]
  rfl

theorem settle_closes {n : Nat} (h : (s.row c).asksLost = false) (hf : (s.row c).dueFlush = none)
    (hw : firstWaiting (s.row c).queue = none) (hp : (s.row c).placing = true) (hl : (s.row c).codec.lost = 0) :
    State.settle c (n + 1) s = s.finishClosing c := by
  rw [settle_quiet h, hf, hw]
  exact if_pos (by rw [hp, hl]; rfl)

theorem settle_rests {n : Nat} (h : (s.row c).asksLost = false) (hf : (s.row c).dueFlush = none)
    (hw : firstWaiting (s.row c).queue = none) (hp : ¬ ((s.row c).placing = true ∧ (s.row c).codec.lost = 0)) :
    State.settle c n s = s := by
  cases n with
  | zero => rfl
  | succ n =>
    rw [settle_quiet h, hf, hw]
    exact if_neg (by rw [Bool.and_eq_true, beq_iff_eq]; exact hp)

/-- In a take with no frames pending as lost, or a full queue, nothing more is asked for. -/
theorem asksLost_false {r : ChanRow} (h : r.codec.lost = 0 ∨ 4 ≤ r.queue.length) : r.asksLost = false := by
  rw [ChanRow.asksLost]
  rcases h with h | h
  · rw [h, Nat.zero_sub, decide_eq_false (Nat.lt_irrefl 0), Bool.and_false, Bool.false_and]
  · rw [decide_eq_false (show ¬ r.queue.length < Config.writeQueueLimit from Nat.not_lt.2 h), Bool.and_false]

/-- No closing placements stand behind a take that runs. -/
theorem placing_false {r : ChanRow} (h : r.op = none) : r.placing = false := by
  rw [ChanRow.placing, h]

theorem dueFlush_none {r : ChanRow} (h : r.placing = false) : r.dueFlush = none := by
  rw [ChanRow.dueFlush, h, Bool.false_and]
  rfl

/-! ### A record of a take (R14) -/

/-- A row in RECORDING that placement has come to rest on: no operation, nothing waiting, nothing pending as lost
that could be asked for. -/
structure TakeRests (r : ChanRow) : Prop where
  op : r.op = none
  waiting : firstWaiting r.queue = none
  lost : r.codec.lost = 0 ∨ 4 ≤ r.queue.length

theorem TakeRests.settle {n : Nat} (h : TakeRests (s.row c)) : State.settle c n s = s :=
  settle_rests (asksLost_false h.lost) (dueFlush_none (placing_false h.op)) h.waiting fun hp =>
    absurd hp.1 (by rw [placing_false h.op]; exact Bool.false_ne_true)

/-- The head of a take's queue goes into a slot, and placement comes to rest behind it. -/
theorem settle_take {n : Nat} {before after : List QueueEntry} {tied : Bool} (hop : (s.row c).op = none)
    (hlost : (s.row c).codec.lost = 0 ∨ 4 ≤ (s.row c).queue.length)
    (hq : (s.row c).queue = before ++ .waiting rec tied :: after) (hb : firstWaiting before = none)
    (hp : s.placeHead c rec = (.placed false, t)) (hr : TakeRests (t.row c)) : State.settle c (n + 1) s = t := by
  have hw : firstWaiting (s.row c).queue = some rec := by rw [hq, firstWaiting_append hb]; rfl
  rw [settle_places (asksLost_false hlost) (dueFlush_none (placing_false hop)) hw hp, hr.settle]

/-- The row of a take with a record placed from its write sheet. -/
def ChanRow.recorded (r : ChanRow) (p : Placement) (w : WriteSheet) (rec : Rec) (spans : List Span)
    (queue : List QueueEntry) : ChanRow :=
  { r with
    spans := some spans,
    ctx := { r.ctx with cursor := r.ctx.cursor + rec.frames },
    placement := some { p with recorded := p.recorded + rec.frames, spanOpen := true },
    sheet := some { w with next := w.next + 1 },
    queue := queue }

theorem withRecord_take {r : ChanRow} {before after : List QueueEntry} {first : Rec} {tied extend : Bool}
    (hs : r.ctx.state = .recording) (hp : r.placement = some p) (hq : r.queue = before ++ .waiting first tied :: after)
    (hb : firstWaiting before = none) : r.withRecord w rec extend = r.recorded p w rec
      (addRecord r.spanList r.ctx.cursor w.sheet w.next rec.frames r.ctx.instruct extend)
      (before ++ .ready rec w.card w.sheet w.next :: after) := by
  simp only [ChanRow.withRecord, ChanRow.recorded, hs, hp, hq, makeReady_append hb, if_true, Option.map_some]

theorem usableTarget_take {r : ChanRow} (hs : r.ctx.state = .recording) (hw : r.sheet = some w) (hn : w.next ≤ 127) :
    r.usableTarget = some w := by
  rw [ChanRow.usableTarget, ChanRow.target, if_pos hs, hw]
  exact Option.filter_some_pos (decide_eq_true hn)

theorem AtCursor.joined {r : ChanRow} {before after : List Span} (h : AtCursor r before after)
    (hp : r.placement = some p) (w : WriteSheet) (frames : Nat) :
    Joined before after p.spanOpen r.ctx.instruct w 1 frames
      (addRecord r.spanList r.ctx.cursor w.sheet w.next frames r.ctx.instruct (r.extendsSpan w)) :=
  joined_addRecord h.cut (h.extendsSpan_iff hp w)

theorem AtCursor.room {r : ChanRow} {before after : List Span} (h : AtCursor r before after) (hp : r.placement = some p)
    (he : Extends before p.spanOpen r.ctx.instruct w ∨ (before ++ after).length < 1024) :
    r.extendsSpan w = true ∨ r.spanList.length < 1024 :=
  he.imp (h.extendsSpan_iff hp w).2 (by rw [ChanRow.spanList, h.list]; exact id)

/-- A row of a take whose write queue takes one more record, with a placement record. -/
structure TakeReady (r : ChanRow) (p : Placement) : Prop where
  state : r.ctx.state = .recording
  op : r.op = none
  lost : r.codec.lost = 0
  waiting : firstWaiting r.queue = none
  room : r.queue.length < 4
  placement : r.placement = some p

/-- The row with a record handed to placement (R171). -/
def ChanRow.offered (r : ChanRow) (rec : Rec) (tied : Bool) : ChanRow :=
  { r with queue := r.queue ++ [.waiting rec tied] }

theorem TakeReady.offer {r : ChanRow} {tied : Bool} (h : TakeReady r p) :
    (s.setRow c r).offer c rec tied = State.settle c 32 (s.setRow c (r.offered rec tied)) := by
  rw [State.offer, row_setRow_self]
  refine (if_neg ?_).trans ?_
  · rw [not_or, h.lost]
    exact ⟨Nat.lt_irrefl 0, Nat.not_le.2 h.room⟩
  · rw [modRow_setRow]
    rfl

/-- Placement of a record just offered, by what it answers for the head of the queue. -/
theorem TakeReady.settles {r : ChanRow} {tied : Bool} {n : Nat} (h : TakeReady r p)
    (hp : (s.setRow c (r.offered rec tied)).placeHead c rec = (.placed false, t)) (hr : TakeRests (t.row c)) :
    State.settle c (n + 1) (s.setRow c (r.offered rec tied)) = t :=
  settle_take (by rw [row_setRow_self]; exact h.op) (by rw [row_setRow_self]; exact .inl h.lost)
    (by rw [row_setRow_self]; rfl) h.waiting hp hr

/-- The row with a record just offered placed from a write sheet. -/
theorem TakeReady.withRecord {r : ChanRow} {tied extend : Bool} (h : TakeReady r p) :
    (r.offered rec tied).withRecord w rec extend = r.recorded p w rec
      (addRecord r.spanList r.ctx.cursor w.sheet w.next rec.frames r.ctx.instruct extend)
      (r.queue ++ [.ready rec w.card w.sheet w.next]) :=
  withRecord_take (r := r.offered rec tied) h.state h.placement rfl h.waiting

theorem TakeReady.rests {r : ChanRow} {q : Placement} {spans : List Span} (h : TakeReady r p) :
    TakeRests (r.recorded q w rec spans (r.queue ++ [.ready rec w.card w.sheet w.next])) :=
  ⟨h.op, (firstWaiting_append h.waiting).trans rfl, .inl h.lost⟩

/-- The state with a record of a take placed: row, letter store and engine. -/
def State.recorded (s : State) (c : Chan) (w : WriteSheet) (rec : Rec) (r : ChanRow) : State :=
  { s.setRow c r with
    letters := s.letters.entered w.sheet w.next rec,
    engine := { s.engine with waiting := s.engine.waiting ++ placedWrites s.setup c w rec } }

/-- A record of a take enters the queue and goes into the next slot of the write sheet, nothing removed behind it. -/
theorem TakeReady.records {r : ChanRow} {tied : Bool} (h : TakeReady r p) (hv : rec.isLost = false)
    (hm : p.mode ≠ .overwrite) (hw : r.sheet = some w) (hn : w.next ≤ 127) (hf : r.length + rec.frames ≤ 120000)
    (he : r.extendsSpan w = true ∨ r.spanList.length < 1024) : (s.setRow c r).offer c rec tied =
      s.recorded c w rec (r.recorded p w rec
        (addRecord r.spanList r.ctx.cursor w.sheet w.next rec.frames r.ctx.instruct (r.extendsSpan w))
        (r.queue ++ [.ready rec w.card w.sheet w.next])) := by
  have hplaced : (s.setRow c (r.offered rec tied)).placeHead c rec =
      (.placed false, (s.setRow c (r.offered rec tied)).withRecord c w rec (r.extendsSpan w)) := by
    rw [placeHead_usable (w := w) (by rw [row_setRow_self]; exact hf)
      (by rw [row_setRow_self]; exact usableTarget_take (r := r.offered rec tied) h.state hw hn)
      (by rw [row_setRow_self]; exact he), countLost_voice hv, row_setRow_self, placeInto_keeps (by
        rw [row_setRow_self]
        exact fun q hq => Option.some.inj (h.placement.symm.trans hq) ▸ hm)]
    rfl
  rw [h.offer, h.settles hplaced (by rw [row_withRecord, row_setRow_self, h.withRecord]; exact h.rests),
    State.withRecord, row_setRow_self, h.withRecord, setRow_setRow]
  rfl

end Sys2Proof.Machine
end

section
/-! PROOFS. A frame heard in a take: no record, one or two, each placed, lost, or put behind old records removed. -/

namespace Sys2Proof.Machine

open Sys2Proof

variable {s t u : State} {c d : Chan} {k : Timeslot} {w : WriteSheet} {rec : Rec} {p : Placement} {r : ChanRow}
  {samples : List Sample} {word : Option Word}

/-! ### What the codec hands over (R29, R33, R34) -/

section Encode

variable {gain T H P : Nat} {run run' : PauseRun} {xs : List Int} {records : List Rec}

/-- The codec leaves the count of lost frames, and hands over voice records and pauses of some frames. -/
theorem encodeFrame_keeps (h : encodeFrame gain T H P run xs = (run', records)) :
    run'.lost = run.lost ∧ ∀ rec ∈ records, rec.isLost = false ∧ 0 < rec.frames := by
  have hvoice : (voiceRecord gain xs).isLost = false ∧ 0 < (voiceRecord gain xs).frames := ⟨rfl, Nat.one_pos⟩
  by_cases hs : silent T (xs.map (gainSample gain)) = true
  · rw [encode_silent hs rfl] at h
    split at h
    · cases h
      exact ⟨rfl, by simpa using hvoice⟩
    · split at h
      · split at h
        · next hp =>
          cases h
          refine ⟨rfl, fun rec hrec => ?_⟩
          rw [List.mem_singleton.1 hrec]
          exact ⟨rfl, by simp only [Rec.frames]; omega⟩
        · cases h
          exact ⟨rfl, nofun⟩
      · cases h
        exact ⟨rfl, nofun⟩
  · rw [encode_heard hs] at h
    cases h
    refine ⟨rfl, fun rec hrec => ?_⟩
    rcases List.mem_append.1 hrec with hrec | hrec
    · split at hrec
      · exact absurd hrec (List.not_mem_nil)
      · next hp =>
        rw [List.mem_singleton.1 hrec]
        exact ⟨rfl, Nat.pos_of_ne_zero hp⟩
    · rw [List.mem_singleton.1 hrec]
      exact hvoice

end Encode

/-! ### The frame as it is heard -/

/-- The state that hears a frame: the frame in its assembly, one operation more of the codec unit. -/
def State.hearing (s : State) (k : Timeslot) (samples : List Sample) (word : Option Word) : State :=
  { s.withInput k { s.inputs[k] with assembly := some { samples := samples, word := word } } with
    codec := s.codec.worked }

theorem hearing_reports : (s.hearing k samples word).reports = s.reports :=
  withInput_reports (i := { s.inputs[k] with assembly := some { samples := samples, word := word } }) rfl

theorem hearFrame_records (h : s.chanState c = .recording) {run : PauseRun} {records : List Rec}
    (he : encodeFrame (s.row c).ctx.gain (s.row c).ctx.threshold (s.row c).ctx.hangover (s.row c).ctx.maxPause
      (s.row c).codec (samples.map BitVec.toInt) = (run, records)) :
    s.hearFrame c samples =
      (({ s with codec := s.codec.worked } : State).setRow c { s.row c with codec := run }).offerAll c false records := by
  rw [State.hearFrame, if_pos h]
  simp only [he]
  rfl

theorem inputComplete_heard (h : HeardInTake s k c word p) {run : PauseRun} {records : List Rec}
    (he : encodeFrame (s.row c).ctx.gain (s.row c).ctx.threshold (s.row c).ctx.hangover (s.row c).ctx.maxPause
      (s.row c).codec (samples.map BitVec.toInt) = (run, records)) :
    s.inputComplete k samples word =
      ((s.hearing k samples word).setRow c { s.row c with codec := run }).offerAll c false records := by
  have hjudged : s.withInput k (s.judgedSlot k c .up samples word) =
      s.withInput k { s.inputs[k] with assembly := some { samples := samples, word := word } } := by
    rw [State.judgedSlot, h.present]
    simp only [lineAfter_up, ← h.owner, ← h.line]
  rw [inputComplete_owned h.unfaulted h.assembly h.owner h.line]
  dsimp only
  rw [if_pos rfl, if_pos h.present, hjudged, deliver_keyless fun v hv => by
    rw [wordType_eq, h.keyless v hv]
    decide]
  exact hearFrame_records (s := s.withInput k _) h.recording he

theorem HeardInTake.ready (h : HeardInTake s k c word p) {run : PauseRun} (hw : firstWaiting (s.row c).queue = none)
    (hl : run.lost = 0) (hn : (s.row c).queue.length < 4) : TakeReady { s.row c with codec := run } p :=
  ⟨h.recording, h.op, hl, hw, hn, h.placement⟩

theorem offerAll_one {tied : Bool} (hs : r.ctx.state = .recording) :
    (s.setRow c r).offerAll c tied [rec] = (s.setRow c r).offer c rec tied := by
  have hstate : (s.setRow c r).chanState c = .recording := by rw [State.chanState, row_setRow_self]; exact hs
  rw [State.offerAll, if_pos hstate, State.offerAll]

/-- A step that ends in a state answers it, changed apart. -/
theorem done_changed (s t : State) : ∃ d, done s t = .next { t with desk := d } := by
  obtain ⟨d, hd⟩ := report_eq_desk s t
  exact ⟨d, congrArg Host.Outcome.next hd⟩

/-- The span list after one record joined it, cut behind that record: the span before the cut takes the next record of
the same sheet. -/
theorem Joined.behind {before after spans : List Span} {spanOpen instruct : Bool} {frames : Nat}
    (h : Joined before after spanOpen instruct w 1 frames spans) (hf : 0 < frames) (hb : ∀ sp ∈ before, 0 < sp.frames) :
    ∃ first last, spans = (first ++ [last]) ++ after ∧ lengthOf (first ++ [last]) = lengthOf before + frames ∧
      (∀ sp ∈ first ++ [last], 0 < sp.frames) ∧
      Extends (first ++ [last]) true instruct { w with next := w.next + 1 } ∧
      ∀ more, Joined before after spanOpen instruct w 2 (frames + more)
        (first ++ { last with count := last.count + 1, frames := last.frames + more } :: after) := by
  by_cases he : Extends before spanOpen instruct w
  · obtain ⟨-, sp, hlast, hsheet, hslot, hinstruct⟩ := id he
    obtain ⟨first, rfl⟩ := List.getLast?_eq_some_iff.1 hlast
    refine ⟨first, { sp with count := sp.count + 1, frames := sp.frames + frames }, ?_, ?_, fun x hx => ?_,
      ⟨rfl, _, List.getLast?_concat .., hsheet, ?_, hinstruct⟩, fun more => ⟨?_, fun hn => absurd he hn⟩⟩
    · rw [h.extended first sp rfl he, List.append_assoc]
      rfl
    · simp only [lengthOf_append, lengthOf_cons]
      simp [lengthOf]
      omega
    · rcases List.mem_append.1 hx with hx | hx
      · exact hb x (List.mem_append_left _ hx)
      · rw [List.mem_singleton.1 hx]
        exact Nat.add_pos_right _ hf
    · exact (Nat.add_assoc ..).symm.trans (congrArg (· + 1) hslot)
    · rintro first' sp' heq -
      obtain ⟨rfl, hsp⟩ := List.append_inj' heq rfl
      obtain rfl := List.singleton_inj.1 hsp
      dsimp only
      rw [Nat.add_assoc sp.frames]
  · refine ⟨before, { sheet := w.sheet, first := w.next, count := 1, frames := frames, instruction := instruct }, ?_, ?_,
      fun x hx => ?_, ⟨rfl, _, List.getLast?_concat .., rfl, rfl, rfl⟩, fun more => ⟨fun _ _ _ hx => absurd hx he, fun _ => rfl⟩⟩
    · rw [h.started he, List.append_assoc]
      rfl
    · rw [lengthOf_append, lengthOf_cons]
      rfl
    · rcases List.mem_append.1 hx with hx | hx
      · exact hb x hx
      · rw [List.mem_singleton.1 hx]
        exact hf

theorem recorded_setRow {r r' : ChanRow} : (s.recorded c w rec r).setRow c r' = s.recorded c w rec r' :=
  congrArg (fun v : State => { v with
    letters := s.letters.entered w.sheet w.next rec,
    engine := { s.engine with waiting := s.engine.waiting ++ placedWrites s.setup c w rec } }) setRow_setRow

/-! ### A sheet given to a take (R83, R84) -/

/-- The write sheet that a take is given: next slot 1, the letter's card and take. -/
def givenSheet (n : Nat) (l : OpenLetter) : WriteSheet :=
  { sheet := n, next := 1, card := l.card, take := l.takes % 256 }

/-- A row whose take has been given a write sheet. -/
def ChanRow.given (r : ChanRow) (w : WriteSheet) : ChanRow := { r with sheet := some w }

theorem giveSheet_take {n : Nat} {l : OpenLetter} (hs : (s.row c).ctx.state = .recording)
    (hl : (s.row c).ctx.letter = some l) : s.giveSheet c n =
      ({ s with engine := { s.engine with
        waiting := s.engine.waiting ++ [mapWriteOf s.setup .sheetManager .mapWrite n 2 l.card] } } : State).setRow c
        ((s.row c).given (givenSheet n l)) := by
  simp only [State.giveSheet, hs, hl, if_true]
  rfl

/-- An event of R80 moves the scan alone. -/
theorem scanEvent_sheets {marks : Bool} (h : t = { u with sheets := t.sheets }) : ∃ x,
    t.scanEvent marks = { u with sheets := x } ∧ x.stack = t.sheets.stack ∧ x.tally = t.sheets.tally ∧
      x.waiting = t.sheets.waiting ∧ x.freeWait = t.sheets.freeWait ∧ x.hold = t.sheets.hold ∧
      x.storageOut = t.sheets.storageOut ∧ x.cursor = t.sheets.cursor := by
  obtain ⟨w, n, a, he⟩ := scanEvent_frame t marks
  refine ⟨{ t.sheets with scan := w, examined := n, scanAgain := a }, ?_, rfl, rfl, rfl, rfl, rfl, rfl, rfl⟩
  rw [he, h]

theorem popStack_eq (s : State) : ∃ x, s.popStack = { s with sheets := x } ∧ x.stack = s.sheets.stack.tail ∧
    x.tally = s.sheets.tally ∧ x.waiting = s.sheets.waiting := by
  let u : State := { s with sheets := { s.sheets with stack := s.sheets.stack.tail } }
  obtain ⟨x, hx, hstack, htally, hwaiting, -⟩ := scanEvent_sheets (t := u.evaluateHold) (u := s) (marks := false)
    (by rw [evaluateHold_eq])
  rw [evaluateHold_eq] at hstack htally hwaiting
  exact ⟨x, hx, hstack, htally, hwaiting⟩

/-- A record without a usable sheet where the stack has one and no request waits. -/
theorem placeHead_given {top : Nat} {more : List Nat} {l : OpenLetter}
    (hf : (s.row c).length + rec.frames ≤ 120000) (hu : (s.row c).usableTarget = none)
    (hroom : (s.row c).spanList.length < 1024) (hs : (s.row c).ctx.state = .recording)
    (hl : (s.row c).ctx.letter = some l) (hrequests : s.sheets.waiting = []) (hstack : s.sheets.stack = top :: more) :
    ∃ x, x.stack = more ∧ x.tally = s.sheets.tally ∧ s.placeHead c rec =
      (.placed false, (State.placeInto (({ s with
        sheets := x,
        engine := { s.engine with
          waiting := s.engine.waiting ++ [mapWriteOf s.setup .sheetManager .mapWrite top 2 l.card] } } : State).setRow c
          ((s.row c).given (givenSheet top l))) c (givenSheet top l) rec false).countLost c rec false) := by
  obtain ⟨x, hpop, hx, htally, -⟩ := popStack_eq s
  have hrequest : s.requestSheet (.take c) = (.sheet top, { s with sheets := x }) := by
    rw [State.requestSheet, hstack]
    simp only [hrequests, List.isEmpty_nil, if_true, hpop]
  have hgiven := giveSheet_take (s := { s with sheets := x }) (c := c) (n := top) hs hl
  have htarget : ((s.row c).given (givenSheet top l)).usableTarget = some (givenSheet top l) :=
    usableTarget_take (r := (s.row c).given (givenSheet top l)) hs rfl (by decide : 1 ≤ 127)
  refine ⟨x, hx.trans (by rw [hstack]; rfl), htally, ?_⟩
  have hlimit : (!false && decide (Config.spanLimit ≤ (s.row c).spanList.length)) = false := by
    rw [decide_eq_false (show ¬ Config.spanLimit ≤ _ from Nat.not_le.2 hroom), Bool.and_false]
  simp only [State.placeHead, fitRecord_fits hf, hu, hlimit, Bool.false_eq_true, if_false, hrequests,
    List.contains_nil, hrequest, hgiven, row_setRow_self, row_sheets, htarget]

/-! ### One record, from the write sheet in use -/

section Heard

variable {run : PauseRun} {records : List Rec} {before after : List Span}

/-- The row that hears the frame, the codec's pause run moved on. -/
theorem HeardInTake.step (h : HeardInTake s k c word p)
    (he : encodeFrame (s.row c).ctx.gain (s.row c).ctx.threshold (s.row c).ctx.hangover (s.row c).ctx.maxPause
      (s.row c).codec (samples.map BitVec.toInt) = (run, records)) :
    exec (.inputFrame k samples word) s =
      done s (((s.hearing k samples word).setRow c { s.row c with codec := run }).offerAll c false records) :=
  congrArg (done s) (inputComplete_heard h he)

/-- A record of a take from the write sheet in use: what the step leaves, with nothing removed behind it. -/
theorem HeardInTake.placesOne (h : HeardInTake s k c word p)
    (he : encodeFrame (s.row c).ctx.gain (s.row c).ctx.threshold (s.row c).ctx.hangover (s.row c).ctx.maxPause
      (s.row c).codec (samples.map BitVec.toInt) = (run, [rec]))
    (hwait : firstWaiting (s.row c).queue = none) (hl : (s.row c).codec.lost = 0) (hlen : (s.row c).queue.length < 4)
    (hm : p.mode ≠ .overwrite) (hw : (s.row c).sheet = some w) (hn : w.next ≤ 127)
    (hf : (s.row c).length + rec.frames ≤ 120000)
    (hroom : (s.row c).extendsSpan w = true ∨ (s.row c).spanList.length < 1024) :
    ∃ d, exec (.inputFrame k samples word) s = .next { (s.hearing k samples word).recorded c w rec
      (ChanRow.recorded { s.row c with codec := run } p w rec
        (addRecord (s.row c).spanList (s.row c).ctx.cursor w.sheet w.next rec.frames (s.row c).ctx.instruct
          ((s.row c).extendsSpan w))
        ((s.row c).queue ++ [.ready rec w.card w.sheet w.next])) with desk := d } := by
  obtain ⟨hrun, hrec⟩ := encodeFrame_keeps he
  have hready := h.ready (run := run) hwait (hrun.trans hl) hlen
  obtain ⟨d, hd⟩ := done_changed s ((s.hearing k samples word).recorded c w rec
    (ChanRow.recorded { s.row c with codec := run } p w rec
        (addRecord (s.row c).spanList (s.row c).ctx.cursor w.sheet w.next rec.frames (s.row c).ctx.instruct
          ((s.row c).extendsSpan w))
        ((s.row c).queue ++ [.ready rec w.card w.sheet w.next])))
  refine ⟨d, ?_⟩
  rw [h.step he, offerAll_one hready.state, hready.records (hrec rec (List.mem_singleton_self _)).1 hm hw hn hf hroom]
  exact hd

/-- No record: the codec's run moves on, and nothing is placed. -/
theorem HeardInTake.placesNone (h : HeardInTake s k c word p)
    (he : encodeFrame (s.row c).ctx.gain (s.row c).ctx.threshold (s.row c).ctx.hangover (s.row c).ctx.maxPause
      (s.row c).codec (samples.map BitVec.toInt) = (run, [])) :
    exec (.inputFrame k samples word) s =
      .next ((s.hearing k samples word).setRow c { s.row c with codec := run }) := by
  rw [h.step he]
  exact done_same ((reports_setRow (s := s.hearing k samples word) (c := c) (r := { s.row c with codec := run }) rfl).trans
    hearing_reports)

/-- A record that finds the write queue full: its frames join the lost ones. -/
theorem HeardInTake.losesFull (h : HeardInTake s k c word p)
    (he : encodeFrame (s.row c).ctx.gain (s.row c).ctx.threshold (s.row c).ctx.hangover (s.row c).ctx.maxPause
      (s.row c).codec (samples.map BitVec.toInt) = (run, [rec]))
    (hwait : firstWaiting (s.row c).queue = none) (hlen : 4 ≤ (s.row c).queue.length) :
    ∃ d, exec (.inputFrame k samples word) s = .next { (s.hearing k samples word).setRow c { s.row c with
      codec := { run with lost := min ((s.row c).codec.lost + rec.frames) 120000 } } with desk := d } := by
  obtain ⟨hrun, -⟩ := encodeFrame_keeps he
  let r : ChanRow := { s.row c with codec := { run with lost := min (run.lost + rec.frames) 120000 } }
  have hoffer : ((s.hearing k samples word).setRow c { s.row c with codec := run }).offer c rec false =
      (s.hearing k samples word).setRow c r := by
    rw [State.offer, row_setRow_self]
    refine (if_pos (.inr hlen)).trans ?_
    rw [State.loseFrames, modRow_setRow]
    exact TakeRests.settle (by rw [row_setRow_self]; exact ⟨h.op, hwait, .inr hlen⟩)
  obtain ⟨d, hd⟩ := done_changed s ((s.hearing k samples word).setRow c r)
  refine ⟨d, ?_⟩
  rw [h.step he, offerAll_one (r := { s.row c with codec := run }) h.recording, hoffer, ← hrun]
  exact hd

/-- Two records, a pause and the voice record behind it, from one write sheet: the second joins the first's span. -/
theorem HeardInTake.placesTwo (h : HeardInTake s k c word p) {pause voice : Rec}
    (he : encodeFrame (s.row c).ctx.gain (s.row c).ctx.threshold (s.row c).ctx.hangover (s.row c).ctx.maxPause
      (s.row c).codec (samples.map BitVec.toInt) = (run, [pause, voice]))
    (hwait : firstWaiting (s.row c).queue = none) (hl : (s.row c).codec.lost = 0) (hlen : (s.row c).queue.length < 3)
    (hm : p.mode ≠ .overwrite) (hw : (s.row c).sheet = some w) (hn : w.next ≤ 126)
    (hf : (s.row c).length + pause.frames + voice.frames ≤ 120000) (hat : AtCursor (s.row c) before after)
    (hext : Extends before p.spanOpen (s.row c).ctx.instruct w ∨ (before ++ after).length < 1024) :
    ∃ d spans, Joined before after p.spanOpen (s.row c).ctx.instruct w 2 (pause.frames + voice.frames) spans ∧
      exec (.inputFrame k samples word) s = .next { ((s.hearing k samples word).recorded c w pause (s.row c)).recorded c
        { w with next := w.next + 1 } voice { s.row c with
          spans := some spans, codec := run,
          ctx := { (s.row c).ctx with cursor := (s.row c).ctx.cursor + pause.frames + voice.frames },
          placement := some { p with recorded := p.recorded + pause.frames + voice.frames, spanOpen := true },
          sheet := some { w with next := w.next + 1 + 1 },
          queue := (s.row c).queue ++ [.ready pause w.card w.sheet w.next, .ready voice w.card w.sheet (w.next + 1)] }
        with desk := d } := by
  obtain ⟨hrun, hrec⟩ := encodeFrame_keeps he
  obtain ⟨hpauseLost, hpausePos⟩ := hrec pause List.mem_cons_self
  obtain ⟨hvoiceLost, -⟩ := hrec voice (List.mem_cons_of_mem _ List.mem_cons_self)
  let r : ChanRow := { s.row c with codec := run }
  have hready : TakeReady r p := h.ready (run := run) hwait (hrun.trans hl) (by omega)
  have hjoin := hat.joined h.placement w pause.frames
  obtain ⟨first, last, hspans, hlength, hpos, hnext, hboth⟩ := hjoin.behind hpausePos hat.frames
  let w' : WriteSheet := { w with next := w.next + 1 }
  let r' : ChanRow := r.recorded p w pause (addRecord (s.row c).spanList (s.row c).ctx.cursor w.sheet w.next
    pause.frames (s.row c).ctx.instruct ((s.row c).extendsSpan w)) ((s.row c).queue ++ [.ready pause w.card w.sheet w.next])
  let u : State := (s.hearing k samples word).recorded c w pause (s.row c)
  have hfirst : ((s.hearing k samples word).setRow c r).offer c pause false = u.setRow c r' := by
    rw [hready.records hpauseLost hm hw (by omega) (Nat.le_of_add_right_le hf) (hat.room h.placement hext)]
    exact recorded_setRow.symm
  have hat' : AtCursor r' (first ++ [last]) after :=
    ⟨congrArg some hspans, hlength.trans (by rw [hat.cursor]; rfl), hpos⟩
  have hready' : TakeReady r' { p with recorded := p.recorded + pause.frames, spanOpen := true } :=
    ⟨h.recording, h.op, hrun.trans hl, (firstWaiting_append hwait).trans rfl, by
      change (_ ++ [_]).length < 4
      rw [List.length_append]
      exact Nat.succ_lt_succ hlen, rfl⟩
  have hextends : r'.extendsSpan w' = true := (hat'.extendsSpan_iff rfl w').2 hnext
  have hsecond := hready'.records (s := u) (c := c) (tied := true) hvoiceLost hm (w := w') rfl (Nat.succ_le_succ hn) (by
    change lengthOf (addRecord ..) + _ ≤ _
    rw [hspans, lengthOf_append, hlength, hat.cursor, Nat.add_right_comm _ pause.frames, ← hat.length]
    exact hf) (.inl hextends)
  have hspans' : addRecord r'.spanList r'.ctx.cursor w'.sheet w'.next voice.frames r'.ctx.instruct (r'.extendsSpan w') =
      first ++ { last with count := last.count + 1, frames := last.frames + voice.frames } :: after :=
    (hat'.joined (p := { p with recorded := p.recorded + pause.frames, spanOpen := true }) rfl w' voice.frames).extended
      first last rfl hnext
  obtain ⟨d, hd⟩ := done_changed s ((u.setRow c r').offer c voice true)
  refine ⟨d, _, hboth voice.frames, ?_⟩
  rw [h.step he, State.offerAll, if_pos (by rw [State.chanState, row_setRow_self]; exact h.recording), hfirst,
    offerAll_one (r := r') h.recording, hd, hsecond, hspans']
  simp only [r', ChanRow.recorded, List.append_assoc]
  rfl

/-- A record of a take that has no write sheet in use, or a full one: a sheet is given from the stack. -/
theorem HeardInTake.placesOnNewSheet (h : HeardInTake s k c word p) {top : Nat} {more : List Nat} {l : OpenLetter}
    (he : encodeFrame (s.row c).ctx.gain (s.row c).ctx.threshold (s.row c).ctx.hangover (s.row c).ctx.maxPause
      (s.row c).codec (samples.map BitVec.toInt) = (run, [rec]))
    (hwait : firstWaiting (s.row c).queue = none) (hl : (s.row c).codec.lost = 0) (hlen : (s.row c).queue.length < 4)
    (hm : p.mode ≠ .overwrite) (hw : (s.row c).sheet = none ∨ ∃ w, (s.row c).sheet = some w ∧ 127 < w.next)
    (hf : (s.row c).length + rec.frames ≤ 120000) (hat : AtCursor (s.row c) before after)
    (hroom : (before ++ after).length < 1024) (hrequests : s.sheets.waiting = []) (hstack : s.sheets.stack = top :: more)
    (hletter : (s.row c).ctx.letter = some l) (hw' : w = { sheet := top, next := 1, card := l.card, take := l.takes % 256 }) :
    ∃ d x, x.stack = more ∧ x.tally = s.sheets.tally ∧
      exec (.inputFrame k samples word) s = .next { State.recorded
        { s.hearing k samples word with
          sheets := x,
          engine := { s.engine with
            waiting := s.engine.waiting ++ [mapWriteOf s.setup .sheetManager .mapWrite top 2 l.card] } } c w rec
        (ChanRow.recorded { s.row c with codec := run } p w rec
          (before ++ { sheet := top, first := 1, count := 1, frames := rec.frames, instruction := (s.row c).ctx.instruct }
            :: after) ((s.row c).queue ++ [.ready rec l.card top 1])) with desk := d } := by
  obtain ⟨hrun, hrec⟩ := encodeFrame_keeps he
  subst hw'
  let r : ChanRow := { s.row c with codec := run }
  have hready : TakeReady r p := h.ready (run := run) hwait (hrun.trans hl) hlen
  let v : State := (s.hearing k samples word).setRow c (r.offered rec false)
  have hrow : v.row c = r.offered rec false := row_setRow_self
  have hunusable : (r.offered rec false).usableTarget = none := by
    rw [ChanRow.usableTarget, ChanRow.target, if_pos (show (r.offered rec false).ctx.state = .recording from h.recording)]
    rcases hw with hw | ⟨w, hw, hn⟩
    · exact (congrArg (Option.filter _) hw).trans rfl
    · exact (congrArg (Option.filter _) hw).trans (Option.filter_some_neg
        (decide_eq_false (show ¬ w.next ≤ Config.lastSlot from Nat.not_le.2 hn)))
  obtain ⟨x, hx, htally, hplaced⟩ := placeHead_given (s := v) (c := c) (rec := rec) (l := l)
    (by rw [hrow]; exact hf) (by rw [hrow]; exact hunusable) (by rw [hrow, ChanRow.spanList]; exact hat.list ▸ hroom)
    (by rw [hrow]; exact hready.state) (by rw [hrow]; exact hletter) hrequests hstack
  let base : State := { s.hearing k samples word with
    sheets := x,
    engine := { s.engine with
      waiting := s.engine.waiting ++ [mapWriteOf s.setup .sheetManager .mapWrite top 2 l.card] } }
  let r' : ChanRow := (r.offered rec false).given (givenSheet top l)
  have hgiven : ({ v with
      sheets := x,
      engine := { v.engine with
        waiting := v.engine.waiting ++ [mapWriteOf v.setup .sheetManager .mapWrite top 2 l.card] } } : State).setRow c
          ((v.row c).given (givenSheet top l)) = base.setRow c r' := by
    rw [hrow]
    exact setRow_setRow (s := base)
  have hspans : r'.withRecord (givenSheet top l) rec false = r.recorded p (givenSheet top l) rec
      (before ++ { sheet := top, first := 1, count := 1, frames := rec.frames, instruction := (s.row c).ctx.instruct }
        :: after) ((s.row c).queue ++ [.ready rec l.card top 1]) := by
    rw [withRecord_take (r := r') (p := p) h.recording h.placement rfl hwait, addRecord,
      show cutAt r'.spanList r'.ctx.cursor = (before, after) from hat.cut]
    rfl
  rw [hgiven, countLost_voice (hrec rec (List.mem_singleton_self _)).1, placeInto_keeps (by
    rw [row_setRow_self]
    exact fun q hq => Option.some.inj (h.placement.symm.trans hq) ▸ hm)] at hplaced
  have hsettled := hready.settles (n := 31) hplaced (by rw [row_withRecord, row_setRow_self, hspans]; exact hready.rests)
  obtain ⟨d, hd⟩ := done_changed s (State.settle c 32 v)
  refine ⟨d, x, hx, htally, ?_⟩
  rw [h.step he, offerAll_one (r := r) h.recording, hready.offer]
  refine hd.trans ?_
  rw [hsettled, State.withRecord, row_setRow_self, hspans, setRow_setRow]
  rfl


end Heard

/-! ### Old records removed behind a placed one (R67, R68, R73) -/

section Remove

variable {old : Span} {before more : List Span}

/-- What removing the record at the cursor leaves of the spans from there on. -/
def trimmed (table : List (Nat × RecordEntry)) (old : Span) (more : List Span) : List Span :=
  if old.count ≤ 1 then more
  else { old with
    first := old.first + 1, count := old.count - 1,
    frames := old.frames - slotFrames table old.sheet old.first } :: more

/-- The row with the record at the cursor removed. -/
def ChanRow.removed (r : ChanRow) (table : List (Nat × RecordEntry)) (before : List Span) (old : Span)
    (more : List Span) : ChanRow :=
  { r with
    spans := some (before ++ trimmed table old more),
    placement := r.placement.map fun p => { p with removed := p.removed + slotFrames table old.sheet old.first } }

/-- The letter store with a record's entry and its sheet's count lowered. -/
def LetterStore.recordGone (x : LetterStore) (old : Span) : LetterStore :=
  { live := Count.set x.live old.sheet (Count.get x.live old.sheet - 1),
    records := Table.erase x.records (recordKey old.sheet old.first) }

theorem isCurrent_iff {n : Nat} : s.isCurrent n = true ↔ ∃ d v, (s.row d).sheet = some v ∧ v.sheet = n := by
  rw [State.isCurrent, List.any_eq_true]
  constructor
  · rintro ⟨r, hr, hm⟩
    obtain ⟨i, hi, rfl⟩ := Vector.mem_iff_getElem.1 (Vector.mem_toList_iff.1 hr)
    refine ⟨⟨i, hi⟩, ?_⟩
    split at hm
    · next v hv => exact ⟨v, hv, beq_iff_eq.1 hm⟩
    · exact absurd hm Bool.false_ne_true
  · rintro ⟨d, v, hv, hn⟩
    refine ⟨s.row d, Vector.mem_toList_iff.2 (Vector.getElem_mem _), ?_⟩
    rw [hv]
    exact beq_iff_eq.2 hn

theorem removeRecord_eq (hcut : cutAt (s.row c).spanList (s.row c).ctx.cursor = (before, old :: more)) :
    s.removeRecord c =
      let t := { s.setRow c ((s.row c).removed s.letters.records before old more) with
        letters := s.letters.recordGone old }
      if s.live old.sheet - 1 = 0 ∧ ¬ s.isCurrent old.sheet = true then
        ({ t with letters := { t.letters with
          records := dropSheet t.letters.records old.sheet } } : State).freeDead old.sheet
      else t := by
  have htrim : trimAt (s.row c).spanList (s.row c).ctx.cursor (slotFrames s.letters.records old.sheet old.first) =
      before ++ trimmed s.letters.records old more := by
    rw [trimAt, hcut, trimmed]
    dsimp only
    split <;> rfl
  rw [State.removeRecord, hcut, ChanRow.removed, ← htrim]
  rfl

/-- A sheet freed: its map entry FREE, the tally up by one, a scan perhaps started. -/
theorem freeSheet_eq (s : State) (who : Requester) (n : Nat) : ∃ x, s.freeSheet who n = { s with
      sheets := x,
      engine := { s.engine with waiting := s.engine.waiting ++ [mapWriteOf s.setup who .mapWrite n 0 0] } } ∧
    x.tally = min (s.sheets.tally + 1) s.setup.sheetCount ∧ x.stack = s.sheets.stack ∧
    x.freeWait = s.sheets.freeWait := by
  let u : State := s.sendMapEntry who .mapWrite n mapFree 0
  obtain ⟨x, hx, hstack, htally, -, hfree, -⟩ := scanEvent_sheets (t := u.raiseTally 1) (u := u) (marks := true)
    (by rw [raiseTally_eq])
  rw [raiseTally_eq] at hstack htally hfree
  exact ⟨x, hx, htally, hstack, hfree⟩

theorem headerOutstanding_iff {n : Nat} : s.headerOutstanding n = true ↔
    ∃ b ∈ s.engine.waiting ++ s.engine.flight, ∃ m, b.purpose = .headerWrite m n := by
  rw [State.headerOutstanding, State.outstanding, List.any_eq_true]
  refine exists_congr fun b => and_congr_right fun _ => ?_
  cases b.purpose <;> simp

theorem freeClosed_free {who : Requester} {n : Nat}
    (h : ∀ b ∈ s.engine.waiting ++ s.engine.flight, ∀ m, b.purpose ≠ .headerWrite m n) :
    s.freeClosed who n = s.freeSheet who n :=
  if_neg fun ho => by
    obtain ⟨b, hb, m, hm⟩ := headerOutstanding_iff.1 ho
    exact h b hb m hm

theorem freeDead_frame {n : Nat} : ∃ x e, s.freeDead n = { s with sheets := x, engine := e } := by
  rw [State.freeDead, State.freeClosed]
  split
  · exact ⟨_, _, rfl⟩
  · obtain ⟨x, hx, -⟩ := freeSheet_eq s .sheetManager n
    exact ⟨_, _, hx⟩

theorem freeDead_row {n : Nat} : (s.freeDead n).row c = s.row c := by
  obtain ⟨x, e, hx⟩ := freeDead_frame (s := s) (n := n)
  rw [hx]
  rfl

/-- An OVERWRITE take one record short of its count: one old record is removed, and no more. -/
theorem overwrite_once {n : Nat} (hp : (s.row c).placement = some p) (hm : p.mode = .overwrite)
    (hcut : cutAt (s.row c).spanList (s.row c).ctx.cursor = (before, old :: more))
    (hl : (s.row c).ctx.cursor < (s.row c).length) (hless : p.removed < p.recorded)
    (henough : p.recorded ≤ p.removed + slotFrames s.letters.records old.sheet old.first) :
    State.overwrite c (n + 1) s = s.removeRecord c := by
  have hrow : ((s.removeRecord c).row c).placement =
      some { p with removed := p.removed + slotFrames s.letters.records old.sheet old.first } := by
    rw [removeRecord_eq hcut]
    dsimp only
    split
    · rw [freeDead_row]
      exact (congrArg ChanRow.placement row_setRow_self).trans (by rw [ChanRow.removed, hp]; rfl)
    · exact (congrArg ChanRow.placement row_setRow_self).trans (by rw [ChanRow.removed, hp]; rfl)
  rw [State.overwrite, hp]
  refine (if_pos ⟨hm, hless, hl⟩).trans ?_
  cases n with
  | zero => rfl
  | succ n =>
    rw [State.overwrite, hrow]
    exact if_neg fun h => absurd h.2.1 (Nat.not_lt.2 henough)

end Remove

/-! ### One record over old ones -/

theorem Joined.swap {before after after' spans : List Span} {spanOpen instruct : Bool} {n frames : Nat}
    (h : Joined before after spanOpen instruct w n frames (spans ++ after)) :
    Joined before after' spanOpen instruct w n frames (spans ++ after') where
  extended first sp hb he := by
    have hs := h.extended first sp hb he
    rw [List.append_cons] at hs ⊢
    rw [List.append_cancel_right hs]
  started he := by
    have hs := h.started he
    rw [List.append_cons] at hs ⊢
    rw [List.append_cancel_right hs]

section Over

variable {run : PauseRun} {before more : List Span} {old : Span}

/-- A record placed in an OVERWRITE take that is one old record behind. -/
theorem HeardInTake.placesOver (h : HeardInTake s k c word p)
    (he : encodeFrame (s.row c).ctx.gain (s.row c).ctx.threshold (s.row c).ctx.hangover (s.row c).ctx.maxPause
      (s.row c).codec (samples.map BitVec.toInt) = (run, [rec]))
    (hwait : firstWaiting (s.row c).queue = none) (hl : (s.row c).codec.lost = 0) (hlen : (s.row c).queue.length < 4)
    (hm : p.mode = .overwrite) (hw : (s.row c).sheet = some w) (hn : w.next ≤ 127)
    (hf : (s.row c).length + rec.frames ≤ 120000) (hat : AtCursor (s.row c) before (old :: more))
    (hold : 0 < old.frames) (hslot : old.first ≤ 127) (hsheet : old.sheet ≠ w.sheet)
    (hext : Extends before p.spanOpen (s.row c).ctx.instruct w ∨ (before ++ old :: more).length < 1024)
    (hless : p.removed < p.recorded + rec.frames)
    (henough : p.recorded + rec.frames ≤ p.removed + slotFrames s.letters.records old.sheet old.first) :
    ∃ spans r, Joined before (trimmed s.letters.records old more) p.spanOpen (s.row c).ctx.instruct w 1 rec.frames spans ∧
      r = { s.row c with
        spans := some spans, codec := run, ctx := { (s.row c).ctx with cursor := (s.row c).ctx.cursor + rec.frames },
        placement := some { p with
          recorded := p.recorded + rec.frames,
          removed := p.removed + slotFrames s.letters.records old.sheet old.first, spanOpen := true },
        sheet := some { w with next := w.next + 1 },
        queue := (s.row c).queue ++ [.ready rec w.card w.sheet w.next] } ∧
      let t := { (s.hearing k samples word).recorded c w rec r with
        letters := (s.letters.entered w.sheet w.next rec).recordGone old }
      exec (.inputFrame k samples word) s = done s (if s.live old.sheet - 1 = 0 ∧ ¬ s.isCurrent old.sheet = true then
        ({ t with letters := { t.letters with
          records := dropSheet t.letters.records old.sheet } } : State).freeDead old.sheet
      else t) := by
  obtain ⟨hrun, hrec⟩ := encodeFrame_keeps he
  obtain ⟨hvoice, hpos⟩ := hrec rec (List.mem_singleton_self _)
  let r : ChanRow := { s.row c with codec := run }
  have hready : TakeReady r p := h.ready (run := run) hwait (hrun.trans hl) hlen
  have hjoin := hat.joined h.placement w rec.frames
  obtain ⟨first, last, hspans, hlength, hframes, -, -⟩ := hjoin.behind hpos hat.frames
  let v : State := (s.hearing k samples word).setRow c (r.offered rec false)
  let r' : ChanRow := r.recorded p w rec (addRecord (s.row c).spanList (s.row c).ctx.cursor w.sheet w.next rec.frames
    (s.row c).ctx.instruct ((s.row c).extendsSpan w)) ((s.row c).queue ++ [.ready rec w.card w.sheet w.next])
  have hplaced : v.withRecord c w rec ((s.row c).extendsSpan w) = (s.hearing k samples word).recorded c w rec r' := by
    rw [State.withRecord, row_setRow_self, hready.withRecord, setRow_setRow]
    rfl
  have hrow' : ((s.hearing k samples word).recorded c w rec r').row c = r' := row_setRow_self
  have hat' : AtCursor r' (first ++ [last]) (old :: more) :=
    ⟨congrArg some hspans, hlength.trans (by rw [hat.cursor]; rfl), hframes⟩
  have hkey : recordKey old.sheet old.first ≠ recordKey w.sheet w.next := by
    rw [recordKey_eq, recordKey_eq]
    omega
  have hslots : slotFrames (s.letters.entered w.sheet w.next rec).records old.sheet old.first =
      slotFrames s.letters.records old.sheet old.first := by
    rw [slotFrames, slotFrames, LetterStore.entered, get_put_ne hkey]
  let x : State := (s.hearing k samples word).recorded c w rec r'
  let q : Placement := { p with recorded := p.recorded + rec.frames, spanOpen := true }
  have hcut : cutAt (x.row c).spanList (x.row c).ctx.cursor = (first ++ [last], old :: more) := by
    rw [hrow']
    exact hat'.cut
  have hbehind : (x.row c).ctx.cursor < (x.row c).length := by
    rw [hrow', hat'.length, lengthOf_cons]
    omega
  have hover : State.overwrite c (q.recorded - q.removed) x = x.removeRecord c := by
    obtain ⟨n, hn⟩ : ∃ n, q.recorded - q.removed = n + 1 := ⟨q.recorded - q.removed - 1, by
      change p.recorded + rec.frames - p.removed = p.recorded + rec.frames - p.removed - 1 + 1
      omega⟩
    rw [hn]
    exact overwrite_once (p := q) (by rw [hrow']; rfl) hm hcut hbehind hless
      (by rw [show x.letters = s.letters.entered w.sheet w.next rec from rfl, hslots]; exact henough)
  have hinto : v.placeInto c w rec ((v.row c).extendsSpan w) = x.removeRecord c := by
    rw [placeInto_eq, row_setRow_self, hready.withRecord]
    exact (congrArg (State.overwrite c _) hplaced).trans hover
  have hhead : v.placeHead c rec = (.placed false, x.removeRecord c) := by
    rw [placeHead_usable (w := w) (by rw [row_setRow_self]; exact hf)
      (by rw [row_setRow_self]; exact usableTarget_take (r := r.offered rec false) h.recording hw hn)
      (by rw [row_setRow_self]; exact hat.room h.placement hext), countLost_voice hvoice, hinto]
  have hcurrent : x.isCurrent old.sheet = s.isCurrent old.sheet := by
    refine Bool.eq_iff_iff.2 (isCurrent_iff.trans (Iff.trans (exists_congr fun d => ?_) isCurrent_iff.symm))
    by_cases hd : d = c
    · rw [hd, hrow', hw]
      exact ⟨fun ⟨v, hv, hs⟩ => absurd (by cases hv; exact hs.symm) hsheet,
        fun ⟨v, hv, hs⟩ => absurd (by cases hv; exact hs.symm) hsheet⟩
    · rw [show x.row d = s.row d from row_setRow_ne hd]
  have hlive : x.live old.sheet = s.live old.sheet := by
    rw [State.live, show x.letters = s.letters.entered w.sheet w.next rec from rfl, LetterStore.entered,
      get_countSet_ne hsheet]
    rfl
  have hslots' : slotFrames x.letters.records old.sheet old.first = slotFrames s.letters.records old.sheet old.first :=
    hslots
  have htrimmed : trimmed x.letters.records old more = trimmed s.letters.records old more := by
    rw [trimmed, trimmed, hslots']
  have hrow : (x.row c).removed x.letters.records (first ++ [last]) old more = { s.row c with
      spans := some ((first ++ [last]) ++ trimmed s.letters.records old more), codec := run,
      ctx := { (s.row c).ctx with cursor := (s.row c).ctx.cursor + rec.frames },
      placement := some { p with
        recorded := p.recorded + rec.frames,
        removed := p.removed + slotFrames s.letters.records old.sheet old.first, spanOpen := true },
      sheet := some { w with next := w.next + 1 },
      queue := (s.row c).queue ++ [.ready rec w.card w.sheet w.next] } := by
    rw [ChanRow.removed, htrimmed, hslots', hrow']
    rfl
  have hremoved := removeRecord_eq hcut
  dsimp only at hremoved
  rw [hrow, hlive, hcurrent, show x.setRow c _ = _ from recorded_setRow] at hremoved
  have hrests : TakeRests ((x.removeRecord c).row c) := by
    have hsame : (x.removeRecord c).row c = (x.row c).removed x.letters.records (first ++ [last]) old more := by
      rw [hremoved, hrow]
      split
      · rw [freeDead_row]
        exact row_setRow_self
      · exact row_setRow_self
    rw [hsame, hrow']
    exact ⟨h.op, (firstWaiting_append hwait).trans rfl, .inl (hrun.trans hl)⟩
  refine ⟨_, _, Joined.swap (hspans ▸ hjoin), rfl, ?_⟩
  rw [h.step he, offerAll_one (r := r) h.recording, hready.offer, hready.settles hhead hrests, hremoved]
  rfl

end Over

/-! ### A frame of a take settled -/

theorem cutAt_concat : ∀ (l : List Span) (n : Nat), (cutAt l n).1 ++ (cutAt l n).2 = l
  | [], _ => rfl
  | sp :: rest, n => by
    rw [cutAt]
    split
    · exact congrArg (sp :: ·) (cutAt_concat rest (n - sp.frames))
    · rfl

theorem extendsSpan_closed (hp : r.placement = some p) (ho : p.spanOpen = false) : r.extendsSpan w = false := by
  rw [ChanRow.extendsSpan, hp]
  split
  · next hq _ =>
    cases hq
    rw [ho]
    rfl
  · rfl

theorem length_newSpan {frames : Nat} (r : ChanRow) : lengthOf (addRecord r.spanList r.ctx.cursor w.sheet w.next frames
    r.ctx.instruct false) = r.length + frames := by
  have hlen : lengthOf (cutAt r.spanList r.ctx.cursor).1 + lengthOf (cutAt r.spanList r.ctx.cursor).2 = r.length := by
    rw [← lengthOf_append, cutAt_concat]
    rfl
  change lengthOf ((cutAt r.spanList r.ctx.cursor).1 ++ _ :: (cutAt r.spanList r.ctx.cursor).2) = _
  rw [lengthOf_append, lengthOf_cons, ← hlen]
  dsimp only
  omega

/-- The live counts after a record was entered in one sheet and another's oldest record removed. -/
theorem live_recordGone {old : Span} (hsheet : old.sheet ≠ w.sheet)
    (h : t.letters.live = ((s.letters.entered w.sheet w.next rec).recordGone old).live) :
    t.live old.sheet = s.live old.sheet - 1 ∧ t.live w.sheet = s.live w.sheet + 1 := by
  have hentered : ∀ n, Count.get (s.letters.entered w.sheet w.next rec).live n =
      if n = w.sheet then s.live w.sheet + 1 else s.live n := fun n => by
    rw [LetterStore.entered, get_countSet]
    rfl
  have hcount : ∀ n, t.live n = Count.get t.letters.live n := fun _ => rfl
  rw [hcount, hcount, h, LetterStore.recordGone]
  simp only [get_countSet, hentered, if_neg hsheet, if_neg (Ne.symm hsheet), if_true, and_self]

theorem placedWrites_header {a : Access} {m n : Nat} (ha : a ∈ placedWrites s.setup c w rec)
    (h : a.purpose = .headerWrite m n) : n = w.sheet := by
  rw [placedWrites] at ha
  rcases List.mem_cons.1 ha with rfl | ha
  · exact absurd h (by simp [writeOf])
  · split at ha
    · rw [List.mem_singleton.1 ha] at h
      exact (Purpose.headerWrite.inj h).2.symm
    · exact absurd ha List.not_mem_nil

theorem get_dropSheet {table : List (Nat × RecordEntry)} {sheet slot : Nat} (h : slot ≤ 127) :
    Table.get (dropSheet table sheet) (128 * sheet + slot) = none := by
  rw [dropSheet, get_filterKey (fun n => n / 128 != sheet), if_neg]
  rw [bne_iff_ne, not_not]
  omega

/-- Settles O17: each clause is one way a frame's records are placed. -/
theorem voiceFrameIsPlaced : Obligations.VoiceFrameIsPlaced := by
  unfold Obligations.VoiceFrameIsPlaced
  refine ⟨fun s k c samples word w p => ?_, fun s k c samples word p run records h => ?_⟩
  · intro r xs record hf ha ho hl hp hv hs hop hq hpending hlost hplacement hm hopen hspans hw hn hlen hloud
    have h : HeardInTake s k c word p := ⟨hf, ha, ho, hl, hp, hv, hs, hop, hplacement⟩
    have he : encodeFrame r.ctx.gain r.ctx.threshold r.ctx.hangover r.ctx.maxPause r.codec xs =
        ({ r.codec with silent := 0, pending := 0 }, [record]) := by
      rw [encode_heard (by rw [silent, decide_eq_true_iff]; exact Nat.not_lt.2 hloud), if_pos hpending]
      rfl
    have hclosed : r.extendsSpan w = false := extendsSpan_closed hplacement hopen
    obtain ⟨d, hd⟩ := h.placesOne he (by rw [hq]; rfl) hlost (by rw [hq]; decide) hm hw hn hlen (.inr hspans)
    have hentered : ∀ d r', RecordEntered s { (s.hearing k samples word).recorded c w record r' with desk := d }
        w.sheet w.next record := fun _ _ => recordEntered rfl
    have hrow : ∀ d r', ({ (s.hearing k samples word).recorded c w record r' with desk := d } : State).row c = r' :=
      fun _ _ => row_setRow_self
    refine ⟨_, hd, ?_, ?_, ?_, ?_, ?_, (hentered _ _).live, (hentered _ _).otherLive, (hentered _ _).otherEntries,
      (hentered _ _).entry, rfl, rfl, fun d hd => row_setRow_ne hd, rfl⟩
    · rw [hrow]
      rfl
    · rw [hrow, hclosed]
      exact length_newSpan r
    · rw [hrow, hclosed]
      rfl
    · rw [hrow]
      rfl
    · rw [hrow, hq]
      rfl
  · intro r he
    refine ⟨fun hnone => ?_, fun rec hone hwait hlen => ?_, fun hwait hlost => ⟨fun rec w before after hone hlen hfit hat
      hw hn hm hext => ?_, fun rec top more l before after hone hlen hfit hat hroom hw hm hrequests hstack hletter => ?_,
      fun pause voice w before after htwo hlen hfit hat hw hn hm hext => ?_,
      fun rec w before old more hone hlen hfit hat hold hslot hsheet hw hn hm hext => ?_⟩⟩
    · subst hnone
      exact ⟨_, h.placesNone he, row_setRow_self, fun d hd => row_setRow_ne hd, rfl⟩
    · subst hone
      obtain ⟨d, hd⟩ := h.losesFull he hwait hlen
      exact ⟨_, hd, row_setRow_self, fun d hd => row_setRow_ne hd, rfl, rfl⟩
    · subst hone
      obtain ⟨d, hd⟩ := h.placesOne he hwait hlost hlen hm hw hn hfit (hat.room h.placement hext)
      exact ⟨_, _, hd, hat.joined h.placement w rec.frames, row_setRow_self, recordEntered rfl, rfl,
        fun d hd => row_setRow_ne hd⟩
    · subst hone
      intro w
      obtain ⟨d, x, hx, htally, hd⟩ := h.placesOnNewSheet (w := w) he hwait hlost hlen hm hw hfit hat hroom hrequests
        hstack hletter rfl
      refine ⟨_, hd, row_setRow_self, hx, htally, recordEntered (w := w) rfl, ?_, fun d hd => row_setRow_ne hd⟩
      exact congrArg (fun l => { s.engine with waiting := l }) (List.append_assoc ..)
    · subst htwo
      obtain ⟨d, spans, hjoin, hd⟩ := h.placesTwo he hwait hlost hlen hm hw hn hfit hat hext
      let m : State := (s.hearing k samples word).recorded c w pause r
      have hfirst : RecordEntered s m w.sheet w.next pause := recordEntered rfl
      have hsecond : ∀ d r', RecordEntered m { m.recorded c { w with next := w.next + 1 } voice r' with desk := d }
          w.sheet (w.next + 1) voice := fun _ _ => recordEntered (w := { w with next := w.next + 1 }) rfl
      refine ⟨_, spans, hd, hjoin, row_setRow_self, (hsecond _ _).live.trans (congrArg (· + 1) hfirst.live),
        ((hsecond _ _).otherEntries _ (by omega)).trans hfirst.entry, (hsecond _ _).entry, ?_,
        fun d hd => (row_setRow_ne hd).trans (row_setRow_ne hd)⟩
      exact congrArg (fun l => { s.engine with waiting := l }) (List.append_assoc ..)
    · subst hone
      intro f left used hless henough
      obtain ⟨spans, r', hjoin, hr', hd⟩ := h.placesOver he hwait hlost hlen hm hw hn hfit hat hold hslot hsheet hext
        hless henough
      dsimp only at hd
      have hused : s.isCurrent old.sheet = true ↔ used := isCurrent_iff
      have hkey : 128 * old.sheet + old.first = recordKey old.sheet old.first := (recordKey_eq _ _).symm
      let x : State := { (s.hearing k samples word).recorded c w rec r' with
        letters := (s.letters.entered w.sheet w.next rec).recordGone old }
      let y : State := { x with letters := { x.letters with records := dropSheet x.letters.records old.sheet } }
      split at hd
      · next hfree =>
        obtain ⟨d, hdone⟩ := done_changed s (y.freeDead old.sheet)
        obtain ⟨z, e, hz⟩ := freeDead_frame (s := y) (n := old.sheet)
        have hletters : (y.freeDead old.sheet).letters = y.letters := by rw [hz]
        obtain ⟨holdLive, hnewLive⟩ := live_recordGone (s := s) (t := { y.freeDead old.sheet with desk := d }) (rec := rec)
          hsheet (show (y.freeDead old.sheet).letters.live = y.letters.live by rw [hletters])
        refine ⟨_, spans, hd.trans hdone, hjoin, freeDead_row.trans (row_setRow_self.trans hr'),
          (congrArg (fun l => Table.get l.records _) hletters).trans (get_dropSheet hslot), holdLive, hnewLive,
          fun hor => ?_, fun hone hn hheader => ?_, fun d hd => freeDead_row.trans (row_setRow_ne hd)⟩
        · rcases hor with hor | hor
          · exact absurd hfree.1 (by omega)
          · exact absurd (hused.2 hor) hfree.2
        · have hquiet : ∀ b ∈ y.engine.waiting ++ y.engine.flight, ∀ m, b.purpose ≠ .headerWrite m old.sheet := by
            intro b hb m hm
            rcases List.mem_append.1 hb with hb | hb
            · rcases List.mem_append.1 hb with hb | hb
              · exact hheader b (List.mem_append_left _ hb) m hm
              · exact hsheet (placedWrites_header (s := s) hb hm)
            · exact hheader b (List.mem_append_right _ hb) m hm
          obtain ⟨z, hz, htally, -⟩ := freeSheet_eq y .sheetManager old.sheet
          have hfreed : y.freeDead old.sheet = y.freeSheet .sheetManager old.sheet := freeClosed_free hquiet
          have hengine := congrArg State.engine (hfreed.trans hz)
          have hsheets := congrArg State.sheets (hfreed.trans hz)
          refine ⟨?_, (congrArg SheetManager.tally hsheets).trans htally⟩
          exact hengine.trans (congrArg (fun l => { s.engine with waiting := l }) (List.append_assoc ..))
      · next hkept =>
        obtain ⟨d, hdone⟩ := done_changed s x
        obtain ⟨holdLive, hnewLive⟩ := live_recordGone (s := s) (t := { x with desk := d }) (rec := rec) hsheet rfl
        refine ⟨_, spans, hd.trans hdone, hjoin, row_setRow_self.trans hr', ?_, holdLive, hnewLive, fun _ => ⟨rfl, rfl⟩,
          fun hone hn _ => absurd ⟨by rw [hone], fun hc => hn (hused.1 hc)⟩ hkept, fun d hd => row_setRow_ne hd⟩
        rw [hkey]
        exact get_erase_self

end Sys2Proof.Machine
end

section
/-! PROOFS. The end of a take: the closing placements from the row that ended, and the keys that end it. -/

namespace Sys2Proof.Machine

open Sys2Proof

variable {s t u : State} {c d : Chan} {w : WriteSheet} {rec : Rec} {p : Placement} {r : ChanRow} {sub : SubState}

theorem setRow_row (s : State) (c : Chan) : s.setRow c (s.row c) = s := by
  have hset : s.chans.set c (s.row c) = s.chans := by
    simp only [State.row, Fin.getElem_fin, Vector.set_getElem_self]
  exact congrArg (fun v => { s with chans := v }) hset

/-! ### The row of an ended take -/

theorem takeEnded_placing (r : ChanRow) (sub : SubState) : (r.takeEnded sub).placing = true := by
  simp only [ChanRow.takeEnded, ChanRow.placing]
  split
  · rfl
  · rfl
  · next h1 h2 =>
    by_cases hs : sub = .closing
    · exact absurd (congrArg some (if_pos hs)) h2
    · exact absurd (congrArg some (if_neg hs)) h1

/-- A take whose write sheet holds live records ends in its row alone. -/
theorem endTake_live (h : ∀ w, r.sheet = some w → s.live w.sheet ≠ 0) :
    (s.setRow c r).endTake c sub = s.setRow c (r.takeEnded sub) := by
  cases hs : r.sheet with
  | none =>
    simp only [State.endTake, row_setRow_self, hs, modRow_setRow]
    rw [ChanRow.takeEnded, hs]
  | some w =>
    simp only [State.endTake, row_setRow_self, hs, modRow_setRow]
    rw [ChanRow.takeEnded, hs]
    exact if_neg (h w hs)

/-- The stage of closing placements over: the operation waits for the write queue. -/
def ChanRow.drains (r : ChanRow) : ChanRow := { r with op := r.op.map fun op => op.at .draining }

theorem finishClosing_open (hc : r.placement.bind Placement.closing = some w) (hn : w.next ≤ 127) :
    (s.setRow c r).finishClosing c = { s.setRow c r.drains with engine := { s.engine with
      waiting := s.engine.waiting ++ [headerWriteOf s.setup c w (w.next - 1)] } } := by
  rw [State.finishClosing, row_setRow_self, hc]
  dsimp only
  rw [if_pos (show w.next ≤ Config.lastSlot from hn), closeSheet_eq]
  exact congrArg (fun t : State => { t with engine := { s.engine with
    waiting := s.engine.waiting ++ [headerWriteOf s.setup c w (w.next - 1)] } })
    (modRow_setRow (s := s) (c := c) (r := r) (f := fun r => { r with op := r.op.map fun op => op.at .draining }))

theorem finishClosing_full (hc : r.placement.bind Placement.closing = some w) (hn : 127 < w.next) :
    (s.setRow c r).finishClosing c = s.setRow c r.drains := by
  rw [State.finishClosing, row_setRow_self, hc]
  dsimp only
  rw [if_neg (show ¬ w.next ≤ Config.lastSlot from Nat.not_le.2 hn), State.setStage, modRow_setRow]
  rfl

theorem usableTarget_closing (hs : r.ctx.state ≠ .recording) (hc : r.placement.bind Placement.closing = some w)
    (hn : w.next ≤ 127) : r.usableTarget = some w := by
  rw [ChanRow.usableTarget, ChanRow.target, if_neg hs, hc]
  exact Option.filter_some_pos (decide_eq_true hn)

/-! ### The end of a take with nothing pending -/

/-- A take with nothing waiting, pending or lost: its write sheet closes, and the operation waits for the queue. -/
theorem stopTake_closes (hw : r.sheet = some w) (hn : w.next ≤ 127) (hp : r.placement = some p)
    (hq : firstWaiting r.queue = none) (hpending : r.codec.pending = 0) (hlost : r.codec.lost = 0)
    (hlive : s.live w.sheet ≠ 0) : (s.setRow c r).stopTake c sub =
      { s.setRow c (r.takeEnded sub).drains with engine := { s.engine with
        waiting := s.engine.waiting ++ [headerWriteOf s.setup c w (w.next - 1)] } } := by
  have hflush : (r.takeEnded sub).dueFlush = none := by
    rw [ChanRow.dueFlush]
    simp [ChanRow.takeEnded, hpending]
  rw [State.stopTake, endTake_live fun v hv => by cases hw.symm.trans hv; exact hlive]
  change State.settle c 32 _ = _
  rw [settle_closes (by rw [row_setRow_self]; exact asksLost_false (.inl hlost)) (by rw [row_setRow_self]; exact hflush)
    (by rw [row_setRow_self]; exact hq) (by rw [row_setRow_self]; exact takeEnded_placing r sub)
    (by rw [row_setRow_self]; exact hlost)]
  exact finishClosing_open (by simp [ChanRow.takeEnded, hp, hw]) hn

/-! ### The end of a take with a pause pending (R35) -/

/-- The row of an ended take whose flushed pause has been handed over. -/
def ChanRow.flushed (r : ChanRow) (queue : List QueueEntry) (lost : Nat) : ChanRow :=
  { r with flush := none, queue := queue, codec := { r.codec with lost := lost } }

theorem handFlush_full {n : Nat} (h : 4 ≤ r.queue.length) : (s.setRow c r).handFlush c n =
    s.setRow c (r.flushed r.queue (min (r.codec.lost + n) 120000)) := by
  rw [State.handFlush, row_setRow_self]
  refine (if_neg (show ¬ r.queue.length < Config.writeQueueLimit from Nat.not_lt.2 h)).trans ?_
  rw [State.loseFrames, modRow_setRow, modRow_setRow]
  rfl

theorem handFlush_joins {n : Nat} (h : r.queue.length < 4) : (s.setRow c r).handFlush c n =
    s.setRow c (r.flushed (r.queue ++ [.waiting (.pause n false) false]) r.codec.lost) := by
  rw [State.handFlush, row_setRow_self]
  refine (if_pos (show r.queue.length < Config.writeQueueLimit from h)).trans ?_
  rw [modRow_setRow, modRow_setRow]
  rfl

section Flush

variable (hq : firstWaiting r.queue = none) (hlost : r.codec.lost = 0) (hpending : 0 < r.codec.pending)

include hlost hpending


theorem takeEnded_flushes {n : Nat} : State.settle c (n + 1) (s.setRow c (r.takeEnded sub)) =
    State.settle c n ((s.setRow c (r.takeEnded sub)).handFlush c r.codec.pending) := by
  refine settle_flushes (by rw [row_setRow_self]; exact asksLost_false (.inl hlost)) ?_
  rw [row_setRow_self, ChanRow.dueFlush, takeEnded_placing]
  simp [ChanRow.takeEnded, hlost, hpending]

/-- The pause finds the write queue full: its frames are lost, and closing placements wait for room. -/
theorem stopTake_loses (hlive : ∀ w, r.sheet = some w → s.live w.sheet ≠ 0) (hq : firstWaiting r.queue = none)
    (hlen : 4 ≤ r.queue.length) : (s.setRow c r).stopTake c sub =
      s.setRow c ((r.takeEnded sub).flushed r.queue (min r.codec.pending 120000)) := by
  have hcount : (r.takeEnded sub).codec.lost + r.codec.pending = r.codec.pending := by
    rw [show (r.takeEnded sub).codec.lost = 0 from hlost, Nat.zero_add]
  have hpos : 0 < min r.codec.pending 120000 := Nat.lt_min.2 ⟨hpending, by decide⟩
  rw [State.stopTake, endTake_live hlive]
  change State.settle c 32 _ = _
  rw [takeEnded_flushes hlost hpending, handFlush_full (r := r.takeEnded sub) hlen, hcount]
  refine settle_rests ?_ ?_ ?_ ?_ <;> rw [row_setRow_self]
  · exact asksLost_false (.inr hlen)
  · rw [ChanRow.dueFlush]
    exact if_neg fun h => absurd (eq_of_beq (Bool.and_eq_true_iff.1 h).2) hpos.ne'
  · exact hq
  · exact fun h => hpos.ne' h.2

/-- The row of an ended take whose pause waits for its slot. -/
def ChanRow.pauseWaits (r : ChanRow) (sub : SubState) : ChanRow :=
  (r.takeEnded sub).flushed (r.queue ++ [.waiting (.pause r.codec.pending false) false]) r.codec.lost

/-- The row of an ended take once its pending pause stands in a slot of the closing sheet. -/
def ChanRow.paused (r : ChanRow) (sub : SubState) (w : WriteSheet) : ChanRow :=
  ((r.pauseWaits sub).withRecord w (.pause r.codec.pending false) (r.extendsSpan w)).drains

omit hlost hpending in
theorem pauseWaits_extends : (r.pauseWaits sub).extendsSpan w = r.extendsSpan w := by
  simp only [ChanRow.pauseWaits, ChanRow.flushed, ChanRow.takeEnded, ChanRow.extendsSpan, ChanRow.spanList]
  cases r.placement with
  | none => rfl
  | some q => cases (cutAt (r.spans.getD []) r.ctx.cursor).1.getLast? <;> rfl

omit hlost hpending in
theorem withRecord_setRow {q : ChanRow} {extend : Bool} : (s.setRow c q).withRecord c w rec extend =
    State.setRow { s with
      letters := s.letters.entered w.sheet w.next rec,
      engine := { s.engine with waiting := s.engine.waiting ++ placedWrites s.setup c w rec } } c
      (q.withRecord w rec extend) := by
  rw [State.withRecord, row_setRow_self, setRow_setRow]
  rfl

omit hlost hpending in
/-- The closing sheet closes behind the record just placed, its header naming that record's slot. -/
theorem finishClosing_placed {v : State} {q : ChanRow}
    (hc : q.placement.bind Placement.closing = some { w with next := w.next + 1 }) (hn : w.next ≤ 127) :
    (State.setRow { v with engine := { v.engine with waiting := v.engine.waiting ++ placedWrites v.setup c w rec } }
      c q).finishClosing c = { v.setRow c q.drains with engine := { v.engine with waiting := v.engine.waiting ++
        [writeOf (.channel c) (.recordWrite w.card w.sheet w.next)
          ((v.setup.poolBase + (8192 * w.sheet + 64 * w.next)) % 2 ^ 64) rec.bytes,
        headerWriteOf v.setup c w w.next] } } := by
  rcases Nat.lt_or_eq_of_le hn with hlt | heq
  · rw [finishClosing_open hc hlt, placedWrites, if_neg hlt.ne]
    change ({ v.setRow c q.drains with engine := { v.engine with waiting := (v.engine.waiting ++ _) ++ _ } } : State) = _
    rw [List.append_assoc]
    rfl
  · rw [finishClosing_full hc (show 127 < w.next + 1 by omega), placedWrites, if_pos heq]
    rw [heq]
    rfl

/-- The pause takes the next slot of the closing sheet, which then closes. -/
theorem stopTake_pauses (hlive : ∀ w, r.sheet = some w → s.live w.sheet ≠ 0) (hq : firstWaiting r.queue = none)
    (hlen : r.queue.length < 4) (hw : r.sheet = some w) (hn : w.next ≤ 127)
    (hp : r.placement = some p) (hm : p.mode ≠ .overwrite) (hf : r.length + r.codec.pending ≤ 120000)
    (he : r.extendsSpan w = true ∨ r.spanList.length < 1024) :
    (s.setRow c r).stopTake c sub = { s.setRow c (r.paused sub w) with
      letters := s.letters.entered w.sheet w.next (.pause r.codec.pending false),
      engine := { s.engine with waiting := s.engine.waiting ++
        [writeOf (.channel c) (.recordWrite w.card w.sheet w.next)
          ((s.setup.poolBase + (8192 * w.sheet + 64 * w.next)) % 2 ^ 64) (Rec.pause r.codec.pending false).bytes,
        headerWriteOf s.setup c w w.next] } } := by
  have hclosing : (r.pauseWaits sub).placement.bind Placement.closing = some w := by
    simp [ChanRow.pauseWaits, ChanRow.flushed, ChanRow.takeEnded, hp, hw]
  have hhead : (s.setRow c (r.pauseWaits sub)).placeHead c (.pause r.codec.pending false) =
      (.placed false, (s.setRow c (r.pauseWaits sub)).withRecord c w (.pause r.codec.pending false) (r.extendsSpan w)) := by
    rw [placeHead_usable (w := w) (by rw [row_setRow_self]; exact hf)
      (by rw [row_setRow_self]; exact usableTarget_closing nofun hclosing hn)
      (by rw [row_setRow_self, pauseWaits_extends]; exact he), countLost_voice rfl, row_setRow_self, pauseWaits_extends,
      placeInto_keeps fun q hq => ?_]
    rw [row_setRow_self] at hq
    obtain ⟨v, hv, rfl⟩ := Option.map_eq_some_iff.1 hq
    exact Option.some.inj (hp.symm.trans hv) ▸ hm
  rw [State.stopTake, endTake_live hlive]
  change State.settle c 32 _ = _
  rw [takeEnded_flushes hlost hpending, handFlush_joins (r := r.takeEnded sub) hlen]
  change State.settle c 31 (s.setRow c (r.pauseWaits sub)) = _
  rw [settle_places (asksLost_false (by rw [row_setRow_self]; exact .inl hlost)) ?_ ?_ hhead, withRecord_setRow]
  · have hrests : firstWaiting ((r.pauseWaits sub).withRecord w (.pause r.codec.pending false) (r.extendsSpan w)).queue = none := by
      refine (congrArg firstWaiting (makeReady_append hq)).trans ?_
      rw [firstWaiting_append hq]
      rfl
    rw [settle_closes ?_ ?_ (by rw [row_setRow_self]; exact hrests) ?_ (by rw [row_setRow_self]; exact hlost)]
    · refine finishClosing_placed (v := { s with
        letters := s.letters.entered w.sheet w.next (.pause r.codec.pending false) }) ?_ hn
      simp [ChanRow.withRecord, ChanRow.pauseWaits, ChanRow.flushed, ChanRow.takeEnded, hp]
    · rw [row_setRow_self]
      exact asksLost_false (.inl hlost)
    · rw [row_setRow_self, ChanRow.dueFlush]
      exact ite_self none
    · rw [row_setRow_self]
      exact takeEnded_placing r sub
  · rw [row_setRow_self, ChanRow.dueFlush]
    exact ite_self none
  · rw [row_setRow_self]
    exact (firstWaiting_append hq).trans rfl

end Flush

/-! ### What every end of a take leaves (R16, R17) -/

/-- The operation of an ended take, at a stage. -/
def takeOp (sub : SubState) (stage : OpStage) : CardOp :=
  if sub = .closing then .suspending stage else .checkpoint stage

/-- A state in which a take of the channel, from row r, has been stopped. -/
structure TakeStops (c : Chan) (s : State) (r : ChanRow) (sub : SubState) (u : State) : Prop where
  rest : u = { s with chans := u.chans, letters := u.letters, sheets := u.sheets, engine := u.engine }
  others : OtherRows c s u
  requests : ∀ q ∈ u.sheets.waiting, q ∈ s.sheets.waiting ∨ q = .take c
  state : (u.row c).ctx.state = .busy sub
  sheet : (u.row c).sheet = none
  context : PlacingContext (r.takeEnded sub).ctx (u.row c).ctx
  op : (u.row c).op = some (takeOp sub .placing) ∨ (u.row c).op = some (takeOp sub .draining)

section Stops

variable (h : TakeStops c s r sub u)

include h

theorem TakeStops.regs : u.regs = s.regs := (congrArg State.regs h.rest :)

theorem TakeStops.desk : u.desk = s.desk := (congrArg State.desk h.rest :)

theorem TakeStops.written : u.written = s.written := (congrArg State.written h.rest :)

theorem TakeStops.msi : u.msi = s.msi := (congrArg State.msi h.rest :)

theorem TakeStops.keys : (u.row c).ctx.keys = r.ctx.keys := (congrArg Context.keys h.context :)

theorem TakeStops.letter : (u.row c).ctx.letter = r.ctx.letter := (congrArg Context.letter h.context :)

end Stops

theorem stopTake_stops (s : State) (c : Chan) (r : ChanRow) (sub : SubState) :
    TakeStops c s r sub ((s.setRow c r).stopTake c sub) := by
  have h := stopTake_places (s := s.setRow c r) (c := c) sub
  rw [modRow_setRow] at h
  have hrow := h.row
  have hcontext := h.context
  rw [row_setRow_self] at hrow hcontext
  cases hrow with
  | ended was => exact absurd was nofun
  | stays hstate hsheet hop =>
    refine ⟨h.rest, fun d hd => (h.others d hd).trans (row_setRow_ne hd), h.requests, hstate, hsheet nofun, hcontext, ?_⟩
    rcases hop with hop | ⟨-, hop⟩
    · exact .inl hop
    · refine .inr (hop.trans ?_)
      by_cases hs : sub = .closing
      · simp only [ChanRow.takeEnded, takeOp, if_pos hs, Option.map_some, CardOp.at]
      · simp only [ChanRow.takeEnded, takeOp, if_neg hs, Option.map_some, CardOp.at]

/-! ### The keys that end a take -/

/-- The row of a take that a key ends: STOP goes, any other key stays at the head (R18). -/
def ChanRow.keyEnded (r : ChanRow) (code : Nat) (rest : List Key) : ChanRow :=
  if code = 3 then r.withKeys rest else r

theorem keyEnded_other {code : Nat} {rest : List Key} (h : code ≠ 3) :
    s.setRow c ((s.row c).keyEnded code rest) = s := by
  rw [ChanRow.keyEnded, if_neg h, setRow_row]

section Keys

variable {code arg : Nat} {rest : List Key} {i : Instr}

/-- Each of these keys stops the take. -/
theorem key_stops (h : KeyAtHead s c .recording code arg rest)
    (hi : (code, i) ∈ [(1, Instr.keyNew c), (3, .keyStop c), (4, .keyPlay c), (7, .keyStart c), (8, .keyEnd c),
      (12, .keyFile c)] ∨ (arg ≠ 0 ∧ (code, i) ∈ [(5, Instr.keyRewind c), (6, .keyForward c)])) :
    ∃ d, exec i s = .next { (s.setRow c ((s.row c).keyEnded code rest)).stopTake c .saving with desk := d } := by
  have hrec : ∀ act : State → State, s.letterKey c act = s.stopTake c .saving := fun act => letterKey_recording h.state
  have hbody : ∃ p body, exec i s = done s (s.takeKey c p body) ∧ p code = true ∧
      body { code := code, arg := arg } = (s.setRow c ((s.row c).keyEnded code rest)).stopTake c .saving := by
    simp only [List.mem_cons, List.not_mem_nil, or_false, Prod.mk.injEq] at hi
    rcases hi with (⟨rfl, rfl⟩ | ⟨rfl, rfl⟩ | ⟨rfl, rfl⟩ | ⟨rfl, rfl⟩ | ⟨rfl, rfl⟩ | ⟨rfl, rfl⟩) | ⟨harg, ⟨rfl, rfl⟩ | ⟨rfl, rfl⟩⟩
    · exact ⟨_, _, rfl, rfl, by rw [keyEnded_other (by decide)]; simp only [State.actNew, h.takes]⟩
    · exact ⟨_, _, rfl, rfl, by
        rw [ChanRow.keyEnded, if_pos rfl, ← popKey_eq h]; simp only [State.actStop, h.takes]⟩
    · exact ⟨_, _, rfl, rfl, by rw [keyEnded_other (by decide)]; exact hrec _⟩
    · exact ⟨_, _, rfl, rfl, by rw [keyEnded_other (by decide)]; exact hrec _⟩
    · exact ⟨_, _, rfl, rfl, by rw [keyEnded_other (by decide)]; exact hrec _⟩
    · exact ⟨_, _, rfl, rfl, by rw [keyEnded_other (by decide)]; exact hrec _⟩
    · exact ⟨_, _, rfl, rfl, by
        rw [keyEnded_other (by decide)]; exact (if_neg harg).trans (hrec _)⟩
    · exact ⟨_, _, rfl, rfl, by
        rw [keyEnded_other (by decide)]; exact (if_neg harg).trans (hrec _)⟩
  obtain ⟨p, body, he, hp, hb⟩ := hbody
  have hstops := stopTake_stops s c ((s.row c).keyEnded code rest) .saving
  obtain ⟨d, hd, -⟩ := key_desk h (by simp) hp hb hstops.regs hstops.desk
  exact ⟨d, he.trans hd⟩

/-- Settles O22: the take ends in the row the key leaves; then nothing is pending, or the pause is lost or placed. -/
theorem keysEndATake : Obligations.KeysEndATake := by
  intro s c code arg rest i h hi r
  obtain ⟨d, hd⟩ := key_stops h hi
  have hstops := stopTake_stops s c (r.keyEnded code rest) .saving
  have hrow : ∃ keys, r.keyEnded code rest = { r with ctx := { r.ctx with keys := keys } } ∧
      keys = if code = 3 then rest else { code := code, arg := arg } :: rest := by
    rw [ChanRow.keyEnded]
    split
    · exact ⟨rest, rfl, rfl⟩
    · exact ⟨r.ctx.keys, rfl, h.keys⟩
  obtain ⟨keys, hrow, hkeys⟩ := hrow
  rw [show (s.row c).keyEnded code rest = _ from hrow] at hd
  rw [hrow] at hstops
  refine ⟨_, hd, hstops.others, hstops.regs, hstops.written, hstops.msi, hstops.state, hstops.sheet,
    hstops.keys.trans hkeys, hstops.letter, ?_, ?_, ?_⟩
  · rcases hstops.op with hop | hop
    · exact List.mem_cons.2 (.inl hop)
    · exact List.mem_cons.2 (.inr (List.mem_singleton.2 hop))
  · intro w p hw hn hp hq hpending hlost hlive
    rw [stopTake_closes (r := { r with ctx := { r.ctx with keys := keys } }) hw hn hp (by rw [hq]; rfl)
      hpending hlost hlive]
    change ((State.setRow s c _).row c).op = _ ∧ ((State.setRow s c _).row c).queue = _ ∧ _
    rw [row_setRow_self]
    exact ⟨rfl, hq, rfl, rfl⟩
  · intro w p hw hp hq hlost hpending hlive
    have hlive' : ∀ v, r.sheet = some v → s.live v.sheet ≠ 0 := fun v hv => by cases hw.symm.trans hv; exact hlive
    refine ⟨fun hlen => ?_, fun before after hlen hf hn hm hat he => ?_⟩
    · rw [stopTake_loses (r := { r with ctx := { r.ctx with keys := keys } }) hlost hpending hlive' hq hlen]
      change ((State.setRow s c _).row c).op = _ ∧ ((State.setRow s c _).row c).queue = _ ∧
        ((State.setRow s c _).row c).spans = _ ∧ ((State.setRow s c _).row c).flush = _ ∧ _ ∧
        ((State.setRow s c _).row c).codec = _
      rw [row_setRow_self]
      exact ⟨rfl, rfl, rfl, rfl, rfl, rfl⟩
    · rw [stopTake_pauses (r := { r with ctx := { r.ctx with keys := keys } }) hlost hpending hlive' hq hlen hw hn hp hm
        hf (hat.room hp he)]
      refine ⟨_, hat.joined hp w r.codec.pending, ?_⟩
      change ((State.setRow s c _).row c).spans = _ ∧ ((State.setRow s c _).row c).op = _ ∧
        ((State.setRow s c _).row c).queue = _ ∧ ((State.setRow s c _).row c).ctx.cursor = _ ∧
        ((State.setRow s c _).row c).codec = _ ∧ ((State.setRow s c _).row c).flush = _ ∧ _
      rw [row_setRow_self]
      refine ⟨rfl, rfl, makeReady_append hq, rfl, ?_, rfl, recordEntered rfl, rfl⟩
      exact congrArg (fun n => ({ silent := 0, pending := 0, lost := n } : PauseRun)) hlost

end Keys

end Sys2Proof.Machine
end

section
/-! PROOFS. An open request withdrawn and a channel unbound, and the orders that bind, close and file: STATION SETUP,
STATION CLOSE and FILE LETTER. -/

namespace Sys2Proof.Machine

open Sys2Proof

variable {s t u v : State} {c d : Chan} {k : OrderSlot} {r : ChanRow}

/-! ### An open request withdrawn (R100) -/

/-- The reads of a search, to complete into nothing. -/
def State.searchAbandoned (s : State) : State :=
  { s with engine := { s.engine with
      waiting := s.engine.waiting.map fun a =>
        if a.purpose = .searchRead then { a with purpose := .abandonedRead .cards } else a,
      flight := s.engine.flight.map fun a =>
        if a.purpose = .searchRead then { a with purpose := .abandonedRead .cards } else a } }

theorem abandon_search : s.abandon (fun p => p == .searchRead) = s.searchAbandoned := by
  have hgive : ∀ a : Access, (if (a.purpose == .searchRead) = true
      then { a with purpose := .abandonedRead a.purpose.area } else a) =
      if a.purpose = .searchRead then { a with purpose := .abandonedRead .cards } else a := by
    intro a
    by_cases h : a.purpose = .searchRead
    · rw [if_pos h, if_pos (beq_iff_eq.2 h), h]
      rfl
    · rw [if_neg h, if_neg (mt beq_iff_eq.1 h)]
  simp only [State.abandon, State.searchAbandoned, hgive]

/-- A search serves the channel's open request. -/
def State.searched (s : State) (c : Chan) : Prop :=
  (s.row c).ctx.openRequest ≠ none ∧ ∃ n, s.cards.search = some { channel := c, examined := n }

/-- What the withdrawal of a channel's open request, outstanding or not, leaves of engine, cards and sheets. -/
structure Withdrawal (c : Chan) (s u : State) : Prop where
  engineKept : ¬ s.searched c → u.engine = s.engine
  engineGiven : s.searched c → u.engine = s.searchAbandoned.engine
  kept : ¬ (s.row c).ctx.openRequest ≠ none → u.cards = s.cards ∧ u.sheets = s.sheets
  taken : (s.row c).ctx.openRequest ≠ none →
    u.cards.openQueue = s.cards.openQueue.filter (· ≠ c) ∧
    u.cards.search = (if s.cards.search.map Search.channel = some c then none else s.cards.search) ∧
    u.sheets = { s.sheets with waiting := s.sheets.waiting.filter (· ≠ .index c) } ∧
    ∀ card, (s.row c).op = some (.opening (some card)) → HoldingEnds s u card
  ended : ∀ card, Table.get s.cards.holdings card = none → Table.get u.cards.holdings card = none

/-- The row of a channel whose open request is withdrawn. -/
def ChanRow.withdrawn (r : ChanRow) : ChanRow :=
  { r with
    op := if r.ctx.openRequest ≠ none then none else r.op,
    ctx := { r.ctx with openRequest := none } }

theorem withdrawn_none (h : r.ctx.openRequest = none) : r.withdrawn = r := by
  rw [ChanRow.withdrawn, if_neg (not_not.2 h), ← h]

theorem holdingEnds_endHolding {card : Nat} (h : u.cards.holdings = (s.endHolding card).cards.holdings ∧
    u.cards.images = (s.endHolding card).cards.images) : HoldingEnds s u card := by
  obtain ⟨hh, hi⟩ := h
  refine ⟨?_, ?_, fun n hn => ?_, fun n hn => ?_⟩
  · rw [hh]; exact get_erase_self
  · rw [hi]; exact get_erase_self
  · rw [hh]; exact get_erase_ne hn
  · rw [hi]; exact get_erase_ne hn

/-- The holding of the card that an opening has taken ends (R100). -/
def State.endOpening (s : State) (op : Option CardOp) : State :=
  match op with
  | some (.opening (some card)) => s.endHolding card
  | _ => s

theorem endOpening_frame (s : State) (op : Option CardOp) : ∃ h i, s.endOpening op =
    { s with cards := { s.cards with holdings := h, images := i } } := by
  unfold State.endOpening
  split
  · exact ⟨_, _, rfl⟩
  · exact ⟨_, _, rfl⟩

theorem endOpening_ends {op : Option CardOp} {card : Nat} (h : Table.get s.cards.holdings card = none) :
    Table.get (s.endOpening op).cards.holdings card = none := by
  unfold State.endOpening
  split
  · next n =>
    by_cases hn : card = n
    · rw [hn]
      exact get_erase_self
    · exact (get_erase_ne hn).trans h
  · exact h

/-- The state once a channel's outstanding open request is withdrawn, row and card apart. -/
def State.requestWithdrawn (s : State) (c : Chan) : State :=
  { s with
    cards := { s.cards with
      openQueue := s.cards.openQueue.filter (· ≠ c),
      search := if s.cards.search.map Search.channel = some c then none else s.cards.search },
    sheets := { s.sheets with waiting := s.sheets.waiting.filter (· ≠ .index c) },
    engine := if s.cards.search.map Search.channel = some c then s.searchAbandoned.engine else s.engine }

theorem withdrawOpen_asking (h : (s.row c).ctx.openRequest ≠ none) :
    s.withdrawOpen c = ((s.requestWithdrawn c).endOpening (s.row c).op).setRow c (s.row c).withdrawn := by
  have hfilter : (fun x : Chan => x != c) = fun x => decide (x ≠ c) := funext fun x => decide_not.symm
  have hwithdrawn : s.withdrawOpen c = ((s.requestWithdrawn c).endOpening (s.row c).op).modRow c fun r => { r with
      op := none, ctx := { r.ctx with openRequest := none } } := by
    rw [State.withdrawOpen, if_neg (by rw [Option.isNone_iff_eq_none]; exact h)]
    cases hq : s.cards.search with
    | none =>
      simp only [withdrawRequest_eq, State.requestWithdrawn, hfilter, hq, Bool.false_eq_true, if_false]
      rfl
    | some q =>
      by_cases hc : q.channel = c
      · simp only [abandon_search, withdrawRequest_eq, State.requestWithdrawn, hfilter, hq, hc, beq_self_eq_true, if_true,
          Option.map_some]
        rfl
      · simp only [withdrawRequest_eq, State.requestWithdrawn, hfilter, hq, beq_eq_false_iff_ne.2 hc,
          Bool.false_eq_true, if_false, Option.map_some, Option.some.injEq, hc]
        rfl
  have hrow : (s.row c).withdrawn = { s.row c with op := none, ctx := { (s.row c).ctx with openRequest := none } } := by
    rw [ChanRow.withdrawn, if_pos h]
  obtain ⟨hs, is, hframe⟩ := endOpening_frame (s.requestWithdrawn c) (s.row c).op
  rw [hwithdrawn, hrow, hframe]
  rfl

theorem searched_iff (h : (s.row c).ctx.openRequest ≠ none) : s.searched c ↔ s.cards.search.map Search.channel = some c := by
  rw [State.searched, and_iff_right h, Option.map_eq_some_iff]
  constructor
  · rintro ⟨n, hn⟩
    exact ⟨_, hn, rfl⟩
  · rintro ⟨q, hq, rfl⟩
    exact ⟨q.examined, hq⟩

theorem withdrawal_asking (h : (s.row c).ctx.openRequest ≠ none) :
    Withdrawal c s ((s.requestWithdrawn c).endOpening (s.row c).op) := by
  have hsearched := searched_iff h
  obtain ⟨hs, is, hframe⟩ := endOpening_frame (s.requestWithdrawn c) (s.row c).op
  refine ⟨fun hn => ?_, fun hy => ?_, fun hn => absurd h hn, fun _ => ⟨?_, ?_, ?_, fun card hop => ?_⟩, fun _ hcard =>
    endOpening_ends (s := s.requestWithdrawn c) hcard⟩
  · rw [hframe]
    exact if_neg (mt hsearched.2 hn)
  · rw [hframe]
    exact if_pos (hsearched.1 hy)
  · rw [hframe]; rfl
  · rw [hframe]; rfl
  · rw [hframe]; rfl
  · rw [hop]
    exact holdingEnds_endHolding ⟨rfl, rfl⟩

theorem withdrawOpen_eq (s : State) (c : Chan) : ∃ u, s.withdrawOpen c = u.setRow c (s.row c).withdrawn ∧
    u = { s with cards := u.cards, sheets := u.sheets, engine := u.engine } ∧ Withdrawal c s u := by
  by_cases hasks : (s.row c).ctx.openRequest = none
  · refine ⟨s, ?_, rfl, fun _ => rfl, fun h => absurd hasks h.1, fun _ => ⟨rfl, rfl⟩, fun h => absurd hasks h, fun _ h => h⟩
    rw [withdrawn_none hasks, setRow_row, State.withdrawOpen]
    exact if_pos (by rw [hasks]; rfl)
  · obtain ⟨hs, is, hframe⟩ := endOpening_frame (s.requestWithdrawn c) (s.row c).op
    exact ⟨_, withdrawOpen_asking hasks, by rw [hframe]; rfl, withdrawal_asking hasks⟩

/-! ### Timeslots released (R113, R120) -/

/-- The input sides with one of them released. -/
def inputsReleased (l : Vector InputSlot 64) (slot : Option Timeslot) : Vector InputSlot 64 :=
  match slot with
  | none => l
  | some t => l.set t (InputReleased l[t])

/-- The output sides with the owner of one of them gone. -/
def outputsReleased (l : Vector OutputSlot 64) (slot : Option Timeslot) : Vector OutputSlot 64 :=
  match slot with
  | none => l
  | some t => l.set t { l[t] with owner := none }

theorem releaseInput_eq {slot : Option Timeslot} :
    s.releaseInput slot = { s with inputs := inputsReleased s.inputs slot } := by
  cases slot <;> rfl

theorem releaseOutput_eq {slot : Option Timeslot} :
    s.releaseOutput slot = { s with outputs := outputsReleased s.outputs slot } := by
  cases slot <;> rfl

theorem inputsReleased_get (l : Vector InputSlot 64) (slot : Option Timeslot) (n : Timeslot) :
    (inputsReleased l slot)[n] = if slot = some n then InputReleased l[n] else l[n] := by
  cases slot with
  | none => rfl
  | some m =>
    rw [inputsReleased, Fin.getElem_fin, Vector.getElem_set]
    by_cases h : m = n
    · subst h
      rw [if_pos rfl, if_pos rfl]
    · rw [if_neg (fun he => h (Fin.ext he)), if_neg (fun he => h (Option.some.inj he))]
      rfl

theorem outputsReleased_get (l : Vector OutputSlot 64) (slot : Option Timeslot) (n : Timeslot) :
    (outputsReleased l slot)[n] = if slot = some n then { l[n] with owner := none } else l[n] := by
  cases slot with
  | none => rfl
  | some m =>
    rw [outputsReleased, Fin.getElem_fin, Vector.getElem_set]
    by_cases h : m = n
    · subst h
      rw [if_pos rfl, if_pos rfl]
    · rw [if_neg (fun he => h (Fin.ext he)), if_neg (fun he => h (Option.some.inj he))]
      rfl

/-! ### A channel unbound (R25) -/

/-- The row of a channel unbound: every field of a block's own at its reset value, the queues of other blocks
standing. -/
def ChanRow.unbound (r : ChanRow) : ChanRow :=
  { r with
    ctx := Context.reset, codec := PauseRun.reset, flush := none, placement := none, sheet := none,
    ahead := [], began := false, op := none }

/-- The order of a pending action is answered, where there is one. -/
def State.answer (s : State) (k : Option OrderSlot) (code first second : Nat) : State :=
  match k with
  | some k => s.finish k code first second
  | none => s

/-- The state of a channel's unbinding, its orders not yet answered. -/
def State.unbinding (s u : State) (c : Chan) : State :=
  ({ u with
    inputs := inputsReleased s.inputs (s.row c).ctx.inSlot,
    outputs := outputsReleased s.outputs (s.row c).ctx.outSlot } : State).setRow c (s.row c).unbound

theorem unbind_eq (s : State) (c : Chan) (first second : Nat) : ∃ u,
    s.unbind c first second = ((s.unbinding u c).answer (s.row c).ctx.pendingClose 0 first second).answer
      (s.row c).ctx.pendingFile 19 0 0 ∧
    u = { s with cards := u.cards, sheets := u.sheets, engine := u.engine } ∧ Withdrawal c s u := by
  obtain ⟨u, heq, hframe, hw⟩ := withdrawOpen_eq s c
  refine ⟨u, ?_, hframe, hw⟩
  have hinputs : u.inputs = s.inputs := (congrArg State.inputs hframe :)
  have houtputs : u.outputs = s.outputs := (congrArg State.outputs hframe :)
  have hstate : (((s.withdrawOpen c).releaseInput (s.row c).ctx.inSlot).releaseOutput (s.row c).ctx.outSlot).modRow c
      ChanRow.unbound = s.unbinding u c := by
    rw [heq, releaseInput_eq, releaseOutput_eq, State.unbinding, ← hinputs, ← houtputs]
    exact modRow_setRow (s := { u with
      inputs := inputsReleased u.inputs (s.row c).ctx.inSlot, outputs := outputsReleased u.outputs (s.row c).ctx.outSlot })
  rw [← hstate]
  rfl

end Sys2Proof.Machine
end

section
/-! PROOFS. STATION SETUP, STATION CLOSE and FILE LETTER: their checks, and what each does by the channel's state. -/

namespace Sys2Proof.Machine

open Sys2Proof

variable {s t u v : State} {c d : Chan} {k : OrderSlot} {r : ChanRow}

theorem Withdrawal.leaves (h : Withdrawal c s u) (hc : t.cards = u.cards) (hs : t.sheets = u.sheets) :
    (¬ (s.row c).ctx.openRequest ≠ none → t.cards = s.cards ∧ t.sheets = s.sheets) ∧
    ((s.row c).ctx.openRequest ≠ none →
      t.cards.openQueue = s.cards.openQueue.filter (· ≠ c) ∧
      t.cards.search = (if s.cards.search.map Search.channel = some c then none else s.cards.search) ∧
      t.sheets = { s.sheets with waiting := s.sheets.waiting.filter (· ≠ .index c) } ∧
      ∀ card, (s.row c).op = some (.opening (some card)) → HoldingEnds s t card) := by
  rw [hc, hs]
  refine ⟨h.kept, fun hy => ?_⟩
  obtain ⟨h1, h2, h3, h4⟩ := h.taken hy
  refine ⟨h1, h2, h3, fun card hop => ?_⟩
  obtain ⟨g1, g2, g3, g4⟩ := h4 card hop
  exact ⟨hc ▸ g1, hc ▸ g2, hc ▸ g3, hc ▸ g4⟩

/-! ### STATION SETUP (R136) -/

theorem otherOwner_own {owner : Option Chan} (h : ¬ (owner ≠ none ∧ owner ≠ some c)) : otherOwner owner c = none := by
  rw [otherOwner]
  cases owner with
  | none => rfl
  | some d =>
    have hd : d = c := by
      by_contra hne
      exact h ⟨nofun, fun he => hne (Option.some.inj he)⟩
    rw [hd]
    exact Option.filter_some_neg (by simp)

theorem otherOwner_other {owner : Option Chan} (hd : d ≠ c) (h : owner = some d) : otherOwner owner c = some d := by
  rw [otherOwner, h]
  exact Option.filter_some_pos (by simpa using hd)

theorem inRange_iff {o : SetupOrder} : o.inRange = true ↔
    o.channel < 32 ∧ o.input < 64 ∧ o.output < 64 ∧ o.threshold ≤ 32767 ∧ o.hangover ≤ 15 ∧
      1 ≤ o.maxPause ∧ 1 ≤ o.recover ∧ o.recover ≤ 15 ∧ o.priority ≤ 1 := by
  simp only [SetupOrder.inRange, Bool.and_eq_true, decide_eq_true_eq, and_assoc]

/-- The state of a channel's binding, the order not yet answered. -/
def State.binding (s u : State) (c : Chan) (o : SetupOrder) (input output : Timeslot) : State :=
  ({ u with
    inputs := (inputsReleased s.inputs (s.row c).ctx.inSlot).set input
      { s.inputs[input] with owner := some c, line := some .down, good := 0 },
    outputs := (outputsReleased s.outputs (s.row c).ctx.outSlot).set output
      { s.outputs[output] with owner := some c } } : State).setRow c
    { (s.row c).withdrawn with ctx := boundContext o input output, codec := PauseRun.reset }

theorem bind_eq (s : State) (c : Chan) (o : SetupOrder) (input output : Timeslot) : ∃ u,
    s.bind c o input output = s.binding u c o input output ∧
    u = { s with cards := u.cards, sheets := u.sheets, engine := u.engine } ∧ Withdrawal c s u := by
  obtain ⟨u, heq, hframe, hw⟩ := withdrawOpen_eq s c
  refine ⟨u, ?_, hframe, hw⟩
  have hinputs : u.inputs = s.inputs := (congrArg State.inputs hframe :)
  have houtputs : u.outputs = s.outputs := (congrArg State.outputs hframe :)
  have hinput : { (inputsReleased s.inputs (s.row c).ctx.inSlot)[input] with
      owner := some c, line := some .down, good := 0 } =
      ({ s.inputs[input] with owner := some c, line := some .down, good := 0 } : InputSlot) := by
    rw [inputsReleased_get]
    split <;> rfl
  have houtput : { (outputsReleased s.outputs (s.row c).ctx.outSlot)[output] with owner := some c } =
      ({ s.outputs[output] with owner := some c } : OutputSlot) := by
    rw [outputsReleased_get]
    split <;> rfl
  rw [State.bind, heq, releaseInput_eq, releaseOutput_eq, State.binding, ← hinput, ← houtput, ← hinputs, ← houtputs]
  exact congrArg (fun v : State => { v with
      inputs := (inputsReleased u.inputs (s.row c).ctx.inSlot).set input
        { (inputsReleased u.inputs (s.row c).ctx.inSlot)[input] with owner := some c, line := some .down, good := 0 },
      outputs := (outputsReleased u.outputs (s.row c).ctx.outSlot).set output
        { (outputsReleased u.outputs (s.row c).ctx.outSlot)[output] with owner := some c } })
    (modRow_setRow (s := u) (c := c) (r := (s.row c).withdrawn)
      (f := fun r => { r with ctx := boundContext o input output, codec := PauseRun.reset }))

/-- The order behind its range check, the numbers it names as the channel and timeslots they are. -/
theorem stationSetup_inRange {o : SetupOrder} {input output : Timeslot} (hr : o.inRange = true) (hc : c.val = o.channel)
    (hin : input.val = o.input) (hout : output.val = o.output) : s.stationSetup k o =
      match s.chanState c with
      | .unbound | .idle =>
        match otherOwner s.inputs[input].owner c, otherOwner s.outputs[output].owner c with
        | some d, _ => s.finish k 20 d.val 0
        | none, some d => s.finish k 20 d.val 0
        | none, none => (s.bind c o input output).finish k 0 0 0
      | _ => s.finish k 19 0 0 := by
  have hchannel : (Fin.ofNat 32 o.channel : Chan) = c := Fin.ext (hc ▸ Nat.mod_eq_of_lt c.isLt)
  have hinput : (Fin.ofNat 64 o.input : Timeslot) = input := Fin.ext (hin ▸ Nat.mod_eq_of_lt input.isLt)
  have houtput : (Fin.ofNat 64 o.output : Timeslot) = output := Fin.ext (hout ▸ Nat.mod_eq_of_lt output.isLt)
  subst hchannel hinput houtput
  exact if_pos hr

/-- A channel bound: the order DONE behind its binding. -/
theorem setup_binds {o : SetupOrder} {input output : Timeslot} {p : Nat → Bool} {body : OrderSlot → List Byte → State}
    {kind : Nat} (h : OrderAt s k kind) (hp : p kind = true)
    (hb : body k (s.orders.slotData k) = (s.bind c o input output).finish k 0 0 0) : ∃ u t,
    done s (s.takeOrder p body) = .next t ∧ Withdrawal c s u ∧ SweptOn s t k ∧ DeskReported s t ∧
    Answered { s with engine := u.engine } t k 0 0 0 ∧
    t = { s.binding u c o input output with
      cards := u.cards, sheets := u.sheets, orders := t.orders, engine := t.engine, desk := t.desk } ∧
    u = { s with cards := u.cards, sheets := u.sheets, engine := u.engine } := by
  obtain ⟨u, heq, hframe, hw⟩ := bind_eq s c o input output
  have horders : u.orders = s.orders := (congrArg State.orders hframe :)
  have hbase : u.base = s.base := (congrArg State.base hframe :)
  have hregs : u.regs = s.regs := (congrArg State.regs hframe :)
  have hdesk : u.desk = s.desk := (congrArg State.desk hframe :)
  rw [heq] at hb
  obtain ⟨h1, h2, h3⟩ := finish_answered (s := { s with engine := u.engine }) (b := s.binding u c o input output)
    (first := 0) (second := 0) h.acting (by decide : 0 < 256) horders rfl hbase
  rw [takeOrder_finish h hp hb horders]
  generalize ((s.binding u c o input output).finish k 0 0 0).sweepOn (k.val + 1) = x at *
  have hpart : x.regs.part ≠ .starting := by
    rw [h3]
    change u.regs.part ≠ .starting
    rw [hregs, h.running]
    nofun
  obtain ⟨d, hd, hrep⟩ := done_desk (s := s) hpart ((congrArg State.desk h3).trans hdesk)
  refine ⟨u, _, hd, hw, ⟨h2.next, h2.ended⟩, hrep, h1.of_units_eq rfl rfl, ?_, hframe⟩
  rw [h3]
  rfl

/-- Settles O31: the checks in their order, then the binding behind a withdrawn open request. -/
theorem stationSetupBindsOrRefuses : Obligations.StationSetupBindsOrRefuses := by
  unfold Obligations.StationSetupBindsOrRefuses
  intro s k h o fits
  refine ⟨fun hf => ?_, fun c input output hf hc hin hout => ?_⟩
  · exact answered_only h rfl (by decide) (if_neg (mt inRange_iff.1 hf))
  have hbody := stationSetup_inRange (s := s) (k := k) (inRange_iff.2 hf) hc hin hout
  intro state other asks searched given
  refine ⟨fun hu hi => ?_, fun hst d hne hd => ?_, fun hst hin' hout' => ?_⟩
  · refine answered_only h rfl (by decide) (hbody.trans ?_)
    split
    · next he => exact absurd he hu
    · next he => exact absurd he hi
    · rfl
  · have hchosen : ∀ a b : State, (match s.chanState c with | .unbound | .idle => a | _ => b) = a := by
      intro a b
      rcases hst with he | he <;> simp only [show s.chanState c = _ from he]
    refine answered_only h rfl (by decide) (hbody.trans ((hchosen _ _).trans ?_))
    rcases hd with hd | ⟨hown, hd⟩
    · rw [otherOwner_other hne hd]
    · rw [otherOwner_own hown, otherOwner_other hne hd]
  · have hbound : ∃ u t, _ := setup_binds (p := (· == 1))
      (body := fun k data => s.stationSetup k (setupOrderOf data)) (c := c) (o := o) (input := input) (output := output)
      h rfl (hbody.trans (by
        rw [otherOwner_own hin', otherOwner_own hout']
        rcases hst with he | he <;> simp only [show s.chanState c = _ from he]))
    obtain ⟨u, t, ht, hw, hswept, hrep, hanswered, hframe, hu⟩ := hbound
    have hrows : ∀ d, t.row d = (s.binding u c o input output).row d := fun d => by rw [hframe]; rfl
    have hcards : t.cards = u.cards := by rw [hframe]
    have hsheets : t.sheets = u.sheets := by rw [hframe]
    have hinputs : t.inputs = (s.binding u c o input output).inputs := by rw [hframe]
    have houtputs : t.outputs = (s.binding u c o input output).outputs := by rw [hframe]
    have hrow := (hrows c).trans row_setRow_self
    have hchans : u.chans = s.chans := (congrArg State.chans hu :)
    refine ⟨t, ht, hswept, fun d hd => (hrows d).trans ((row_setRow_ne hd).trans ?_), hrep, ?_, ?_, ?_, ?_, ?_, ?_, ?_, ?_,
      ?_, ?_, ?_, ?_⟩
    · exact congrArg (fun l : Vector ChanRow 32 => l[d]) hchans
    · intro hn
      have he : u.engine = s.engine := hw.engineKept hn
      rw [he] at hanswered
      exact hanswered
    · intro hy
      have he : u.engine = s.searchAbandoned.engine := hw.engineGiven hy
      rw [he] at hanswered
      exact hanswered
    · exact (hw.leaves hcards hsheets).1
    · exact (hw.leaves hcards hsheets).2
    · rw [hframe, hu]
      rfl
    · intro hy
      rw [hrow]
      exact if_pos hy
    · intro hn
      rw [hrow]
      exact if_neg hn
    · rw [hrow]
      rfl
    · rw [hinputs]
      exact Vector.getElem_set_self _
    · rw [houtputs]
      exact Vector.getElem_set_self _
    · intro n hn
      rw [hinputs]
      exact (Vector.getElem_set_ne input.isLt n.isLt (fun he => hn (Fin.ext he.symm))).trans (inputsReleased_get ..)
    · intro n hn
      rw [houtputs]
      exact (Vector.getElem_set_ne output.isLt n.isLt (fun he => hn (Fin.ext he.symm))).trans (outputsReleased_get ..)

/-! ### A take stopped for an order (R137, R138) -/

/-- An accepted order has stopped the take of its channel, from row r. -/
structure OrderStops (s : State) (k : OrderSlot) (c : Chan) (entry : Accepted) (r : ChanRow) (sub : SubState)
    (more : List Access) (t : State) : Prop where
  taken : TakenOn s t k entry more
  swept : SweptOn s t k
  others : OtherRows c s t
  state : t.chanState c = .busy sub
  sheet : (t.row c).sheet = none
  context : PlacingContext (r.takeEnded sub).ctx (t.row c).ctx
  op : (t.row c).op = some (takeOp sub .placing) ∨ (t.row c).op = some (takeOp sub .draining)
  closes : ∀ w p, r.sheet = some w → w.next ≤ 127 → r.placement = some p → r.queue = [] → r.codec.pending = 0 →
    r.codec.lost = 0 → s.live w.sheet ≠ 0 → more = [headerWriteOf s.setup c w (w.next - 1)] ∧
    (t.row c).op = some (takeOp sub .draining) ∧ (t.row c).spans = r.spans

theorem HandedOver.unique {l m : List Access} (h : HandedOver s t l) (g : HandedOver s t m) : l = m :=
  List.append_cancel_left (congrArg Engine.waiting (h.symm.trans g))

theorem takeEnded_drains_op {sub : SubState} : (r.takeEnded sub).drains.op = some (takeOp sub .draining) := by
  by_cases hs : sub = .closing
  · simp only [ChanRow.drains, ChanRow.takeEnded, takeOp, if_pos hs, Option.map_some, CardOp.at]
  · simp only [ChanRow.drains, ChanRow.takeEnded, takeOp, if_neg hs, Option.map_some, CardOp.at]

theorem order_stops {entry : Accepted} {sub : SubState} (hrun : s.regs.part = .running) :
    ∃ t more, done s ((((s.accept k entry).setRow c r).stopTake c sub).sweepOn (k.val + 1)) = .next t ∧
      OrderStops s k c entry r sub more t := by
  have hstops := stopTake_stops (s.accept k entry) c r sub
  obtain ⟨more, hmore, -⟩ := (stopTake_places (s := (s.accept k entry).setRow c r) (c := c) sub).writes
  have hover : HandedOver (s.accept k entry) (((s.accept k entry).setRow c r).stopTake c sub) more := hmore
  have hcloses : ∀ w p, r.sheet = some w → w.next ≤ 127 → r.placement = some p → r.queue = [] → r.codec.pending = 0 →
      r.codec.lost = 0 → s.live w.sheet ≠ 0 → more = [headerWriteOf s.setup c w (w.next - 1)] ∧
      ((((s.accept k entry).setRow c r).stopTake c sub).row c).op = some (takeOp sub .draining) ∧
      ((((s.accept k entry).setRow c r).stopTake c sub).row c).spans = r.spans := by
    intro w p hw hn hp hq hpending hlost hlive
    have heq := stopTake_closes (s := s.accept k entry) (c := c) (sub := sub) hw hn hp (by rw [hq]; rfl) hpending hlost hlive
    refine ⟨hover.unique (by rw [heq]; rfl), ?_, ?_⟩
    · rw [heq]
      exact (congrArg ChanRow.op row_setRow_self).trans takeEnded_drains_op
    · rw [heq]
      exact (congrArg ChanRow.spans row_setRow_self).trans rfl
  generalize ((s.accept k entry).setRow c r).stopTake c sub = v at *
  have horders : v.orders = (s.accept k entry).orders := (congrArg State.orders hstops.rest :)
  obtain ⟨htaken, hswept, -, hframe⟩ := accept_taken (s := s) (v := v) ⟨s.orders.renders, horders⟩ hover
  generalize v.sweepOn (k.val + 1) = x at *
  have hpart : x.regs.part ≠ .starting := by
    rw [hframe, show v.regs = _ from hstops.regs]
    change s.regs.part ≠ _
    rw [hrun]
    nofun
  obtain ⟨d, hd, -⟩ := done_desk (s := s) hpart ((congrArg State.desk hframe).trans hstops.desk)
  have hrows : ∀ d, x.row d = v.row d := fun d => by rw [hframe]; rfl
  refine ⟨_, more, hd, ⟨htaken.1, htaken.2, htaken.3, htaken.4, htaken.5⟩, ⟨hswept.1, hswept.2⟩,
    fun d hne => (hrows d).trans (hstops.others d hne), ?_, ?_, ?_, ?_, ?_⟩
  · exact (congrArg (fun q : ChanRow => q.ctx.state) (hrows c)).trans hstops.state
  · exact (congrArg ChanRow.sheet (hrows c)).trans hstops.sheet
  · exact (hrows c).symm ▸ hstops.context
  · exact (hrows c).symm ▸ hstops.op
  · exact (hrows c).symm ▸ hcloses

/-! ### STATION CLOSE (R137) -/

theorem readsGone_accept {entry : Accepted} : (s.accept k entry).readsGone c = (s.readsGone c).accept k entry := by
  have hother : (fun a : Access => !a.plays c) (writeOf .orderUnit .acceptWrite (orderSlotAddress s.base k 0)
      (bytesOf 1 slotAccepted)) = true := rfl
  simp only [State.readsGone, State.accept, State.sendWrite, State.handOver, List.filter_append]
  rfl

/-- The row of a channel with a pending close. -/
def ChanRow.toClose (r : ChanRow) (k : OrderSlot) : ChanRow := { r with ctx := { r.ctx with pendingClose := some k } }

theorem stationClose_accepted (hu : (s.row c).ctx.state ≠ .unbound) (hc : (s.row c).ctx.state ≠ .busy .closing)
    (hp : (s.row c).ctx.pendingClose = none) :
    s.stationClose k c = ((s.accept k (.close c)).setRow c ((s.row c).toClose k)).actClose c := by
  rw [State.stationClose]
  refine (if_neg ?_).trans rfl
  rintro (h | h | h)
  · exact hu h
  · exact hc h
  · rw [hp] at h
    exact Bool.false_ne_true h

end Sys2Proof.Machine
end

section
/-! PROOFS. STATION CLOSE and FILE LETTER settled: what each accepted order does by the channel's state. -/

namespace Sys2Proof.Machine

open Sys2Proof

variable {s t u v : State} {c d : Chan} {k : OrderSlot} {r : ChanRow}

/-! ### STATION CLOSE (R137) -/

theorem suspend_setRow : (s.setRow c r).suspend c = s.setRow c { r with
    ctx := { r.ctx with state := .busy .closing, keys := [] }, op := some (.suspending .draining) } := by
  rw [State.suspend, modRow_setRow]

theorem actClose_ready (h : r.ctx.state = .ready) : (s.setRow c r).actClose c = (s.setRow c r).suspend c := by
  simp only [State.actClose, State.chanState, row_setRow_self, h]

theorem actClose_playing (h : r.ctx.state = .playing) :
    (s.setRow c r).actClose c = ((s.setRow c r).stopPlayback c).suspend c := by
  simp only [State.actClose, State.chanState, row_setRow_self, h]

theorem actClose_recording (h : r.ctx.state = .recording) : (s.setRow c r).actClose c =
    (s.setRow c { r with ctx := { r.ctx with keys := [] } }).stopTake c .closing := by
  simp only [State.actClose, State.chanState, row_setRow_self, h, modCtx_setRow]

theorem actClose_idle (h : r.ctx.state = .idle) : (s.setRow c r).actClose c = (s.setRow c r).unbind c 0 0 := by
  simp only [State.actClose, State.chanState, row_setRow_self, h]

theorem actClose_busy {sub : SubState} (h : r.ctx.state = .busy sub) : (s.setRow c r).actClose c = s.setRow c r := by
  simp only [State.actClose, State.chanState, row_setRow_self, h]

/-- An order accepted whose work sets one row, behind a read-ahead given up or not. -/
theorem order_row {p : Nat → Bool} {body : OrderSlot → List Byte → State} {kind : Nat} {entry : Accepted}
    {b : State} (h : OrderAt s k kind) (hp : p kind = true)
    (hb : body k (s.orders.slotData k) = (b.accept k entry).setRow c r) (heq : b = { s with engine := b.engine }) :
    ∃ t, done s (s.takeOrder p body) = .next t ∧ TakenOn b t k entry [] ∧ SweptOn s t k ∧
      RowBecomes { s with orders := t.orders, engine := t.engine } t c r := by
  have horders : b.orders = s.orders := (congrArg State.orders heq :)
  rw [takeOrder_on h hp hb ((congrArg OrderUnit.sweep horders).trans h.acting)]
  obtain ⟨t, ht, h1, h2, h3⟩ := taken_row (s := b) (u := s) (k := k) (c := c) (r := r) (entry := entry)
    (v := (b.accept k entry).setRow c r) (more := []) (by rw [heq]; simp [h.running]) (by rw [heq]; rfl) (by rw [heq])
    rfl (HandedOver.refl _)
  refine ⟨t, ht, h1, ⟨?_, ?_⟩, ?_⟩
  · exact horders ▸ h2.next
  · exact horders ▸ h2.ended
  · rw [heq] at h3
    exact h3

/-- The finishing write of an order that was accepted in the same step. -/
theorem accepted_answered {b : State} {entry : Accepted} {code first second : Nat} (hsweep : s.orders.sweep = .acting k)
    (hpart : b.regs.part ≠ .starting) (hd : b.desk = s.desk) (ho : b.orders = (s.accept k entry).orders)
    (hbase : b.base = s.base) (hc : code < 256) : ∃ t, (b.finish k code first second).orders.sweep = .acting k ∧
    done s ((b.finish k code first second).sweepOn (k.val + 1)) = .next t ∧ DeskReported s t ∧ SweptOn s t k ∧
    t.orders.accepted = s.orders.accepted.set k none ∧ t.orders.finishCounter = s.orders.finishCounter + 1#32 ∧
    t.orders.finishedSet = s.orders.finishedSet ++ [k] ∧
    HandedOver b t [writeOf .orderUnit (.finishResult k) ((s.base + (0x800 + 64 * k.val + 0x30)) % 2 ^ 64)
      (bytesOf 4 code ++ bytesOf 4 first ++ bytesOf 4 second ++ bytesOf 4 (s.orders.finishCounter + 1#32).toNat)] ∧
    t = { b with orders := t.orders, engine := t.engine, desk := t.desk } := by
  obtain ⟨h1, h2, h3⟩ := finish_answered (s := { s with orders := (s.accept k entry).orders, engine := b.engine }) (b := b)
    (first := first) (second := second) hsweep hc ho rfl hbase
  have hsweep' : (b.finish k code first second).orders.sweep = .acting k :=
    (congrArg OrderUnit.sweep ho).trans hsweep
  generalize (b.finish k code first second).sweepOn (k.val + 1) = x at *
  obtain ⟨d, hd, hrep⟩ := done_desk (s := s) (u := x) (by rw [h3]; exact hpart) ((congrArg State.desk h3).trans hd)
  refine ⟨_, hsweep', hd, hrep, ⟨h2.next, h2.ended⟩, h1.accepted.trans ?_, h1.counter, h1.finished, h1.write, ?_⟩
  · exact Vector.set_set ..
  · rw [h3]

/-- An accepted STATION CLOSE of an IDLE channel with no pending file: unbound at once, the order DONE. -/
theorem close_unbinds (hsweep : s.orders.sweep = .acting k) (hrun : s.regs.part = .running)
    (hf : (s.row c).ctx.pendingFile = none) : ∃ u t,
    (((s.accept k (.close c)).setRow c ((s.row c).toClose k)).unbind c 0 0).orders.sweep = .acting k ∧
    done s ((((s.accept k (.close c)).setRow c ((s.row c).toClose k)).unbind c 0 0).sweepOn (k.val + 1)) = .next t ∧
    Withdrawal c ((s.accept k (.close c)).setRow c ((s.row c).toClose k)) u ∧ DeskReported s t ∧ SweptOn s t k ∧
    t.orders.accepted = s.orders.accepted.set k none ∧ t.orders.finishCounter = s.orders.finishCounter + 1#32 ∧
    HandedOver u t [writeOf .orderUnit (.finishResult k) ((s.base + (0x800 + 64 * k.val + 0x30)) % 2 ^ 64)
      (bytesOf 4 0 ++ bytesOf 4 0 ++ bytesOf 4 0 ++ bytesOf 4 (s.orders.finishCounter + 1#32).toNat)] ∧
    t = { ({ s with
        inputs := inputsReleased s.inputs (s.row c).ctx.inSlot,
        outputs := outputsReleased s.outputs (s.row c).ctx.outSlot } : State).setRow c (s.row c).unbound with
      cards := u.cards, sheets := u.sheets, orders := t.orders, engine := t.engine, desk := t.desk } := by
  obtain ⟨u, heq, hframe, hw⟩ := unbind_eq ((s.accept k (.close c)).setRow c ((s.row c).toClose k)) c 0 0
  let b : State := { s with
    inputs := inputsReleased s.inputs (s.row c).ctx.inSlot,
    outputs := outputsReleased s.outputs (s.row c).ctx.outSlot,
    cards := u.cards, sheets := u.sheets, engine := u.engine, orders := (s.accept k (.close c)).orders }
  have hfinish : ((s.accept k (.close c)).setRow c ((s.row c).toClose k)).unbind c 0 0 =
      (b.setRow c (s.row c).unbound).finish k 0 0 0 := by
    rw [heq, row_setRow_self, show ((s.row c).toClose k).ctx.pendingFile = none from hf, State.unbinding, row_setRow_self,
      hframe]
    exact congrArg (fun v : State => v.finish k 0 0 0) (setRow_setRow (s := b))
  rw [hfinish]
  obtain ⟨t, h1, h2, h3, h4, h5, h6, -, h7, h8⟩ := accepted_answered (s := s) (b := b.setRow c (s.row c).unbound)
    (entry := .close c) (code := 0) (first := 0) (second := 0) hsweep (by change s.regs.part ≠ _; rw [hrun]; nofun) rfl rfl rfl
    (by decide)
  exact ⟨u, t, h1, h2, hw, h3, h4, h5, h6, h7, h8⟩

/-- Settles O32: the refusals, then what the close does in each state of its channel. -/
theorem stationCloseActsByState : Obligations.StationCloseActsByState := by
  unfold Obligations.StationCloseActsByState
  intro s k h n
  refine ⟨fun hn => answered_only h rfl (by decide) (dif_neg (Nat.not_lt.2 hn)), fun c hc => ?_⟩
  intro x
  have hbody : ∀ f : Chan → State, ∀ e, (if h : orderChannel (s.orders.slotData k) < 32 then f ⟨_, h⟩ else e) = f c :=
    fun f e => dite_channel hc f e
  refine ⟨fun hr => ?_, fun hp hst => ?_, fun hp hst => ?_, fun hp hst => ?_, fun hp hst => ?_, fun hp hst hf => ?_⟩
  · refine answered_only h rfl (by decide) ((hbody _ _).trans ?_)
    rw [State.stationClose]
    refine if_pos ?_
    rcases hr with hr | hr | hr
    · exact .inl hr
    · exact .inr (.inl hr)
    · exact .inr (.inr (Option.isSome_iff_ne_none.2 hr))
  · have hst' : (s.row c).ctx.state = .ready := hst
    refine order_row h rfl ((hbody _ _).trans ((stationClose_accepted (by rw [hst']; nofun) (by rw [hst']; nofun) hp).trans
      ((actClose_ready (r := (s.row c).toClose k) hst).trans suspend_setRow))) rfl
  · have hst' : (s.row c).ctx.state = .playing := hst
    refine order_row (b := s.readsGone c) h rfl ((hbody _ _).trans ((stationClose_accepted (by rw [hst']; nofun)
      (by rw [hst']; nofun) hp).trans ((actClose_playing (r := (s.row c).toClose k) hst).trans ?_))) rfl
    rw [stopPlayback_setRow, suspend_setRow, readsGone_accept]
    rfl
  · have hst' : (s.row c).ctx.state = .recording := hst
    have heq := (stationClose_accepted (k := k) (by rw [hst']; nofun) (by rw [hst']; nofun) hp).trans
      (actClose_recording (r := (s.row c).toClose k) hst)
    obtain ⟨t, more, ht, hstops⟩ := order_stops (s := s) (k := k) (c := c) (entry := .close c) (sub := .closing)
      (r := { (s.row c).toClose k with ctx := { ((s.row c).toClose k).ctx with keys := [] } }) h.running
    have hexec : exec .stationClose s = .next t := by
      refine (congrArg (done s) (takeOrder_on h rfl ((hbody _ _).trans heq) ?_)).trans ht
      exact (congrArg (fun o : OrderUnit => o.sweep) (congrArg State.orders (stopTake_stops _ _ _ _).rest :)).trans h.acting
    have hcontext := hstops.context
    refine ⟨t, more, hexec, hstops.taken, hstops.swept, hstops.others, hstops.state, (congrArg Context.keys hcontext :),
      (congrArg Context.pendingClose hcontext :), (congrArg Context.letter hcontext :), hstops.sheet, ?_, hstops.closes⟩
    rcases hstops.op with hop | hop
    · exact List.mem_cons.2 (.inl hop)
    · exact List.mem_cons.2 (.inr (List.mem_singleton.2 hop))
  · obtain ⟨sub, hsub, hst⟩ := hst
    have hst' : (s.row c).ctx.state = .busy sub := hst
    exact order_row h rfl ((hbody _ _).trans ((stationClose_accepted (by rw [hst']; nofun)
      (by rw [hst']; exact fun he => hsub (ChanState.busy.inj he)) hp).trans (actClose_busy (r := (s.row c).toClose k) hst))) rfl
  · have hst' : (s.row c).ctx.state = .idle := hst
    have heq := (stationClose_accepted (k := k) (by rw [hst']; nofun) (by rw [hst']; nofun) hp).trans
      (actClose_idle (r := (s.row c).toClose k) hst)
    intro asks searched given answers
    obtain ⟨u, t, hsweep, ht, hw, hrep, hswept, haccepted, hcounter, hover, hframe⟩ := close_unbinds h.acting h.running hf
    have hrow : ((s.accept k (.close c)).setRow c ((s.row c).toClose k)).row c = (s.row c).toClose k := row_setRow_self
    have hsearched : ((s.accept k (.close c)).setRow c ((s.row c).toClose k)).searched c ↔ searched := by
      rw [State.searched, hrow]
      rfl
    have hleaves := hw.leaves (t := t) (by rw [hframe]) (by rw [hframe])
    rw [hrow] at hleaves
    have hrows : ∀ d, t.row d = (s.setRow c (s.row c).unbound).row d := fun d => by rw [hframe]; rfl
    have hown := (hrows c).trans row_setRow_self
    refine ⟨t, (congrArg (done s) (takeOrder_on h rfl ((hbody _ _).trans heq) hsweep)).trans ht, congrArg ChanRow.ctx hown,
      congrArg ChanRow.op hown, (congrArg ChanRow.queue hown :), (congrArg ChanRow.discards hown :),
      fun d hd => (hrows d).trans (row_setRow_ne hd), hrep, hswept, haccepted, hcounter, fun hn => ?_, fun hy => ?_, hleaves.1,
      fun hy => ?_, fun n => ?_, fun n => ?_, ?_⟩
    · rw [HandedOver, show t.engine = _ from hover, hw.engineKept (mt hsearched.1 hn)]
      exact congrArg (fun l => ({ s.engine with waiting := l } : Engine)) (List.append_assoc ..)
    · rw [HandedOver, show t.engine = _ from hover, hw.engineGiven (hsearched.2 hy)]
      simp only [State.searchAbandoned, setRow_engine, State.accept, State.sendWrite, State.handOver, List.map_append,
        List.append_assoc]
      rfl
    · obtain ⟨h1, h2, h3, h4⟩ := hleaves.2 hy
      exact ⟨h1, h2, h3, fun card hop => ⟨(h4 card hop).1, (h4 card hop).2, (h4 card hop).3, (h4 card hop).4⟩⟩
    · rw [hframe]
      exact inputsReleased_get ..
    · rw [hframe]
      exact outputsReleased_get ..
    · rw [hframe]
      rfl

/-! ### FILE LETTER (R138) -/

/-- The row of a channel with a pending file. -/
def ChanRow.toFile (r : ChanRow) (k : OrderSlot) : ChanRow := { r with ctx := { r.ctx with pendingFile := some k } }

theorem fileLetter_accepted (hm : (s.row c).ctx.state.mayFile = true) (hp : (s.row c).ctx.pendingClose = none)
    (hf : (s.row c).ctx.pendingFile = none) :
    s.fileLetter k c = ((s.accept k (.file c)).setRow c ((s.row c).toFile k)).actFile c := by
  rw [State.fileLetter]
  exact (if_pos ⟨hm, hp, hf⟩).trans rfl

theorem mayFile_refused {st : ChanState} (h : st = .unbound ∨ st = .idle ∨ st = .busy .closing) : st.mayFile = false := by
  rcases h with rfl | rfl | rfl <;> rfl

theorem mayFile_busy {sub : SubState} (h : sub ≠ .closing) : (ChanState.busy sub).mayFile = true := by
  cases sub with
  | closing => exact absurd rfl h
  | _ => rfl

theorem actFile_ready (h : r.ctx.state = .ready) : (s.setRow c r).actFile c = (s.setRow c r).fileNow c true := by
  simp only [State.actFile, State.chanState, row_setRow_self, h]

theorem actFile_playing (h : r.ctx.state = .playing) :
    (s.setRow c r).actFile c = ((s.setRow c r).stopPlayback c).fileNow c true := by
  simp only [State.actFile, State.chanState, row_setRow_self, h]

theorem actFile_recording (h : r.ctx.state = .recording) :
    (s.setRow c r).actFile c = (s.setRow c r).stopTake c .saving := by
  simp only [State.actFile, State.chanState, row_setRow_self, h]

theorem actFile_busy {sub : SubState} (h : r.ctx.state = .busy sub) : (s.setRow c r).actFile c = s.setRow c r := by
  simp only [State.actFile, State.chanState, row_setRow_self, h]

theorem fileNow_ordered (h : r.length ≠ 0) : (s.setRow c r).fileNow c true = s.setRow c { r with
    ctx := { r.ctx with state := .busy .filing }, op := some (.filing .draining true) } := by
  simp only [State.fileNow, row_setRow_self, h, if_false, modRow_setRow]

/-- An empty letter filed for an order: handed over for discard, the order answered DISCARDED_EMPTY. -/
theorem fileNow_orderedEmpty {l : OpenLetter} (h : r.length = 0) (hs : r.ctx.state = .ready) (hl : r.ctx.letter = some l)
    (hf : r.ctx.pendingFile = some k) : (s.setRow c r).fileNow c true =
      ((s.handedForDiscard c l.card (sheetList r.spanList)).setRow c { r.discarded l.card (s.indexOf l.card) with
        ctx := { (r.discarded l.card (s.indexOf l.card)).ctx with pendingFile := none } }).finish k 4 l.card 0 := by
  have hgiven : (s.setRow c r).discardLetter c = (s.handedForDiscard c l.card (sheetList r.spanList)).setRow c
      (r.discarded l.card (s.indexOf l.card)) :=
    discardLetter_eq (by rw [row_setRow_self]; exact hl) (workEnded_ready hs)
  simp only [State.fileNow, row_setRow_self, h, if_true, hf, hl, hgiven, modCtx_setRow]
  rfl

/-- Settles O33: the refusals, then what the order does in each state of its channel. -/
theorem fileLetterActsByState : Obligations.FileLetterActsByState := by
  unfold Obligations.FileLetterActsByState
  intro s k h n
  refine ⟨fun hn => answered_only h rfl (by decide) (dif_neg (Nat.not_lt.2 hn)), fun c hc => ?_⟩
  intro x
  have hbody : ∀ f : Chan → State, ∀ e, (if h : orderChannel (s.orders.slotData k) < 32 then f ⟨_, h⟩ else e) = f c :=
    fun f e => dite_channel hc f e
  have haccepted : ∀ st, x.state = st → st.mayFile = true → x.pendingClose = none → x.pendingFile = none →
      s.fileLetter k c = ((s.accept k (.file c)).setRow c ((s.row c).toFile k)).actFile c :=
    fun st hst hm hp hf => fileLetter_accepted (by rw [show (s.row c).ctx.state = st from hst]; exact hm) hp hf
  refine ⟨fun hr => ?_, fun hp hf hst hlen => ?_, fun hp hf hst hlen => ?_, fun hp hf hst => ?_,
    fun l hp hf hst hlen hl => ?_, fun hp hf hst => ?_⟩
  · refine answered_only h rfl (by decide) ((hbody _ _).trans ?_)
    rw [State.fileLetter]
    refine if_neg ?_
    rintro ⟨hm, hp, hf⟩
    rcases hr with hr | hr | hr | hr | hr
    · exact Bool.false_ne_true ((mayFile_refused (.inl hr)).symm.trans hm)
    · exact Bool.false_ne_true ((mayFile_refused (.inr (.inl hr))).symm.trans hm)
    · exact Bool.false_ne_true ((mayFile_refused (.inr (.inr hr))).symm.trans hm)
    · exact hr hp
    · exact hr hf
  · exact order_row h rfl ((hbody _ _).trans ((haccepted _ hst rfl hp hf).trans
      ((actFile_ready (r := (s.row c).toFile k) hst).trans (fileNow_ordered hlen)))) rfl
  · refine order_row (b := s.readsGone c) h rfl ((hbody _ _).trans ((haccepted _ hst rfl hp hf).trans
      ((actFile_playing (r := (s.row c).toFile k) hst).trans ?_))) rfl
    rw [stopPlayback_setRow]
    refine (fileNow_ordered ?_).trans ?_
    · exact hlen
    · rw [readsGone_accept]
      rfl
  · have heq := (haccepted _ hst rfl hp hf).trans (actFile_recording (r := (s.row c).toFile k) hst)
    obtain ⟨t, more, ht, hstops⟩ := order_stops (s := s) (k := k) (c := c) (entry := .file c) (sub := .saving)
      (r := (s.row c).toFile k) h.running
    have hexec : exec .fileLetter s = .next t := by
      refine (congrArg (done s) (takeOrder_on h rfl ((hbody _ _).trans heq) ?_)).trans ht
      exact (congrArg (fun o : OrderUnit => o.sweep) (congrArg State.orders (stopTake_stops _ _ _ _).rest :)).trans h.acting
    have hcontext := hstops.context
    refine ⟨t, more, hexec, hstops.taken, hstops.swept, hstops.others, hstops.state, (congrArg Context.keys hcontext :),
      (congrArg Context.pendingFile hcontext :), (congrArg Context.letter hcontext :), hstops.sheet, ?_, hstops.closes⟩
    rcases hstops.op with hop | hop
    · exact List.mem_cons.2 (.inl hop)
    · exact List.mem_cons.2 (.inr (List.mem_singleton.2 hop))
  · have heq := (haccepted _ hst rfl hp hf).trans ((actFile_ready (r := (s.row c).toFile k) hst).trans
      (fileNow_orderedEmpty hlen hst hl rfl))
    obtain ⟨t, hsweep, ht, -, hswept, hset, hcounter, hfinished, hover, hframe⟩ := accepted_answered (s := s) (k := k)
      (b := ((s.accept k (.file c)).handedForDiscard c l.card (sheetList (s.row c).spanList)).setRow c
        { ((s.row c).toFile k).discarded l.card (s.indexOf l.card) with
          ctx := { (((s.row c).toFile k).discarded l.card (s.indexOf l.card)).ctx with pendingFile := none } })
      (entry := .file c) (code := 4) (first := l.card) (second := 0) h.acting
      (by change s.regs.part ≠ _; rw [h.running]; nofun) rfl rfl rfl (by decide)
    have hrows : ∀ d, t.row d = _ := fun d => congrArg (fun v : State => v.row d) hframe
    refine ⟨t, _, (congrArg (done s) (takeOrder_on h rfl ((hbody _ _).trans heq) hsweep)).trans ht, hswept,
      fun d hd => (hrows d).trans (row_setRow_ne hd), firstReferences_sheetList _, ?_, hset, hcounter, hfinished, ?_⟩
    · rw [HandedOver, show t.engine = _ from hover]
      exact congrArg (fun l => ({ s.engine with waiting := l } : Engine)) (List.append_assoc ..)
    · refine (hrows c).trans (row_setRow_self.trans ?_)
      have hnone : (s.row c).ctx.pendingFile = none := hf
      rw [← hnone]
      rfl
  · obtain ⟨sub, hsub, hst⟩ := hst
    exact order_row h rfl ((hbody _ _).trans ((haccepted _ hst (mayFile_busy hsub) hp hf).trans
      (actFile_busy (r := (s.row c).toFile k) hst))) rfl

end Sys2Proof.Machine
end

section
/-! PROOFS. The completions of a channel's own accesses: a record written and the lost frames placed into its room, a
header written and the frees behind it, a record read into the read-ahead. -/

namespace Sys2Proof.Machine

open Sys2Proof

variable {s t u v : State} {c d : Chan} {r : ChanRow} {w : WriteSheet} {p : Placement} {rec : Rec}

/-! ### A record written (R171) -/

theorem dropWriting_append {first : Rec} {card sheet slot : Nat} : ∀ {before : List QueueEntry} {after : List QueueEntry},
    (∀ e ∈ before, ∀ x n m p, e ≠ .writing x n m p) →
    dropWriting (before ++ .writing first card sheet slot :: after) = before ++ after
  | [], _, _ => rfl
  | e :: before, after, h => by
    have ih := dropWriting_append (first := first) (card := card) (sheet := sheet) (slot := slot) (before := before)
      (after := after) fun x hx => h x (List.mem_cons_of_mem _ hx)
    cases e with
    | writing x n m q => exact absurd rfl (h _ List.mem_cons_self x n m q)
    | waiting => exact congrArg (_ :: ·) ih
    | ready => exact congrArg (_ :: ·) ih

theorem firstWaiting_without {e : QueueEntry} {before after : List QueueEntry} (he : ∀ x b, e ≠ .waiting x b)
    (h : firstWaiting (before ++ e :: after) = none) : firstWaiting (before ++ after) = none := by
  induction before with
  | nil =>
    cases e with
    | waiting x b => exact absurd rfl (he x b)
    | ready => exact h
    | writing => exact h
  | cons x before ih =>
    cases x with
    | waiting => exact absurd h (by simp [firstWaiting])
    | ready => exact ih h
    | writing => exact ih h

/-- The row of a channel whose oldest record under way is written. -/
theorem recordWritten_due {a : Access} {rest : List Access} {card sheet slot : Nat} (h : Due s (.channel c) a rest)
    (ha : a.purpose = .recordWrite card sheet slot) : exec (.recordWriteComplete c) s =
      done s (((s.landed rest).setRow c { s.row c with queue := dropWriting (s.row c).queue }).settled c) :=
  congrArg (done s) (onComplete_due h (by rw [ha]))

theorem countLost_lost (h : rec.isLost = true) : (s.setRow c r).countLost c rec false = s.setRow c { r with
    codec := { r.codec with lost := r.codec.lost - rec.frames },
    ctx := { r.ctx with transient := some (.lostAudio, 32) } } := by
  rw [State.countLost, if_pos h, modRow_setRow, raise_setRow]
  rfl

/-- The frames of the next LOST record of a row. -/
def ChanRow.lostFrames (r : ChanRow) : Nat := min r.codec.lost 255

/-- The row of a take whose next LOST record went into a slot of its write sheet, behind the entries of a queue. -/
def ChanRow.lostPlaced (r : ChanRow) (p : Placement) (w : WriteSheet) (queue : List QueueEntry) : ChanRow :=
  { r.recorded p w (.pause r.lostFrames true)
      (addRecord r.spanList r.ctx.cursor w.sheet w.next r.lostFrames r.ctx.instruct (r.extendsSpan w))
      (queue ++ [.ready (.pause r.lostFrames true) w.card w.sheet w.next]) with
    codec := { r.codec with lost := r.codec.lost - r.lostFrames },
    ctx := { r.ctx with cursor := r.ctx.cursor + r.lostFrames, transient := some (.lostAudio, 32) } }

/-- Frames pending as lost go into the room of a take's write queue, as a LOST record in the next slot. -/
theorem settled_lost (hs : r.ctx.state = .recording) (hop : r.op = none) (hf : firstWaiting r.queue = none)
    (hlen : r.queue.length = 3) (hlost : 0 < r.codec.lost) (hw : r.sheet = some w) (hn : w.next ≤ 127)
    (hp : r.placement = some p) (hm : p.mode ≠ .overwrite) (hfit : r.length + r.lostFrames ≤ 120000)
    (he : r.extendsSpan w = true ∨ r.spanList.length < 1024) :
    (s.setRow c r).settled c = s.recorded c w (.pause r.lostFrames true) (r.lostPlaced p w r.queue) := by
  have hnone : lostWaiting r.queue = 0 := lostWaiting_none hf
  have hasks : r.asksLost = true := by
    rw [ChanRow.asksLost, hnone, hs, decide_eq_true rfl, decide_eq_true (show 0 < r.codec.lost - 0 from hlost),
      decide_eq_true (show r.queue.length < Config.writeQueueLimit by rw [hlen]; decide)]
    rfl
  let asked : ChanRow := { r with queue := r.queue ++ [.waiting (.pause (r.lostFrames) true) false] }
  have hstep : (s.setRow c r).settled c = State.settle c 31 (s.setRow c asked) := by
    change State.settle c (31 + 1) _ = _
    rw [settle_asks (by rw [row_setRow_self]; exact hasks), row_setRow_self, modRow_setRow, hnone]
    rfl
  have hfull : 4 ≤ asked.queue.length := by
    simp only [asked, List.length_append, hlen, List.length_singleton]
    decide
  have hrow : asked.withRecord w (.pause (r.lostFrames) true) (asked.extendsSpan w) = _ :=
    withRecord_take (r := asked) (p := p) (w := w) (rec := .pause (r.lostFrames) true)
      (extend := asked.extendsSpan w) (before := r.queue) (after := []) hs hp rfl hf
  have hhead : (s.setRow c asked).placeHead c (.pause (r.lostFrames) true) = (.placed false, s.recorded c w (.pause r.lostFrames true) (r.lostPlaced p w r.queue)) := by
    rw [placeHead_usable (w := w) (by rw [row_setRow_self]; exact hfit)
      (by rw [row_setRow_self]; exact usableTarget_take (r := asked) hs hw hn) (by rw [row_setRow_self]; exact he),
      row_setRow_self, placeInto_keeps (by
        rw [row_setRow_self]
        exact fun q hq => Option.some.inj (hp.symm.trans hq) ▸ hm), withRecord_setRow, hrow, countLost_lost rfl]
    rfl
  have hrests : TakeRests ((s.recorded c w (.pause r.lostFrames true) (r.lostPlaced p w r.queue)).row c) := by
    rw [show (s.recorded c w (.pause r.lostFrames true) (r.lostPlaced p w r.queue)).row c = _ from row_setRow_self]
    refine ⟨hop, (firstWaiting_append hf).trans rfl, .inr ?_⟩
    simp only [ChanRow.lostPlaced, ChanRow.recorded, List.length_append, hlen, List.length_singleton]
    decide
  rw [hstep, settle_take (by rw [row_setRow_self]; exact hop) (by rw [row_setRow_self]; exact .inr hfull)
    (by rw [row_setRow_self]) hf hhead hrests]

/-! ### A header written (R173) -/

theorem headerDone_none {n : Nat} (h : ∀ x ∈ s.sheets.freeWait, x.sheet ≠ n) : s.headerDone n = s := by
  rw [State.headerDone]
  split
  · rfl
  · have hgone : (s.sheets.freeWait.filter fun x => x.sheet == n) = [] :=
      List.filter_eq_nil_iff.2 fun x hx => by simpa using h x hx
    have hkept : (s.sheets.freeWait.filter fun x => x.sheet != n) = s.sheets.freeWait :=
      List.filter_eq_self.2 fun x hx => by simpa using h x hx
    rw [hgone, hkept]
    rfl

theorem headerDone_frees {n : Nat} {who : Requester} {before after : List FreeWait}
    (hw : s.sheets.freeWait = before ++ { who := who, sheet := n } :: after) (ho : ∀ x ∈ before ++ after, x.sheet ≠ n)
    (hn : ∀ b ∈ s.engine.waiting ++ s.engine.flight, ∀ m, b.purpose ≠ .headerWrite m n) : s.headerDone n =
      State.freeSheet { s with sheets := { s.sheets with freeWait := before ++ after } } who n := by
  have hbefore : ∀ x ∈ before, x.sheet ≠ n := fun x hx => ho x (List.mem_append_left _ hx)
  have hafter : ∀ x ∈ after, x.sheet ≠ n := fun x hx => ho x (List.mem_append_right _ hx)
  have hkept : (s.sheets.freeWait.filter fun x => x.sheet != n) = before ++ after := by
    rw [hw, List.filter_append, List.filter_cons_of_neg (by simp), List.filter_eq_self.2 fun x hx => by simpa using hbefore x hx,
      List.filter_eq_self.2 fun x hx => by simpa using hafter x hx]
  have hgone : (s.sheets.freeWait.filter fun x => x.sheet == n) = [{ who := who, sheet := n }] := by
    rw [hw, List.filter_append, List.filter_cons_of_pos (by simp), List.filter_eq_nil_iff.2 fun x hx => by simpa using hbefore x hx,
      List.filter_eq_nil_iff.2 fun x hx => by simpa using hafter x hx]
    rfl
  rw [State.headerDone, if_neg fun h => by
    obtain ⟨b, hb, m, hm⟩ := headerOutstanding_iff.1 h
    exact hn b hb m hm, hkept, hgone]
  rfl

/-! ### A record read for playback (R172, R20) -/

theorem fillAhead_first {data : List Byte} {q : PlayPlace} : ∀ {before after : List PlayPlace},
    q.data = none → (∀ e ∈ before, e.data ≠ none) →
    fillAhead data (before ++ q :: after) = before ++ { q with data := some data } :: after
  | [], after, hq, _ => if_pos (by rw [hq]; rfl)
  | e :: before, after, hq, h => by
    refine (if_neg ?_).trans (congrArg (_ :: ·) (fillAhead_first hq fun x hx => h x (List.mem_cons_of_mem _ hx)))
    rw [Option.isNone_iff_eq_none]
    exact h e List.mem_cons_self

/-- Two records ready, output may begin. -/
theorem mayBegin_two {before after : List PlayPlace} {q : PlayPlace} (hb : before ≠ []) (hd : ∀ e ∈ before, e.data ≠ none)
    (hq : q.data ≠ none) : ({ r with ahead := before ++ q :: after } : ChanRow).mayBegin = true := by
  have hcount : 2 ≤ (before ++ q :: after).countP fun e => e.data.isSome := by
    have hall : before.countP (fun e => e.data.isSome) = before.length :=
      List.countP_eq_length.2 fun e he => Option.isSome_iff_ne_none.2 (hd e he)
    have hpos := List.length_pos_iff.2 hb
    rw [List.countP_append, List.countP_cons_of_pos (p := fun e : PlayPlace => e.data.isSome) (Option.isSome_iff_ne_none.2 hq), hall]
    omega
  exact Bool.or_eq_true_iff.2 (.inl (decide_eq_true hcount))

/-- Settles O43: each completion at its access, the record write's room with lost frames and without. -/
theorem channelAccessesComplete : Obligations.ChannelAccessesComplete := by
  unfold Obligations.ChannelAccessesComplete
  intro s c a rest hdue u r
  refine ⟨?_, ?_, ?_, ?_⟩
  · intro card sheet slot before record after ha hq hfirst hwait hop
    have hdrop : dropWriting r.queue = before ++ after := by rw [hq]; exact dropWriting_append hfirst
    have hwait' : firstWaiting (before ++ after) = none := firstWaiting_without (by nofun) (hq ▸ hwait)
    have hexec := recordWritten_due hdue ha
    rw [show dropWriting (s.row c).queue = _ from hdrop] at hexec
    refine ⟨fun hlost => ?_, fun w p left right hlen hs hlost hw hn hp hm hat he => ?_⟩
    · have hrests : TakeRests ((u.setRow c { r with queue := before ++ after }).row c) := by
        rw [row_setRow_self]
        exact ⟨hop, hwait', .inl hlost⟩
      have hsettled : (u.setRow c { r with queue := before ++ after }).settled c = _ := hrests.settle
      have hreports : (u.setRow c { r with queue := before ++ after }).reports = u.reports := reports_setRow rfl
      refine ⟨_, hexec.trans ((congrArg (done s) hsettled).trans (done_same hreports)), row_setRow_self,
        fun d hd => row_setRow_ne hd, ?_, rfl⟩
      rw [DeskReported, decide_eq_false (not_not.2 hreports), Bool.or_false]
      rfl
    · intro f lost hfit
      have hshort : (before ++ after).length = 3 := by
        have hlength := congrArg List.length hq
        rw [hlen, List.length_append, List.length_cons] at hlength
        rw [List.length_append]
        omega
      have hsettled := settled_lost (s := u) (c := c) (r := { r with queue := before ++ after }) hs hop hwait' hshort hlost hw
        hn hp hm hfit (hat.room hp he)
      obtain ⟨d, hd⟩ := done_changed s (u.recorded c w lost
        (ChanRow.lostPlaced { r with queue := before ++ after } p w (before ++ after)))
      refine ⟨_, _, hexec.trans ((congrArg (done s) hsettled).trans hd), hat.joined hp w f, row_setRow_self, recordEntered rfl,
        rfl, fun d hd => row_setRow_ne hd⟩
  · intro card sheet ha
    have hexec : exec (.headerWriteComplete c) s = done s (u.headerDone sheet) := by
      refine congrArg (done s) ((onComplete_due hdue (by rw [ha])).trans ?_)
      rw [ha]
    refine ⟨fun hnone => ?_, fun before who after hw ho hn => ?_⟩
    · exact hexec.trans ((congrArg (done s) (headerDone_none (s := u) hnone)).trans (done_same rfl))
    · obtain ⟨x, hx, htally, hstack, hfree⟩ := freeSheet_eq
        { u with sheets := { u.sheets with freeWait := before ++ after } } who sheet
      obtain ⟨d, hd⟩ := done_changed s (u.headerDone sheet)
      have hdone : u.headerDone sheet = _ := (headerDone_frees (s := u) hw ho fun b hb m => hn b hb m).trans hx
      rw [hdone] at hd hexec
      exact ⟨_, hexec.trans hd, rfl, hfree, htally, hstack, rfl⟩
  · intro data before q after ha hahead hq hb
    have hexec : exec (.playbackReadComplete c data) s = done s (u.setRow c (r.takeRecord data)) := by
      refine congrArg (done s) ((onComplete_due hdue (by rw [ha])).trans ?_)
      rw [ha]
      rfl
    have hfill : fillAhead data r.ahead = before ++ { q with data := some data } :: after := by
      rw [hahead]
      exact fillAhead_first hq hb
    have hrow : r.takeRecord data = { r with
        ahead := before ++ { q with data := some data } :: after,
        began := r.began || ({ r with ahead := before ++ { q with data := some data } :: after } : ChanRow).mayBegin } := by
      rw [ChanRow.takeRecord, hfill]
    refine ⟨_, hexec.trans (done_same (reports_setRow rfl)), ?_, ?_, ?_, ?_, fun d hd => row_setRow_ne hd, rfl⟩
    · rw [row_setRow_self, hrow]
    · rw [row_setRow_self, hrow]
      cases r.began with
      | true => exact .inl rfl
      | false => exact (Bool.eq_false_or_eq_true _).symm
    · intro hne
      rw [row_setRow_self, hrow]
      exact Bool.or_eq_true_iff.2 (.inr (mayBegin_two hne hb nofun))
    · rw [row_setRow_self, hrow]
  · intro data ha
    refine (congrArg (done s) ((onComplete_due hdue (by rw [ha])).trans ?_)).trans (done_same rfl)
    rw [ha]

end Sys2Proof.Machine
end

section
/-! PROOFS. The claim scan: what one entry does, a run of entries with no request waiting, and the ends of a scan. -/

namespace Sys2Proof.Machine

open Sys2Proof

variable {s t u v : State} {c d : Chan} {r : ChanRow} {line : List Byte}

/-! ### One entry (R80) -/

/-- The claim cursor behind an entry. -/
def onward (p : Setup) (n : Nat) : Nat := if n = p.sheetCount then 0 else n

/-- The write by which a sheet is claimed. -/
def claimWrite (p : Setup) (n : Nat) : Access := mapWriteOf p .sheetManager .mapWrite n 1 0

/-- The state with a sheet claimed: pushed, written CLAIMED, storage out left. -/
def State.claimed (s : State) (n : Nat) : State :=
  { s with
    sheets := { s.sheets with
      stack := n :: s.sheets.stack, tally := s.sheets.tally - 1, examined := 0, storageOut := false,
      hold := heldAt s.setup (s.sheets.tally - 1 + (s.sheets.stack.length + 1)) s.sheets.hold },
    engine := { s.engine with waiting := s.engine.waiting ++ [claimWrite s.setup n] } }

theorem claim_eq (s : State) (n : Nat) : s.claim n = (s.claimed n).serveClaim := by
  rw [State.claim, evaluateHold_eq]
  rfl

theorem serveClaim_none (h : s.sheets.waiting = []) : s.serveClaim = s := by
  rw [State.serveClaim, h]

/-- The state with the claim cursor behind an entry. -/
def State.cursorBehind (s : State) (n : Nat) : State :=
  { s with sheets := { s.sheets with cursor := onward s.setup (n + 1) } }

/-- The state with an entry passed that is not FREE. -/
def State.passed (s : State) (n : Nat) : State :=
  { s with sheets := { s.sheets with cursor := onward s.setup (n + 1), examined := s.sheets.examined + 1 } }

theorem examine_full {n sheet : Nat} (h : 16 ≤ s.sheets.stack.length) : State.examine line (n + 1) sheet s = s.endScan := by
  rw [State.examine]
  exact if_pos h

theorem examine_claims {n sheet : Nat} (h : s.sheets.stack.length < 16) (hf : mapStateAt line (sheet % 32) = 0) :
    State.examine line (n + 1) sheet s = State.examine line n (sheet + 1) ((s.cursorBehind sheet).claim sheet) := by
  rw [State.examine]
  exact (if_neg (Nat.not_le.2 h)).trans (if_pos hf)

theorem examine_passes {n sheet : Nat} (h : s.sheets.stack.length < 16) (hf : mapStateAt line (sheet % 32) ≠ 0)
    (he : s.sheets.examined + 1 < s.setup.sheetCount) :
    State.examine line (n + 1) sheet s = State.examine line n (sheet + 1) (s.passed sheet) := by
  rw [State.examine]
  exact (if_neg (Nat.not_le.2 h)).trans ((if_neg hf).trans (if_neg (Nat.not_le.2 he)))

theorem examine_last {n sheet : Nat} (h : s.sheets.stack.length < 16) (hf : mapStateAt line (sheet % 32) ≠ 0)
    (he : s.setup.sheetCount ≤ s.sheets.examined + 1) :
    State.examine line (n + 1) sheet s = (s.passed sheet).endScan := by
  rw [State.examine]
  exact (if_neg (Nat.not_le.2 h)).trans ((if_neg hf).trans (if_pos he))

/-! ### A run of entries (R80, R87, R89) -/

/-- The FREE entries of a line among `m` entries from a sheet number on. -/
def freeEntries (line : List Byte) (sheet m : Nat) : List Nat :=
  (List.range' sheet m).filter fun n => byteAt line (2 * (n % 32)) == 0

theorem freeEntries_succ_free {sheet m : Nat} (h : mapStateAt line (sheet % 32) = 0) :
    freeEntries line sheet (m + 1) = sheet :: freeEntries line (sheet + 1) m := by
  rw [freeEntries, List.range'_succ]
  exact List.filter_cons_of_pos (beq_iff_eq.2 h)

theorem freeEntries_succ_used {sheet m : Nat} (h : mapStateAt line (sheet % 32) ≠ 0) :
    freeEntries line sheet (m + 1) = freeEntries line (sheet + 1) m := by
  rw [freeEntries, List.range'_succ]
  exact List.filter_cons_of_neg fun he => h (beq_iff_eq.1 he)

/-- What a scan has done to the sheet manager once it passed `m` entries up to a sheet number, with these claimed. -/
structure Scanned (x y : SheetManager) (p : Setup) (claimed : List Nat) (m sheet : Nat) : Prop where
  stack : y.stack = claimed.reverse ++ x.stack
  tally : y.tally = x.tally - claimed.length
  cursor : y.cursor = if m = 0 then x.cursor else onward p sheet
  scan : y.scan = x.scan
  again : y.scanAgain = x.scanAgain
  waiting : y.waiting = x.waiting
  examined : y.examined ≤ x.examined + m
  none : claimed = [] → y.examined = x.examined + m ∧ y.storageOut = x.storageOut
  some : claimed ≠ [] → y.storageOut = false

/-- A run that the scan goes through: room for every FREE entry, not yet every entry of the map examined. -/
theorem examine_run {m : Nat} : ∀ {s : State} {sheet n : Nat}, s.sheets.waiting = [] →
    s.sheets.stack.length + (freeEntries line sheet m).length < 16 → s.sheets.examined + m < s.setup.sheetCount →
    ∃ x, Scanned s.sheets x s.setup (freeEntries line sheet m) m (sheet + m) ∧
      State.examine line (m + n) sheet s = State.examine line n (sheet + m) { s with
        sheets := x,
        engine := { s.engine with waiting := s.engine.waiting ++ (freeEntries line sheet m).map (claimWrite s.setup) } } := by
  induction m with
  | zero =>
    intro s sheet n hw hroom he
    refine ⟨s.sheets, ⟨rfl, rfl, rfl, rfl, rfl, rfl, Nat.le_refl _, fun _ => ⟨rfl, rfl⟩, fun h => absurd rfl h⟩, ?_⟩
    rw [show (freeEntries line sheet 0).map (claimWrite s.setup) = [] from rfl, List.append_nil, Nat.zero_add, Nat.add_zero]
  | succ m ih =>
    intro s sheet n hw hroom he
    have hroom' : s.sheets.stack.length < 16 := by omega
    rw [show m + 1 + n = (m + n) + 1 by omega, show sheet + (m + 1) = sheet + 1 + m by omega]
    by_cases hf : mapStateAt line (sheet % 32) = 0
    · rw [freeEntries_succ_free hf] at hroom ⊢
      rw [examine_claims hroom' hf, claim_eq, serveClaim_none (s := (s.cursorBehind sheet).claimed sheet) hw]
      obtain ⟨x, hx, heq⟩ := ih (s := (s.cursorBehind sheet).claimed sheet) (sheet := sheet + 1) (n := n) hw
        (by simp only [State.claimed, State.cursorBehind, List.length_cons] at hroom ⊢; omega)
        (by simp only [State.claimed, State.cursorBehind]; omega)
      refine ⟨x, ⟨?_, ?_, ?_, hx.scan, hx.again, hx.waiting, ?_, fun h => absurd h nofun, fun _ => ?_⟩, ?_⟩
      · rw [hx.stack, List.reverse_cons, List.append_assoc]
        rfl
      · rw [hx.tally, List.length_cons]
        simp only [State.claimed, State.cursorBehind]
        omega
      · rw [if_neg (Nat.succ_ne_zero m), hx.cursor]
        split
        · next hm => rw [hm]; rfl
        · rfl
      · exact hx.examined.trans (by simp only [State.claimed]; omega)
      · by_cases hc : freeEntries line (sheet + 1) m = []
        · exact (hx.none hc).2
        · exact hx.some hc
      · rw [heq]
        exact congrArg (fun l => State.examine line n (sheet + 1 + m)
          { s with sheets := x, engine := { s.engine with waiting := l } }) (List.append_assoc ..)
    · rw [freeEntries_succ_used hf] at hroom ⊢
      rw [examine_passes hroom' hf (by omega)]
      obtain ⟨x, hx, heq⟩ := ih (s := s.passed sheet) (sheet := sheet + 1) (n := n) hw hroom
        (by simp only [State.passed]; omega)
      refine ⟨x, ⟨hx.stack, hx.tally, ?_, hx.scan, hx.again, hx.waiting, ?_, fun h => ?_, hx.some⟩, heq⟩
      · rw [if_neg (Nat.succ_ne_zero m), hx.cursor]
        split
        · next hm => rw [hm]; rfl
        · rfl
      · exact hx.examined.trans (by simp only [State.passed]; omega)
      · obtain ⟨h1, h2⟩ := hx.none h
        exact ⟨h1.trans (by simp only [State.passed]; omega), h2⟩

/-! ### Where the stack fills (R80) -/

/-- An entry of a filtered list, with what stands before it. -/
theorem filter_split {α : Type} {q : α → Bool} : ∀ {l : List α} {i : Nat} {a : α}, (l.filter q)[i]? = some a →
    ∃ before after, l = before ++ a :: after ∧ q a = true ∧ (l.filter q).take i = before.filter q
  | [], i, a, h => absurd h (by simp)
  | x :: l, i, a, h => by
    by_cases hx : q x = true
    · rw [List.filter_cons_of_pos hx] at h ⊢
      cases i with
      | zero =>
        obtain rfl : x = a := Option.some.inj h
        exact ⟨[], l, rfl, hx, rfl⟩
      | succ i =>
        obtain ⟨before, after, hl, hq, ht⟩ := filter_split (l := l) h
        exact ⟨x :: before, after, by rw [hl]; rfl, hq, by rw [List.filter_cons_of_pos hx, List.take_succ_cons, ht]⟩
    · rw [List.filter_cons_of_neg hx] at h ⊢
      obtain ⟨before, after, hl, hq, ht⟩ := filter_split (l := l) h
      exact ⟨x :: before, after, by rw [hl]; rfl, hq, by rw [List.filter_cons_of_neg hx, ht]⟩

/-- A FREE entry of a line: its number, and the FREE entries before it. -/
theorem freeEntries_at {sheet m i a : Nat} (h : (freeEntries line sheet m)[i]? = some a) : ∃ k, a = sheet + k ∧ k < m ∧
    mapStateAt line (a % 32) = 0 ∧ freeEntries line sheet k = (freeEntries line sheet m).take i := by
  obtain ⟨before, after, hl, hq, ht⟩ := filter_split h
  obtain ⟨k, hk, hbefore, hafter⟩ := List.range'_eq_append_iff.1 hl
  have hlt : 0 < m - k := by
    have hlength := congrArg List.length hafter
    rw [List.length_cons, List.length_range'] at hlength
    omega
  obtain ⟨j, hj⟩ : ∃ j, m - k = j + 1 := ⟨m - k - 1, by omega⟩
  rw [hj, List.range'_succ] at hafter
  refine ⟨k, ?_, by omega, beq_iff_eq.1 hq, ?_⟩
  · rw [(List.cons.inj hafter).1, Nat.mul_one]
  · rw [freeEntries, ← hbefore]
    exact ht.symm

/-! ### The end of a scan (R82) -/

theorem scanEvent_many {marks : Bool} (hi : s.sheets.scan = .idle) (h : 8 ≤ s.sheets.stack.length) :
    s.scanEvent marks = s := by
  simp only [State.scanEvent, hi]
  refine if_neg ?_
  rw [Bool.and_eq_true, decide_eq_true_eq]
  exact fun hb => Nat.not_lt.2 h hb.2

/-- A scan that ends with a full stack leaves the scan idle, and does nothing else. -/
theorem endScan_full (h : 16 ≤ s.sheets.stack.length) :
    s.endScan = { s with sheets := { s.sheets with scan := .idle, scanAgain := false } } := by
  have hne : s.sheets.stack.isEmpty = false := by
    cases hs : s.sheets.stack with
    | nil => rw [hs] at h; exact absurd h (by decide)
    | cons => rfl
  simp only [State.endScan, hne, Bool.false_eq_true, if_false]
  split
  · exact scanEvent_many rfl (by simp only; omega)
  · rfl

theorem endScan_out (h : s.sheets.stack = []) (ha : s.sheets.scanAgain = false) :
    s.endScan = s.sheets.waiting.foldl State.refuseRequest { s with sheets := { s.sheets with
      scan := .idle, storageOut := true, waiting := [] } } := by
  rw [State.endScan]
  dsimp only
  rw [h, ha]
  rfl

/-! ### Requests answered "storage out" (R64, R82, R100) -/

/-- The row of a take whose waiting request is answered "storage out". -/
def ChanRow.takeRefused (r : ChanRow) : ChanRow :=
  { r with
    sheet := none, flush := none, codec := { silent := 0, pending := 0, lost := 0 },
    queue := r.queue.filter fun e => match e with | .waiting .. => false | _ => true,
    placement := r.placement.map fun p => { p with closing := none }, op := some (.checkpoint .draining),
    ctx := { r.ctx with state := .busy .saving, transient := some (.storageOut, 32) } }

/-- The row of a channel whose opening is answered "storage out". -/
def ChanRow.openRefused (r : ChanRow) : ChanRow :=
  { r with op := none, ctx := { r.ctx with openRequest := none, transient := some (.storageOut, 32) } }

theorem firstWaiting_dropAll (q : List QueueEntry) : firstWaiting (dropAllWaiting q) = none := by
  induction q with
  | nil => rfl
  | cons e q ih =>
    cases e with
    | waiting => exact ih
    | ready => exact ih
    | writing => exact ih

theorem finishClosing_none (h : r.placement.bind Placement.closing = none) :
    (s.setRow c r).finishClosing c = s.setRow c r.drains := by
  rw [State.finishClosing, row_setRow_self, h]
  exact modRow_setRow

theorem refuseTake_eq (hs : (s.row c).ctx.state = .recording) (hw : (s.row c).sheet = none)
    (hp : (s.row c).codec.pending = 0) (hl : (s.row c).codec.lost = 0) :
    s.refuseTake c = s.setRow c (s.row c).takeRefused := by
  let r : ChanRow := { s.row c with
    queue := dropAllWaiting (s.row c).queue, codec := { (s.row c).codec with lost := 0 },
    ctx := { (s.row c).ctx with transient := some (.storageOut, 32) } }
  have hdropped : s.refuseTake c = (s.setRow c r).stopTake c .saving := by
    rw [State.refuseTake, hl, ite_self]
    simp only [show s.chanState c = .recording from hs, if_true, State.modRow, raise_setRow]
    rfl
  have hflush : (r.takeEnded .saving).dueFlush = none := by
    rw [ChanRow.dueFlush]
    simp [ChanRow.takeEnded, r, hp]
  rw [hdropped, State.stopTake, endTake_live (r := r) fun v hv => absurd (hw.symm.trans hv) nofun]
  change State.settle c 32 _ = _
  rw [settle_closes (by rw [row_setRow_self]; exact asksLost_false (.inl rfl)) (by rw [row_setRow_self]; exact hflush)
    (by rw [row_setRow_self]; exact firstWaiting_dropAll _) (by rw [row_setRow_self]; exact takeEnded_placing r .saving)
    (by rw [row_setRow_self]; rfl)]
  have hclosing : (r.takeEnded .saving).placement.bind Placement.closing = none := by
    simp [ChanRow.takeEnded, r, hw]
  rw [finishClosing_none hclosing]
  simp only [ChanRow.drains, ChanRow.takeEnded, ChanRow.takeRefused, r, hw, hp, dropAllWaiting_eq]
  rfl

theorem answerOpen_refused (hrun : s.regs.part = .running) :
    s.answerOpen c .storageOut = s.setRow c (s.row c).openRefused := by
  have hpart : (s.modRow c (fun r => { r with
      op := none, ctx := { r.ctx with openRequest := none } })).raise c .storageOut = s.setRow c (s.row c).openRefused := by
    rw [State.modRow, raise_setRow]
    rfl
  rw [State.answerOpen]
  dsimp only
  rw [hpart]
  exact if_neg (by rw [show (s.setRow c (s.row c).openRefused).regs.part = .running from hrun]; nofun)

theorem openWithoutSheet_eq (hrun : s.regs.part = .running) :
    s.openWithoutSheet c = (s.endOpening (s.row c).op).setRow c (s.row c).openRefused := by
  have hopen : s.openWithoutSheet c = (s.endOpening (s.row c).op).answerOpen c .storageOut := rfl
  obtain ⟨h, i, hframe⟩ := endOpening_frame s (s.row c).op
  have hregs : (s.endOpening (s.row c).op).regs = s.regs := by rw [hframe]
  have hrow : (s.endOpening (s.row c).op).row c = s.row c := by rw [hframe]; rfl
  rw [hopen, answerOpen_refused (by rw [hregs]; exact hrun), hrow]

/-- The channel of a request. -/
def requestChannel : SheetRequest → Chan
  | .take c => c
  | .index c => c

/-- The row of a channel whose request is refused. -/
def ChanRow.refused (r : ChanRow) : SheetRequest → ChanRow
  | .take _ => r.takeRefused
  | .index _ => r.openRefused

/-- What the refusal of requests leaves. -/
structure Refused (l : List SheetRequest) (s t : State) : Prop where
  frame : t = { s with chans := t.chans, cards := t.cards }
  rows : ∀ q ∈ l, t.row (requestChannel q) = (s.row (requestChannel q)).refused q
  others : ∀ c, (∀ q ∈ l, requestChannel q ≠ c) → t.row c = s.row c
  cards : ∀ c, .index c ∈ l → ∀ card, (s.row c).op = some (.opening (some card)) →
    Table.get t.cards.holdings card = none
  ended : ∀ card, Table.get s.cards.holdings card = none → Table.get t.cards.holdings card = none

/-- A refusal may be made: a take has no write sheet and nothing pending, an opening stands in IDLE. -/
def Refusable (s : State) : SheetRequest → Prop
  | .take c => (s.row c).ctx.state = .recording ∧ (s.row c).sheet = none ∧ (s.row c).codec.pending = 0 ∧
    (s.row c).codec.lost = 0
  | .index c => (s.row c).ctx.state = .idle

theorem Refusable.row_eq {q : SheetRequest} (h : Refusable s q)
    (hr : t.row (requestChannel q) = s.row (requestChannel q)) : Refusable t q := by
  cases q with
  | take c => rw [Refusable, show t.row c = s.row c from hr]; exact h
  | index c => rw [Refusable, show t.row c = s.row c from hr]; exact h

/-- Two requests of one channel that may both be refused are one. -/
theorem Refusable.unique {q x : SheetRequest} (hq : Refusable s q) (hx : Refusable s x)
    (h : requestChannel q = requestChannel x) : q = x := by
  cases q with
  | take c =>
    cases x with
    | take d => exact congrArg _ h
    | index d =>
      cases show c = d from h
      exact absurd (hq.1.symm.trans hx) nofun
  | index c =>
    cases x with
    | index d => exact congrArg _ h
    | take d =>
      cases show c = d from h
      exact absurd (hx.1.symm.trans hq) nofun

theorem refuseRequest_refused {q : SheetRequest} (hrun : s.regs.part = .running) (hq : Refusable s q) :
    Refused [q] s (s.refuseRequest q) := by
  cases q with
  | take c =>
    obtain ⟨hs, hw, hp, hlost⟩ := hq
    rw [show s.refuseRequest (.take c) = s.setRow c (s.row c).takeRefused from refuseTake_eq hs hw hp hlost]
    refine ⟨rfl, fun x hx => ?_, fun d hd => row_setRow_ne (Ne.symm (hd _ List.mem_cons_self)), fun d hd => ?_, fun _ h => h⟩
    · rw [List.mem_singleton.1 hx]
      exact row_setRow_self
    · exact absurd (List.mem_singleton.1 hd) nofun
  | index c =>
    rw [show s.refuseRequest (.index c) = _ from openWithoutSheet_eq hrun]
    obtain ⟨h, i, hframe⟩ := endOpening_frame s (s.row c).op
    have hrows : ∀ d, (s.endOpening (s.row c).op).row d = s.row d := fun d => by rw [hframe]; rfl
    refine ⟨by rw [hframe]; rfl, fun x hx => ?_,
      fun d hd => (row_setRow_ne (Ne.symm (hd _ List.mem_cons_self))).trans (hrows d), fun d hd card hop => ?_,
      fun _ => endOpening_ends⟩
    · rw [List.mem_singleton.1 hx]
      exact row_setRow_self
    · cases List.mem_singleton.1 hd
      rw [hop]
      exact get_erase_self

theorem Refused.cons {q : SheetRequest} {l : List SheetRequest} (h : Refused [q] s u) (g : Refused l u t)
    (hne : ∀ x ∈ l, requestChannel q ≠ requestChannel x) : Refused (q :: l) s t where
  frame := by rw [g.frame, h.frame]
  rows x hx := by
    rcases List.mem_cons.1 hx with rfl | hx
    · rw [g.others _ fun y hy => (hne y hy).symm, h.rows _ List.mem_cons_self]
    · rw [g.rows x hx, h.others _ fun y hy => by rw [List.mem_singleton.1 hy]; exact hne x hx]
  others c hc := by
    rw [g.others c fun x hx => hc x (List.mem_cons_of_mem _ hx),
      h.others c fun x hx => by rw [List.mem_singleton.1 hx]; exact hc q List.mem_cons_self]
  cards c hc card hop := by
    rcases List.mem_cons.1 hc with rfl | hx
    · exact g.ended _ (h.cards c List.mem_cons_self card hop)
    · refine g.cards c hx card ?_
      rw [h.others c fun y hy => by rw [List.mem_singleton.1 hy]; exact hne _ hx]
      exact hop
  ended card hcard := g.ended _ (h.ended _ hcard)

/-- Every request of a list without repetitions is refused. -/
theorem refuseAll {l : List SheetRequest} : ∀ {s : State}, s.regs.part = .running → l.Nodup →
    (∀ q ∈ l, Refusable s q) → Refused l s (l.foldl State.refuseRequest s) := by
  induction l with
  | nil =>
    intro s _ _ _
    exact ⟨rfl, fun c h => absurd h List.not_mem_nil, fun _ _ => rfl, fun c h => absurd h List.not_mem_nil, fun _ h => h⟩
  | cons q l ih =>
    intro s hrun hnodup hall
    obtain ⟨hq, hl⟩ := List.nodup_cons.1 hnodup
    have hown := hall q List.mem_cons_self
    have hrest := fun x hx => hall x (List.mem_cons_of_mem _ hx)
    have hne : ∀ x ∈ l, requestChannel q ≠ requestChannel x := fun x hx he => hq (hown.unique (hrest x hx) he ▸ hx)
    have hhead := refuseRequest_refused hrun hown
    rw [List.foldl_cons]
    refine hhead.cons (ih ?_ hl fun x hx => (hrest x hx).row_eq ?_) hne
    · exact (congrArg Registers.part (congrArg State.regs hhead.frame)).trans hrun
    · exact hhead.others _ fun y hy => by rw [List.mem_singleton.1 hy]; exact hne x hx

end Sys2Proof.Machine
end

section
/-! PROOFS. The claim scan settled: a line with no request waiting, a sheet given to a take at once, the scan's ends. -/

namespace Sys2Proof.Machine

open Sys2Proof

variable {s t u v : State} {c d : Chan} {r : ChanRow} {line : List Byte} {p : Placement} {rec : Rec}

/-! ### A claimed sheet given to a take (R80, R83) -/

theorem popStack_busy (h : s.sheets.scan ≠ .idle) : s.popStack = { s with sheets := { s.sheets with
    stack := s.sheets.stack.tail,
    hold := heldAt s.setup (s.sheets.tally + s.sheets.stack.tail.length) s.sheets.hold } } := by
  have hevent : ∀ v : State, v.sheets.scan ≠ .idle → v.scanEvent false = v := fun v hv => by
    unfold State.scanEvent
    split
    · next hi => exact absurd hi hv
    · rfl
  rw [State.popStack, evaluateHold_eq]
  exact hevent _ h

/-- The row of a take whose waiting record went into the first slot of a sheet just given. -/
def ChanRow.served (r : ChanRow) (p : Placement) (w : WriteSheet) (rec : Rec) (queue : List QueueEntry) : ChanRow :=
  r.recorded p w rec (addRecord r.spanList r.ctx.cursor w.sheet w.next rec.frames r.ctx.instruct (r.extendsSpan w)) queue

theorem serveClaim_take {top : Nat} {stack : List Nat} {more : List SheetRequest} (hw : s.sheets.waiting = .take c :: more)
    (hs : s.sheets.stack = top :: stack) : s.serveClaim =
      (State.popStack { s with sheets := { s.sheets with waiting := more } }).serveTake c top := by
  rw [State.serveClaim, hw, hs]

/-- The writes of a sheet given to a take and of the record placed into it. -/
def givenWrites (s : State) (c : Chan) (n : Nat) (l : OpenLetter) (rec : Rec) : List Access :=
  mapWriteOf s.setup .sheetManager .mapWrite n 2 l.card :: placedWrites s.setup c (givenSheet n l) rec

theorem serveTake_places {n : Nat} {l : OpenLetter} {before after : List QueueEntry} {tied : Bool}
    (hs : (s.row c).ctx.state = .recording) (hop : (s.row c).op = none) (hl : (s.row c).ctx.letter = some l)
    (hp : (s.row c).placement = some p) (hm : p.mode ≠ .overwrite) (hlost : (s.row c).codec.lost = 0)
    (hv : rec.isLost = false) (hq : (s.row c).queue = before ++ .waiting rec tied :: after)
    (hb : firstWaiting before = none) (ha : firstWaiting after = none)
    (he : (s.row c).extendsSpan (givenSheet n l) = true ∨ (s.row c).spanList.length < 1024)
    (hf : (s.row c).length + rec.frames ≤ 120000) : s.serveTake c n =
      State.setRow { s with
        letters := s.letters.entered n 1 rec,
        engine := { s.engine with waiting := s.engine.waiting ++ givenWrites s c n l rec } } c
        ((s.row c).served p (givenSheet n l) rec (before ++ .ready rec l.card n 1 :: after)) := by
  have hgiven := giveSheet_take (n := n) hs hl
  have hrow : ((s.row c).given (givenSheet n l)).withRecord (givenSheet n l) rec ((s.row c).extendsSpan (givenSheet n l)) =
      (s.row c).served p (givenSheet n l) rec (before ++ .ready rec l.card n 1 :: after) :=
    withRecord_take (r := (s.row c).given (givenSheet n l)) hs hp hq hb
  have hplaced : (s.giveSheet c n).placeHead c rec = (.placed false, State.setRow { s with
        letters := s.letters.entered n 1 rec,
        engine := { s.engine with waiting := s.engine.waiting ++ givenWrites s c n l rec } } c
        ((s.row c).served p (givenSheet n l) rec (before ++ .ready rec l.card n 1 :: after))) := by
    rw [hgiven, placeHead_usable (w := givenSheet n l) (by rw [row_setRow_self]; exact hf)
      (by rw [row_setRow_self]; exact usableTarget_take (r := (s.row c).given (givenSheet n l)) hs rfl (show 1 ≤ 127 by decide))
      (by rw [row_setRow_self]; exact he), countLost_voice hv, row_setRow_self, placeInto_keeps (by
        rw [row_setRow_self]
        exact fun q hq => Option.some.inj (hp.symm.trans hq) ▸ hm), withRecord_setRow]
    have hengine : s.engine.waiting ++ [mapWriteOf s.setup .sheetManager .mapWrite n 2 l.card] ++
        placedWrites s.setup c (givenSheet n l) rec = s.engine.waiting ++ givenWrites s c n l rec :=
      List.append_assoc ..
    rw [← hrow, ← hengine]
    rfl
  have hrests : TakeRests ((s.row c).served p (givenSheet n l) rec (before ++ .ready rec l.card n 1 :: after)) :=
    ⟨hop, (firstWaiting_append hb).trans ha, .inl hlost⟩
  refine settle_take (s := s.giveSheet c n) (tied := tied) (after := after) ?_ ?_ ?_ hb hplaced (by rw [row_setRow_self]; exact hrests)
  · rw [hgiven, row_setRow_self]
    exact hop
  · rw [hgiven, row_setRow_self]
    exact .inl hlost
  · rw [hgiven, row_setRow_self]
    exact hq

/-- A sheet claimed while a take waits for one, the stack empty: it goes to the take at once. -/
theorem claim_serves {n : Nat} {l : OpenLetter} {before after : List QueueEntry} {tied : Bool} {more : List SheetRequest}
    (hw : s.sheets.waiting = .take c :: more) (hscan : s.sheets.scan ≠ .idle) (hstack : s.sheets.stack = [])
    (hs : (s.row c).ctx.state = .recording) (hop : (s.row c).op = none) (hl : (s.row c).ctx.letter = some l)
    (hp : (s.row c).placement = some p) (hm : p.mode ≠ .overwrite) (hlost : (s.row c).codec.lost = 0)
    (hv : rec.isLost = false) (hq : (s.row c).queue = before ++ .waiting rec tied :: after)
    (hb : firstWaiting before = none) (ha : firstWaiting after = none)
    (he : (s.row c).extendsSpan (givenSheet n l) = true ∨ (s.row c).spanList.length < 1024)
    (hf : (s.row c).length + rec.frames ≤ 120000) : ∃ hold, s.claim n =
      State.setRow { s with
        sheets := { s.sheets with
          stack := [], tally := s.sheets.tally - 1, examined := 0, storageOut := false, waiting := more, hold := hold },
        letters := s.letters.entered n 1 rec,
        engine := { s.engine with
          waiting := s.engine.waiting ++ claimWrite s.setup n :: givenWrites s c n l rec } } c
        ((s.row c).served p (givenSheet n l) rec (before ++ .ready rec l.card n 1 :: after)) := by
  have hpop := popStack_busy (s := { s.claimed n with sheets := { (s.claimed n).sheets with waiting := more } }) hscan
  have hplace := serveTake_places (n := n) (s := (State.popStack { s.claimed n with sheets := { (s.claimed n).sheets with
    waiting := more } })) (c := c) (p := p) (rec := rec) (l := l) (before := before) (after := after) (tied := tied)
  simp only [hpop] at hplace
  have hsheet := hplace hs hop hl hp hm hlost hv hq hb ha he hf
  refine ⟨heldAt s.setup (s.sheets.tally - 1 + s.sheets.stack.length)
    (heldAt s.setup (s.sheets.tally - 1 + (s.sheets.stack.length + 1)) s.sheets.hold), ?_⟩
  rw [claim_eq, serveClaim_take (s := s.claimed n) (stack := []) hw (congrArg (n :: ·) hstack), hpop]
  refine hsheet.trans ?_
  have hwaiting : s.engine.waiting ++ claimWrite s.setup n :: givenWrites s c n l rec =
      s.engine.waiting ++ [claimWrite s.setup n] ++ givenWrites s c n l rec := List.append_cons ..
  rw [hwaiting, ← hstack]
  rfl

/-! ### The scan settled -/

theorem entries_range' (first n : Nat) : (List.range n).map (first + ·) = List.range' first n :=
  List.range'_eq_map_range.symm

theorem readScanLine_eq (s : State) : s.readScanLine = { s with
    sheets := { s.sheets with scan := .reading },
    engine := { s.engine with waiting := s.engine.waiting ++
      [readOf .sheetManager .scanRead ((s.setup.mapBase + 64 * (s.sheets.cursor / 32)) % 2 ^ 64)] } } := rfl

/-- Where the stack fills: the run up to a FREE entry that takes the last place, and its claim. -/
theorem examine_fills {m sheet i final : Nat} (hw : s.sheets.waiting = []) (hi : s.sheets.stack.length + i = 15)
    (hf : (freeEntries line sheet m)[i]? = some final) (he : s.sheets.examined + m < s.setup.sheetCount) :
    ∃ x j, final + 1 + j = sheet + m ∧ x.stack = ((freeEntries line sheet m).take (i + 1)).reverse ++ s.sheets.stack ∧
      x.tally = s.sheets.tally - (i + 1) ∧ x.storageOut = false ∧ x.waiting = [] ∧ x.cursor = onward s.setup (final + 1) ∧
      x.scan = s.sheets.scan ∧ x.scanAgain = s.sheets.scanAgain ∧
      State.examine line m sheet s = State.examine line j (final + 1) { s with
        sheets := x,
        engine := { s.engine with waiting := s.engine.waiting ++
          ((freeEntries line sheet m).take (i + 1)).map (claimWrite s.setup) } } := by
  obtain ⟨k, rfl, hk, hfree, htake⟩ := freeEntries_at hf
  have hsucc : (freeEntries line sheet m).take (i + 1) = freeEntries line sheet k ++ [sheet + k] := by
    rw [List.take_add_one, hf, ← htake]
    rfl
  have hcount : (freeEntries line sheet k).length = i := by
    rw [htake, List.length_take]
    have := (List.getElem?_eq_some_iff.1 hf).1
    omega
  obtain ⟨j, hj⟩ : ∃ j, m = k + (j + 1) := ⟨m - k - 1, by omega⟩
  obtain ⟨x, hx, heq⟩ := examine_run (line := line) (m := k) (s := s) (sheet := sheet) (n := j + 1) hw
    (by omega) (by omega)
  have hstack : x.stack.length = 15 := by
    rw [hx.stack, List.length_append, List.length_reverse, hcount]
    omega
  rw [← hj, examine_claims (by simp only [hstack]; decide) hfree, claim_eq, serveClaim_none (hx.waiting.trans hw)] at heq
  let z : State := { s with
    sheets := x,
    engine := { s.engine with waiting := s.engine.waiting ++ (freeEntries line sheet k).map (claimWrite s.setup) } }
  refine ⟨((z.cursorBehind (sheet + k)).claimed (sheet + k)).sheets, j, by omega, ?_, ?_, rfl, hx.waiting.trans hw, rfl, hx.scan,
    hx.again, heq.trans ?_⟩
  · rw [hsucc, List.reverse_append, List.append_assoc, ← hx.stack]
    rfl
  · rw [← hcount, ← Nat.sub_sub, ← hx.tally]
    rfl
  · rw [hsucc, List.map_append, ← List.append_assoc]
    rfl

/-- Settles O44: the start, a line with room, a line that fills the stack, a sheet given at once, the scan's ends. -/
theorem claimScanWorksThroughTheMap : Obligations.ClaimScanWorksThroughTheMap := by
  unfold Obligations.ClaimScanWorksThroughTheMap
  refine ⟨fun s hpart hscan => ?_, ?_⟩
  · have hworks : s.works = true := by
      rcases hpart with h | h <;> simp [State.works, h]
    have hexec : exec .claimScanStart s = done s s.readScanLine := congrArg (done s) (if_pos ⟨hworks, hscan⟩)
    exact ⟨_, hexec.trans (done_same rfl), rfl, rfl⟩
  intro s a rest data hdue ha hpart hcursor u first last entries claimed onward' claims nextLine
  obtain ⟨n, hn⟩ : ∃ n, last - first = n := ⟨_, rfl⟩
  have hlt : first < last := by
    have h1 : first < 32 * (first / 32 + 1) := by omega
    exact Nat.lt_min.2 ⟨h1, hcursor⟩
  have hclaimed : claimed = freeEntries data first n := by
    rw [freeEntries, ← hn, ← entries_range']
  have hlength : entries.length = n := by
    simp only [entries, List.length_map, List.length_range, hn]
  have hexec : exec (.mapLineReadComplete data) s = done s (State.examine data n first u) := by
    rw [← hn]
    exact congrArg (done s) (onComplete_due hdue (by rw [ha]; rfl))
  have hreported : ∀ x : State, exec (.mapLineReadComplete data) s = done s x → x.regs = s.regs → x.desk = s.desk →
      ∃ d, exec (.mapLineReadComplete data) s = .next { x with desk := d } ∧ DeskReported u { x with desk := d } := by
    intro x he hx hd
    obtain ⟨d, h1, h2⟩ := done_desk (s := s) (u := x) (by rw [hx]; exact hpart) hd
    exact ⟨d, he.trans h1, h2⟩
  refine ⟨?_, ?_, ?_, ?_, ?_, ?_⟩
  · intro hw hroom he
    rw [hclaimed] at hroom ⊢
    rw [hlength] at he ⊢
    obtain ⟨x, hx, heq⟩ := examine_run (line := data) (m := n) (s := u) (sheet := first) (n := 0) hw hroom he
    rw [Nat.add_zero, State.examine, readScanLine_eq] at heq
    have hcur : x.cursor = onward' last := by
      rw [hx.cursor, if_neg (by omega), show first + n = last by omega]
      rfl
    rw [heq] at hexec
    obtain ⟨d, hd, hrep⟩ := hreported _ hexec rfl rfl
    refine ⟨_, hd, hx.stack, hx.tally, hcur, rfl, hx.again, hx.waiting.trans hw, hx.none, hx.some, ?_, rfl, hrep⟩
    rw [HandedOver, ← List.append_assoc]
    simp only [nextLine, ← hcur]
    rfl
  · intro hw hroom hfills he n'
    rw [hclaimed] at hfills ⊢
    rw [hlength] at he
    obtain ⟨i, hi⟩ : ∃ i, n' = i + 1 := ⟨n' - 1, by omega⟩
    have hlt' : i < (freeEntries data first n).length := by omega
    obtain ⟨x, j, hj, hstack, htally, hout, hwaiting, hcur, hscan, hagain, heq⟩ := examine_fills (line := data) (s := u)
      (sheet := first) (m := n) (i := i) hw (by change s.sheets.stack.length + i = 15; omega)
      (List.getElem?_eq_getElem hlt') he
    have hfinal : (freeEntries data first n)[i]? = some (freeEntries data first n)[i] := List.getElem?_eq_getElem hlt'
    generalize (freeEntries data first n)[i] = final at *
    rw [show n' = i + 1 from hi]
    cases j with
    | zero =>
      rw [State.examine, readScanLine_eq] at heq
      have hcur' : x.cursor = onward' last := by
        rw [hcur, show final + 1 = last by omega]
        rfl
      rw [heq] at hexec
      obtain ⟨d, hd, hrep⟩ := hreported _ hexec rfl rfl
      refine ⟨_, final, hd, hfinal, hstack, htally, hout, hwaiting, fun h => absurd h (by omega), fun _ =>
        ⟨hcur', rfl, hagain, ?_⟩, rfl, hrep⟩
      rw [HandedOver, ← List.append_assoc]
      simp only [nextLine, ← hcur']
      rfl
    | succ j =>
      have hlen : 16 ≤ x.stack.length := by
        rw [hstack, List.length_append, List.length_reverse, List.length_take]
        change 16 ≤ _ + s.sheets.stack.length
        omega
      rw [examine_full hlen, endScan_full hlen] at heq
      rw [heq] at hexec
      obtain ⟨d, hd, hrep⟩ := hreported _ hexec rfl rfl
      refine ⟨_, final, hd, hfinal, hstack, htally, hout, hwaiting, fun _ => ⟨?_, rfl, rfl, rfl⟩,
        fun h => absurd h (by omega), rfl, hrep⟩
      refine hcur.trans (if_neg ?_)
      have := Nat.min_le_right (32 * (first / 32 + 1)) s.setup.sheetCount
      change final + 1 ≠ s.setup.sheetCount
      omega
  · intro c more l p before rec tied after left right hw hscan hstack hlast hfree r w hs hop hl hp hm hlost hv hat hq hb ha'
      he hf
    have hone : n = 0 + 1 := by omega
    obtain ⟨hold, hserve⟩ := claim_serves (s := u.cursorBehind first) (n := first) hw hscan hstack hs hop hl hp hm hlost hv hq hb
      ha' (hat.room hp he) hf
    rw [hone, examine_claims (s := u) (by rw [show u.sheets.stack = [] from hstack]; decide) hfree, hserve, State.examine,
      readScanLine_eq] at hexec
    obtain ⟨d, hd, -⟩ := hreported _ hexec rfl rfl
    refine ⟨_, _, hd, hat.joined hp w rec.frames, row_setRow_self, recordEntered (w := w) rfl, fun d hd => row_setRow_ne hd, rfl, rfl,
      rfl, ?_, rfl, rfl, ?_⟩
    · change onward' (first + 1) = onward' last
      rw [hlast]
    · simp only [nextLine, hlast]
      rw [HandedOver]
      refine congrArg (fun l => ({ u.engine with waiting := l } : Engine)) (List.append_assoc ..)
  · intro hfull
    obtain ⟨m, hm⟩ : ∃ m, n = m + 1 := ⟨n - 1, by omega⟩
    rw [hm, examine_full (s := u) hfull, endScan_full (s := u) hfull] at hexec
    exact hexec.trans (done_same rfl)
  · intro hstack hw hagain hused he
    obtain ⟨m, hm⟩ : ∃ m, n = m + 1 := ⟨n - 1, by omega⟩
    rw [hm, examine_last (s := u) (by rw [show u.sheets.stack = [] from hstack]; decide) hused he,
      endScan_out (s := u.passed first) hstack hagain, show (u.passed first).sheets.waiting = [] from hw] at hexec
    refine hexec.trans ((done_same rfl).trans ?_)
    exact congrArg (fun l => Host.Outcome.next { u with sheets := { s.sheets with
      cursor := onward' (first + 1), examined := s.sheets.examined + 1, scan := .idle, storageOut := true, waiting := l } })
      hw.symm
  · intro hrun hstack hagain hnodup hused he htakes hopens
    obtain ⟨m, hm⟩ : ∃ m, n = m + 1 := ⟨n - 1, by omega⟩
    rw [hm, examine_last (s := u) (by rw [show u.sheets.stack = [] from hstack]; decide) hused he] at hexec
    have hrefused : Refused s.sheets.waiting { u.passed first with sheets := { (u.passed first).sheets with
        scan := .idle, storageOut := true, waiting := [] } } (u.passed first).endScan := by
      rw [endScan_out (s := u.passed first) hstack hagain]
      refine refuseAll hrun hnodup fun q hq => ?_
      cases q with
      | take c => exact htakes c hq
      | index c => exact hopens c hq
    generalize (u.passed first).endScan = x at hexec hrefused
    have hsheets := congrArg State.sheets hrefused.frame
    have hregs := congrArg State.regs hrefused.frame
    have hdesk := congrArg State.desk hrefused.frame
    obtain ⟨d, hd, hrep⟩ := hreported _ hexec hregs hdesk
    refine ⟨_, hd, hsheets, fun c hc => hrefused.rows _ hc, fun c hc => ⟨hrefused.rows _ hc, hrefused.cards c hc⟩,
      fun c ht hi => hrefused.others c fun q hq he => ?_, ?_, hrep⟩
    · cases q with
      | take e => exact ht (he ▸ hq)
      | index e => exact hi (he ▸ hq)
    · rw [hrefused.frame]
      rfl

end Sys2Proof.Machine
end

section
/-! PROOFS. Quiesce: what the winding down of each channel leaves, what all 32 leave, and the renders stopped. -/

namespace Sys2Proof.Machine

open Sys2Proof

variable {s t u v : State} {c d : Chan} {r : ChanRow} {k : OrderSlot}

/-! ### The engine under quiesce -/

/-- The purposes that the winding down of channels brings into the queues. -/
def Purpose.ofQuiesce (p : Purpose) : Bool :=
  match p with
  | .recordWrite .. | .headerWrite .. | .mapWrite | .finishResult _ | .playbackRead false | .abandonedRead _ => true
  | _ => false

/-- Accesses that wait or fly have a purpose of quiesce or one that was there, and no finishing write is lost. -/
structure EngineWinds (x y : Engine) : Prop where
  all : ∀ a ∈ y.waiting ++ y.flight, a.purpose.ofQuiesce = true ∨ ∃ b ∈ x.waiting ++ x.flight, b.purpose = a.purpose
  kept : ∀ a ∈ x.waiting, ∀ k, a.purpose = .finishResult k → a ∈ y.waiting

theorem EngineWinds.refl {x : Engine} : EngineWinds x x := ⟨fun a ha => .inr ⟨a, ha, rfl⟩, fun _ ha _ _ => ha⟩

theorem EngineWinds.trans {x y z : Engine} (h : EngineWinds x y) (g : EngineWinds y z) : EngineWinds x z where
  all a ha := by
    rcases g.all a ha with hq | ⟨b, hb, he⟩
    · exact .inl hq
    · rw [← he]
      exact h.all b hb
  kept a ha k hk := g.kept a (h.kept a ha k hk) k hk

theorem EngineWinds.absent {x y : Engine} {p : Purpose} (h : EngineWinds x y) (hp : p.ofQuiesce = false)
    (hx : ∀ b ∈ x.waiting ++ x.flight, b.purpose ≠ p) : ∀ a ∈ y.waiting ++ y.flight, a.purpose ≠ p := by
  intro a ha he
  rcases h.all a ha with hq | ⟨b, hb, hbp⟩
  · rw [he, hp] at hq
    exact Bool.false_ne_true hq
  · exact hx b hb (hbp.trans he)

theorem EngineWinds.handedOver {more : List Access} (h : HandedOver s t more)
    (hm : ∀ a ∈ more, a.purpose.ofQuiesce = true) : EngineWinds s.engine t.engine := by
  rw [show t.engine = _ from h]
  refine ⟨fun a ha => ?_, fun a ha _ _ => List.mem_append_left _ ha⟩
  simp only [List.append_assoc, List.mem_append] at ha
  rcases ha with ha | ha | ha
  · exact .inr ⟨a, List.mem_append_left _ ha, rfl⟩
  · exact .inl (hm a ha)
  · exact .inr ⟨a, List.mem_append_right _ ha, rfl⟩

/-- Accesses given a purpose of quiesce, no finishing write among them. -/
theorem EngineWinds.given {x : Engine} {f g : Access → Access}
    (hf : ∀ a, f a = a ∨ (f a).purpose.ofQuiesce = true ∧ ∀ k, a.purpose ≠ .finishResult k)
    (hg : ∀ a, g a = a ∨ (g a).purpose.ofQuiesce = true) {p : Access → Bool} (hp : ∀ a k, a.purpose = .finishResult k → p a = true) :
    EngineWinds x { x with waiting := (x.waiting.filter p).map f, flight := x.flight.map g } := by
  refine ⟨fun a ha => ?_, fun a ha k hk => ?_⟩
  · rcases List.mem_append.1 ha with ha | ha
    · obtain ⟨b, hb, rfl⟩ := List.mem_map.1 ha
      rcases hf b with he | ⟨hq, -⟩
      · exact .inr ⟨b, List.mem_append_left _ (List.mem_of_mem_filter hb), by rw [he]⟩
      · exact .inl hq
    · obtain ⟨b, hb, rfl⟩ := List.mem_map.1 ha
      rcases hg b with he | hq
      · exact .inr ⟨b, List.mem_append_right _ hb, by rw [he]⟩
      · exact .inl hq
  · rcases hf a with he | ⟨-, hne⟩
    · exact List.mem_map.2 ⟨a, List.mem_filter.2 ⟨ha, hp a k hk⟩, he⟩
    · exact absurd hk (hne k)

theorem EngineWinds.abandoned {kind : Purpose → Bool} (hk : ∀ k, kind (.finishResult k) = false) :
    EngineWinds s.engine (s.abandon kind).engine := by
  let f : Access → Access := fun a => if kind a.purpose then { a with purpose := .abandonedRead a.purpose.area } else a
  have hf : ∀ a, f a = a ∨ (f a).purpose.ofQuiesce = true ∧ ∀ k, a.purpose ≠ .finishResult k := by
    intro a
    by_cases h : kind a.purpose = true
    · refine .inr ⟨?_, fun k he => ?_⟩
      · rw [show f a = _ from if_pos h]
        rfl
      · rw [he, hk k] at h
        exact Bool.false_ne_true h
    · exact .inl (if_neg h)
  have hall := EngineWinds.given (x := s.engine) (p := fun _ => true) hf (fun a => (hf a).imp id And.left) (fun _ _ _ => rfl)
  rw [List.filter_true] at hall
  exact hall

theorem EngineWinds.readsGone : EngineWinds s.engine (s.readsGone c).engine := by
  have hall := EngineWinds.given (x := s.engine) (p := fun a => !a.plays c) (f := id)
    (g := fun a => if a.plays c then { a with purpose := .playbackRead false } else a) (fun a => .inl rfl)
    (fun a => by
      by_cases h : a.plays c = true
      · exact .inr (by rw [if_pos h]; rfl)
      · exact .inl (if_neg h))
    (fun a k hk => by rw [Access.plays, hk, Bool.and_false]; rfl)
  rw [List.map_id] at hall
  exact hall

/-! ### One channel wound down (R27, R183) -/

/-- An open request of the channel is outstanding in IDLE, and quiesce withdraws it. -/
def State.withdrawn (s : State) (c : Chan) : Bool :=
  decide (s.chanState c = .idle) && (s.row c).ctx.openRequest.isSome

theorem withdrawn_iff : s.withdrawn c = true ↔ (s.row c).ctx.state = .idle ∧ (s.row c).ctx.openRequest ≠ none := by
  rw [State.withdrawn, Bool.and_eq_true, decide_eq_true_eq, Option.isSome_iff_ne_none]
  rfl

/-- The row of a channel under quiesce. -/
structure RowWinds (r r' : ChanRow) : Prop where
  unbound : r.ctx.state = .unbound → r'.ctx.state = .unbound
  idle : r.ctx.state = .idle → r'.ctx = Context.reset
  ready : r.ctx.state = .ready → r'.ctx.state = .busy .closing
  recording : r.ctx.state = .recording → r'.ctx.state = .busy .closing
  playing : r.ctx.state = .playing → r'.ctx.state = .busy .closing
  busy : ∀ sub, r.ctx.state = .busy sub → r' = r

/-- What the winding down of the channels of a list leaves. -/
structure Winds (l : List Chan) (s t : State) : Prop where
  rest : t = { s with
    chans := t.chans, inputs := t.inputs, outputs := t.outputs, letters := t.letters, sheets := t.sheets,
    cards := t.cards, orders := t.orders, engine := t.engine }
  orders : t.orders = { s.orders with
    accepted := t.orders.accepted, finishedSet := t.orders.finishedSet, finishCounter := t.orders.finishCounter }
  answered : ∀ k : OrderSlot, s.orders.accepted[k] = none → t.orders.accepted[k] = none
  words : t.outputs.map OutputSlot.word = s.outputs.map OutputSlot.word
  others : ∀ d, d ∉ l → t.row d = s.row d
  rows : ∀ d ∈ l, RowWinds (s.row d) (t.row d)
  engine : EngineWinds s.engine t.engine
  queue : t.cards.openQueue = s.cards.openQueue.filter fun d => !(decide (d ∈ l) && s.withdrawn d)
  search : t.cards.search = s.cards.search.filter fun q => !(decide (q.channel ∈ l) && s.withdrawn q.channel)
  searchReads : ∀ q, s.cards.search = some q → q.channel ∈ l → s.withdrawn q.channel = true →
    ∀ a ∈ t.engine.waiting ++ t.engine.flight, a.purpose ≠ .searchRead
  requests : ∀ d, .index d ∈ t.sheets.waiting → .index d ∈ s.sheets.waiting
  unasked : ∀ d ∈ l, s.withdrawn d = true → .index d ∉ t.sheets.waiting
  ended : ∀ card, Table.get s.cards.holdings card = none → Table.get t.cards.holdings card = none
  released : ∀ d ∈ l, s.withdrawn d = true → ∀ card, (s.row d).op = some (.opening (some card)) →
    Table.get t.cards.holdings card = none

theorem Winds.nil : Winds [] s s where
  rest := rfl
  orders := rfl
  answered _ h := h
  words := rfl
  others _ _ := rfl
  rows _ h := absurd h List.not_mem_nil
  engine := .refl
  queue := by simp
  search := by cases s.cards.search with
    | none => rfl
    | some q => exact (Option.filter_some_pos (by simp)).symm
  searchReads _ _ h := absurd h List.not_mem_nil
  requests _ h := h
  unasked _ h := absurd h List.not_mem_nil
  ended _ h := h
  released _ h := absurd h List.not_mem_nil

theorem Winds.cons {l : List Chan} (h : Winds [c] s u) (g : Winds l u t) (hc : c ∉ l) : Winds (c :: l) s t := by
  have hrow : ∀ d ∈ l, u.row d = s.row d := fun d hd => h.others d fun hm => hc (List.mem_singleton.1 hm ▸ hd)
  have hwithdrawn : ∀ d ∈ l, u.withdrawn d = s.withdrawn d := fun d hd => by
    rw [State.withdrawn, State.withdrawn, State.chanState, State.chanState, hrow d hd]
  have hboth : ∀ d, (!(decide (d ∈ [c]) && s.withdrawn d) && !(decide (d ∈ l) && u.withdrawn d)) =
      !(decide (d ∈ c :: l) && s.withdrawn d) := by
    intro d
    by_cases hd : d ∈ l
    · rw [hwithdrawn d hd, decide_eq_true hd, decide_eq_true (List.mem_cons_of_mem c hd),
        decide_eq_false (show d ∉ [c] from fun hm => hc (List.mem_singleton.1 hm ▸ hd))]
      rfl
    · rw [decide_eq_false hd, Bool.false_and, Bool.not_false, Bool.and_true]
      by_cases he : d = c
      · subst he
        rw [decide_eq_true (show d ∈ [d] from List.mem_cons_self), decide_eq_true (show d ∈ d :: l from List.mem_cons_self)]
      · rw [decide_eq_false (show d ∉ [c] from fun hm => he (List.mem_singleton.1 hm)),
          decide_eq_false (show d ∉ c :: l from fun hm => (List.mem_cons.1 hm).elim he hd)]
  refine ⟨?_, ?_, fun k hk => g.answered k (h.answered k hk), g.words.trans h.words, fun d hd => ?_, fun d hd => ?_,
    h.engine.trans g.engine, ?_, ?_, fun q hq hm hw => ?_, fun d hd => h.requests d (g.requests d hd), fun d hd hw => ?_,
    fun card hcard => g.ended card (h.ended card hcard), fun d hd hw card hop => ?_⟩
  · rw [g.rest, h.rest]
  · rw [g.orders, h.orders]
  · rw [g.others d fun hm => hd (List.mem_cons_of_mem c hm), h.others d fun hm => hd (List.mem_singleton.1 hm ▸ List.mem_cons_self)]
  · rcases List.mem_cons.1 hd with rfl | hd
    · rw [g.others _ hc]
      exact h.rows _ List.mem_cons_self
    · rw [← hrow d hd]
      exact g.rows d hd
  · rw [g.queue, h.queue, List.filter_filter]
    exact List.filter_congr fun d _ => (Bool.and_comm _ _).trans (hboth d)
  · rw [g.search, h.search, Option.filter_filter]
    exact congrArg (fun f => s.cards.search.filter f) (funext fun q => hboth q.channel)
  · rcases List.mem_cons.1 hm with rfl | hm
    · exact g.engine.absent rfl (h.searchReads q hq (List.mem_singleton.2 rfl) hw)
    · refine g.searchReads q ?_ hm ((hwithdrawn _ hm).trans hw)
      rw [h.search, hq]
      refine Option.filter_some_pos ?_
      rw [decide_eq_false (show q.channel ∉ [c] from fun he => hc (List.mem_singleton.1 he ▸ hm))]
      rfl
  · rcases List.mem_cons.1 hd with rfl | hd
    · exact fun hm => h.unasked d List.mem_cons_self hw (g.requests d hm)
    · exact g.unasked d hd ((hwithdrawn d hd).trans hw)
  · rcases List.mem_cons.1 hd with rfl | hd
    · exact g.ended card (h.released d List.mem_cons_self hw card hop)
    · exact g.released d hd ((hwithdrawn d hd).trans hw) card (by rw [hrow d hd]; exact hop)

/-! ### Each state of a channel -/

/-- A channel that is not IDLE winds down in its row, accesses and placement alone. -/
theorem Winds.ofRow (hst : (s.row c).ctx.state ≠ .idle)
    (hrest : u = { s with chans := u.chans, letters := u.letters, sheets := u.sheets, engine := u.engine })
    (ho : OtherRows c s u) (hr : RowWinds (s.row c) (u.row c)) (he : EngineWinds s.engine u.engine)
    (hw : ∀ q ∈ u.sheets.waiting, q ∈ s.sheets.waiting ∨ q = .take c) : Winds [c] s u := by
  have hnot : s.withdrawn c = false := by
    by_contra h
    exact hst (withdrawn_iff.1 (Bool.eq_true_of_not_eq_false h)).1
  have hkept : ∀ d, (!(decide (d ∈ [c]) && s.withdrawn d)) = true := by
    intro d
    by_cases hd : d = c
    · rw [hd, hnot, Bool.and_false]; rfl
    · rw [decide_eq_false (show d ∉ [c] from fun hm => hd (List.mem_singleton.1 hm))]; rfl
  have hfalse : ∀ d ∈ [c], s.withdrawn d = true → False := fun d hd h => by
    rw [List.mem_singleton.1 hd, hnot] at h
    exact Bool.false_ne_true h
  refine ⟨?_, ?_, fun k hk => ?_, ?_, fun d hd => ho d fun he => hd (List.mem_singleton.2 he), fun d hd => ?_, he, ?_, ?_,
    fun q _ hm hw' => (hfalse _ hm hw').elim, fun d hd => ?_, fun d hd h => (hfalse d hd h).elim, fun card hcard => ?_,
    fun d hd h => (hfalse d hd h).elim⟩
  · rw [hrest]
  · rw [hrest]
  · rw [hrest]; exact hk
  · rw [hrest]
  · rw [List.mem_singleton.1 hd]
    exact hr
  · rw [hrest, List.filter_eq_self.2 fun d _ => hkept d]
  · rw [hrest]
    cases s.cards.search with
    | none => rfl
    | some q => exact (Option.filter_some_pos (p := fun q : Search => !(decide (q.channel ∈ [c]) && s.withdrawn q.channel))
        (hkept q.channel)).symm
  · exact (hw _ hd).resolve_right nofun
  · rw [hrest]
    exact hcard

theorem RowWinds.of_state {r' : ChanRow} (h : r.ctx.state = .ready ∨ r.ctx.state = .recording ∨ r.ctx.state = .playing)
    (hr : r'.ctx.state = .busy .closing) : RowWinds r r' := by
  have hst : ∀ st, st ≠ .ready → st ≠ .recording → st ≠ .playing → r.ctx.state ≠ st := by
    rintro st h1 h2 h3 rfl
    rcases h with h | h | h
    · exact h1 h
    · exact h2 h
    · exact h3 h
  exact ⟨fun hu => absurd hu (hst _ nofun nofun nofun), fun hi => absurd hi (hst _ nofun nofun nofun), fun _ => hr, fun _ => hr,
    fun _ => hr, fun _ hb => absurd hb (hst _ nofun nofun nofun)⟩

theorem Winds.stays (h : (s.row c).ctx.state = .unbound ∨ ∃ sub, (s.row c).ctx.state = .busy sub) : Winds [c] s s := by
  have hst : ∀ st, st ≠ .unbound → (∀ sub, st ≠ .busy sub) → (s.row c).ctx.state ≠ st := by
    rintro st h1 h2 rfl
    rcases h with h | ⟨sub, h⟩
    · exact h1 h
    · exact h2 sub h
  refine .ofRow (hst _ nofun nofun) rfl (fun _ _ => rfl) ?_ .refl fun q hq => .inl hq
  exact ⟨id, fun hi => absurd hi (hst _ nofun nofun), fun hr => absurd hr (hst _ nofun nofun),
    fun hr => absurd hr (hst _ nofun nofun), fun hp => absurd hp (hst _ nofun nofun), fun _ _ => rfl⟩

theorem Winds.ready (h : (s.row c).ctx.state = .ready) : Winds [c] s (s.suspend c) := by
  have heq : s.suspend c = _ := (congrArg (fun v : State => v.suspend c) (setRow_row s c).symm).trans suspend_setRow
  rw [heq]
  refine .ofRow (by rw [h]; nofun) rfl (fun d hd => row_setRow_ne hd) (.of_state (.inl h) ?_) .refl fun q hq => .inl hq
  rw [row_setRow_self]

theorem Winds.playing (h : (s.row c).ctx.state = .playing) : Winds [c] s ((s.stopPlayback c).suspend c) := by
  have heq := congrArg (fun v : State => (v.stopPlayback c).suspend c) (setRow_row s c).symm
  simp only [stopPlayback_setRow, suspend_setRow] at heq
  rw [heq]
  refine .ofRow (by rw [h]; nofun) rfl (fun d hd => row_setRow_ne hd) (.of_state (.inr (.inr h)) ?_) .readsGone fun q hq => .inl hq
  rw [row_setRow_self]

theorem ofPlacement_ofQuiesce {a : Access} (h : a.ofPlacement = true) : a.purpose.ofQuiesce = true := by
  unfold Access.ofPlacement at h
  split at h
  · next hp => rw [hp]; rfl
  · next hp => rw [hp]; rfl
  · next hp => rw [hp]; rfl
  · exact absurd h Bool.false_ne_true

theorem Winds.recording (h : (s.row c).ctx.state = .recording) :
    Winds [c] s ((s.setRow c r).stopTake c .closing) := by
  have hstops := stopTake_stops s c r .closing
  obtain ⟨more, hmore, hall⟩ := (stopTake_places (s := s.setRow c r) (c := c) .closing).writes
  refine .ofRow (by rw [h]; nofun) hstops.rest hstops.others (.of_state (.inr (.inl h)) hstops.state)
    (.handedOver (s := s) (show HandedOver s _ more from hmore) fun a ha => ofPlacement_ofQuiesce (hall a ha)) hstops.requests

/-! ### An IDLE channel unbound -/

/-- What the answers of pending actions leave. -/
structure Answers (s t : State) : Prop where
  rest : t = { s with orders := t.orders, engine := t.engine }
  orders : t.orders = { s.orders with
    accepted := t.orders.accepted, finishedSet := t.orders.finishedSet, finishCounter := t.orders.finishCounter }
  answered : ∀ k : OrderSlot, s.orders.accepted[k] = none → t.orders.accepted[k] = none
  engine : EngineWinds s.engine t.engine

theorem finish_answers {code first second : Nat} : Answers s (s.finish k code first second) where
  rest := rfl
  orders := rfl
  answered j hj := by
    change (s.orders.accepted.set k none)[j] = none
    rw [Fin.getElem_fin, Vector.getElem_set]
    split
    · rfl
    · exact hj
  engine := .handedOver (s := s) (t := s.finish k code first second) rfl fun a ha => by
    rw [List.mem_singleton.1 ha]
    rfl

theorem Answers.trans (h : Answers s u) (g : Answers u t) : Answers s t where
  rest := by rw [g.rest, h.rest]
  orders := by rw [g.orders, h.orders]
  answered k hk := g.answered k (h.answered k hk)
  engine := h.engine.trans g.engine

theorem answer_answers {o : Option OrderSlot} {code first second : Nat} : Answers s (s.answer o code first second) := by
  cases o with
  | none => exact ⟨rfl, rfl, fun _ h => h, .refl⟩
  | some k => exact finish_answers

theorem outputsReleased_words (l : Vector OutputSlot 64) (slot : Option Timeslot) :
    (outputsReleased l slot).map OutputSlot.word = l.map OutputSlot.word := by
  refine Vector.ext fun i hi => ?_
  rw [Vector.getElem_map, Vector.getElem_map]
  have hget := outputsReleased_get l slot ⟨i, hi⟩
  rw [show (outputsReleased l slot)[i] = _ from hget]
  split <;> rfl

theorem searchAbandoned_absent : ∀ a ∈ s.searchAbandoned.engine.waiting ++ s.searchAbandoned.engine.flight,
    a.purpose ≠ .searchRead := by
  have hgiven : ∀ b : Access, (if b.purpose = .searchRead then { b with purpose := .abandonedRead .cards } else b).purpose ≠
      .searchRead := by
    intro b
    by_cases h : b.purpose = .searchRead
    · rw [if_pos h]; nofun
    · rwa [if_neg h]
  intro a ha
  rcases List.mem_append.1 ha with ha | ha
  · obtain ⟨b, -, rfl⟩ := List.mem_map.1 ha
    exact hgiven b
  · obtain ⟨b, -, rfl⟩ := List.mem_map.1 ha
    exact hgiven b

theorem Withdrawal.engineWinds (h : Withdrawal c s u) : EngineWinds s.engine u.engine := by
  by_cases hs : s.searched c
  · rw [h.engineGiven hs, ← abandon_search]
    exact .abandoned fun _ => rfl
  · rw [h.engineKept hs]
    exact .refl

theorem Winds.idle (h : (s.row c).ctx.state = .idle) : Winds [c] s (s.unbind c 0 0) := by
  obtain ⟨u, heq, hframe, hw⟩ := unbind_eq s c 0 0
  have hans : Answers (s.unbinding u c) (s.unbind c 0 0) := by
    rw [heq]
    exact answer_answers.trans answer_answers
  generalize s.unbind c 0 0 = t at *
  obtain ⟨x, y, z, rfl⟩ : ∃ x y z, u = { s with cards := x, sheets := y, engine := z } := ⟨_, _, _, hframe⟩
  obtain ⟨o, e, rfl⟩ : ∃ o e, t = { s.unbinding { s with cards := x, sheets := y, engine := z } c with
    orders := o, engine := e } := ⟨_, _, hans.rest⟩
  have hrow : ((s.unbinding { s with cards := x, sheets := y, engine := z } c).row c).ctx = Context.reset :=
    (congrArg ChanRow.ctx row_setRow_self).trans rfl
  have hasks : s.withdrawn c = true ↔ (s.row c).ctx.openRequest ≠ none := withdrawn_iff.trans (and_iff_right h)
  have hkept : s.withdrawn c = false → ¬ (s.row c).ctx.openRequest ≠ none := fun hn hy => by
    rw [hasks.2 hy] at hn
    exact Bool.false_ne_true hn.symm
  refine ⟨rfl, hans.orders, hans.answered, outputsReleased_words .., fun d hd => row_setRow_ne (mt List.mem_singleton.2 hd),
    fun d hd => ?_, hw.engineWinds.trans hans.engine, ?_, ?_, fun q hq hm hy => ?_, fun d hd => ?_, fun d hd hy => ?_,
    fun card hcard => ?_, fun d hd hy card hop => ?_⟩
  · cases List.mem_singleton.1 hd
    exact ⟨fun hu => absurd (hu.symm.trans h) nofun, fun _ => hrow, fun hr => absurd (hr.symm.trans h) nofun,
      fun hr => absurd (hr.symm.trans h) nofun, fun hp => absurd (hp.symm.trans h) nofun,
      fun _ hb => absurd (hb.symm.trans h) nofun⟩
  · change x.openQueue = _
    have hmem : ∀ d, (!(decide (d ∈ [c]) && s.withdrawn d)) = !(decide (d = c) && s.withdrawn c) := fun d => by
      by_cases hd : d = c
      · rw [hd, decide_eq_true (List.mem_singleton.2 rfl), decide_eq_true rfl]
      · rw [decide_eq_false (mt List.mem_singleton.1 hd), decide_eq_false hd]
        rfl
    simp only [hmem]
    cases hb : s.withdrawn c with
    | true =>
      rw [show x.openQueue = _ from (hw.taken (hasks.1 hb)).1]
      exact List.filter_congr fun d _ => by rw [Bool.and_true, decide_not]
    | false =>
      rw [show x = _ from (hw.kept (hkept hb)).1]
      exact (List.filter_eq_self.2 fun d _ => by rw [Bool.and_false]; rfl).symm
  · change x.search = _
    cases hb : s.withdrawn c with
    | true =>
      rw [show x.search = _ from (hw.taken (hasks.1 hb)).2.1]
      cases hq : s.cards.search with
      | none => rfl
      | some q =>
        by_cases hc : q.channel = c
        · rw [Option.map_some, if_pos (congrArg some hc)]
          exact (Option.filter_some_neg (p := fun q : Search => !(decide (q.channel ∈ [c]) && s.withdrawn q.channel))
            (by rw [hc, hb, decide_eq_true (List.mem_singleton.2 rfl)]; rfl)).symm
        · rw [Option.map_some, if_neg (fun he => hc (Option.some.inj he))]
          exact (Option.filter_some_pos (p := fun q : Search => !(decide (q.channel ∈ [c]) && s.withdrawn q.channel))
            (by rw [decide_eq_false (mt List.mem_singleton.1 hc)]; rfl)).symm
    | false =>
      rw [show x = _ from (hw.kept (hkept hb)).1]
      cases hq : s.cards.search with
      | none => rfl
      | some q =>
        refine (Option.filter_some_pos (p := fun q : Search => !(decide (q.channel ∈ [c]) && s.withdrawn q.channel)) ?_).symm
        by_cases hc : q.channel = c
        · rw [hc, hb, Bool.and_false]; rfl
        · rw [decide_eq_false (mt List.mem_singleton.1 hc)]; rfl
  · cases List.mem_singleton.1 hm
    have hgiven : z = s.searchAbandoned.engine :=
      hw.engineGiven ((searched_iff (hasks.1 hy)).2 (congrArg (Option.map Search.channel) hq))
    refine hans.engine.absent rfl ?_
    change ∀ b ∈ z.waiting ++ z.flight, _
    rw [hgiven]
    exact searchAbandoned_absent
  · change _ ∈ y.waiting at hd
    cases hb : s.withdrawn c with
    | true =>
      rw [show y = _ from (hw.taken (hasks.1 hb)).2.2.1] at hd
      exact List.mem_of_mem_filter hd
    | false =>
      rw [show y = _ from (hw.kept (hkept hb)).2] at hd
      exact hd
  · cases List.mem_singleton.1 hd
    change _ ∉ y.waiting
    rw [show y = _ from (hw.taken (hasks.1 hy)).2.2.1]
    exact fun hm => of_decide_eq_true (List.mem_filter.1 hm).2 rfl
  · exact hw.ended card hcard
  · cases List.mem_singleton.1 hd
    exact ((hw.taken (hasks.1 hy)).2.2.2 card hop).holding

/-! ### All channels wound down -/

theorem Winds.actClose : Winds [c] s (s.actClose c) := by
  cases h : (s.row c).ctx.state with
  | unbound =>
    rw [show s.actClose c = s by simp only [State.actClose, State.chanState, h]]
    exact .stays (.inl h)
  | idle =>
    rw [show s.actClose c = s.unbind c 0 0 by simp only [State.actClose, State.chanState, h]]
    exact .idle h
  | ready =>
    rw [show s.actClose c = s.suspend c by simp only [State.actClose, State.chanState, h]]
    exact .ready h
  | recording =>
    rw [show s.actClose c = ((s.modCtx c fun x => { x with keys := [] }).stopTake c .closing) by
      simp only [State.actClose, State.chanState, h]]
    exact .recording (r := { s.row c with ctx := { (s.row c).ctx with keys := [] } }) h
  | playing =>
    rw [show s.actClose c = (s.stopPlayback c).suspend c by simp only [State.actClose, State.chanState, h]]
    exact .playing h
  | busy sub =>
    rw [show s.actClose c = s by simp only [State.actClose, State.chanState, h]]
    exact .stays (.inr ⟨sub, h⟩)

theorem Winds.all : ∀ {l : List Chan} {s : State}, l.Nodup → Winds l s (l.foldl State.actClose s)
  | [], _, _ => .nil
  | c :: l, s, h => by
    obtain ⟨hc, hl⟩ := List.nodup_cons.1 h
    rw [List.foldl_cons]
    exact Winds.actClose.cons (Winds.all hl) hc

/-! ### The renders of the queue (R147) -/

/-- The answer to a render in waiting, at its place among the queue's answers. -/
def cancelledWrite (s : State) (k : OrderSlot) (i : Nat) : Access :=
  writeOf .orderUnit (.finishResult k) ((s.base + (0x800 + 64 * k.val + 0x30)) % 2 ^ 64)
    (bytesOf 4 2 ++ bytesOf 4 0 ++ bytesOf 4 0 ++ bytesOf 4 (s.orders.finishCounter + BitVec.ofNat 32 (i + 1)).toNat)

/-- What the answers to the renders in waiting leave. -/
structure Cancelled (l : List OrderSlot) (s t : State) : Prop where
  rest : t = { s with orders := t.orders, engine := t.engine }
  orders : t.orders = { s.orders with
    accepted := t.orders.accepted, finishedSet := t.orders.finishedSet, finishCounter := t.orders.finishCounter }
  gone : ∀ k ∈ l, t.orders.accepted[k] = none
  kept : ∀ k, k ∉ l → t.orders.accepted[k] = s.orders.accepted[k]
  engine : HandedOver s t (l.mapIdx fun i k => cancelledWrite s k i)

theorem cancelled_all : ∀ {l : List OrderSlot} {s : State},
    Cancelled l s (l.foldl (fun t k => t.finish k codeCancelled 0 0) s)
  | [], s => ⟨rfl, rfl, fun _ h => absurd h List.not_mem_nil, fun _ _ => rfl, HandedOver.refl s⟩
  | k :: l, s => by
    have ih := cancelled_all (l := l) (s := s.finish k codeCancelled 0 0)
    have hset : ∀ j : OrderSlot, (s.finish k codeCancelled 0 0).orders.accepted[j] = if j = k then none else s.orders.accepted[j] := by
      intro j
      change (s.orders.accepted.set k none)[j] = _
      rw [Fin.getElem_fin, Vector.getElem_set]
      by_cases h : k = j
      · rw [h, if_pos rfl, if_pos rfl]
      · rw [if_neg fun he => h (Fin.ext he), if_neg (Ne.symm h)]
        rfl
    rw [List.foldl_cons]
    refine ⟨ih.rest.trans rfl, ih.orders.trans rfl, fun j hj => ?_, fun j hj => ?_, ?_⟩
    · by_cases hjl : j ∈ l
      · exact ih.gone j hjl
      · rw [ih.kept j hjl, hset, if_pos ((List.mem_cons.1 hj).resolve_right hjl)]
    · rw [ih.kept j fun h => hj (List.mem_cons_of_mem k h), hset, if_neg fun h : j = k => hj (h ▸ List.mem_cons_self)]
    · have hfirst : HandedOver s (s.finish k codeCancelled 0 0) [cancelledWrite s k 0] := by
        simp only [HandedOver, State.finish, State.finishBy, State.sendWrite, State.handOver, codeCancelled,
          resultBytes_eq (show 2 < 256 by decide)]
        rfl
      have hall := hfirst.trans ih.engine
      rw [List.mapIdx_cons]
      have hnext : ∀ j i, cancelledWrite (s.finish k codeCancelled 0 0) j i = cancelledWrite s j (i + 1) := by
        intro j i
        have hnumber : s.orders.finishCounter + 1#32 + BitVec.ofNat 32 (i + 1) =
            s.orders.finishCounter + BitVec.ofNat 32 (i + 1 + 1) := by
          rw [BitVec.add_assoc, BitVec.add_comm 1#32, ← BitVec.ofNat_add]
        rw [cancelledWrite, cancelledWrite, ← hnumber]
        rfl
      simp only [hnext] at hall
      exact hall

end Sys2Proof.Machine
end

section
/-! PROOFS. ENABLE cleared in RUNNING: the sweep cut, the renders stopped, and every channel wound down. -/

namespace Sys2Proof.Machine

open Sys2Proof

variable {s t u v : State} {c d : Chan} {r : ChanRow} {k : OrderSlot}

/-! ### Reads given up (R131, R154) -/

theorem abandon_absent {kind : Purpose → Bool} (hk : ∀ x, kind (.abandonedRead x) = false) :
    ∀ a ∈ (s.abandon kind).engine.waiting ++ (s.abandon kind).engine.flight, kind a.purpose = false := by
  have hgiven : ∀ b : Access, kind (if kind b.purpose then { b with purpose := .abandonedRead b.purpose.area } else b).purpose =
      false := by
    intro b
    by_cases h : kind b.purpose = true
    · rw [if_pos h]
      exact hk _
    · rw [if_neg h]
      exact Bool.eq_false_of_not_eq_true h
  intro a ha
  rcases List.mem_append.1 ha with ha | ha
  · obtain ⟨b, -, rfl⟩ := List.mem_map.1 ha
    exact hgiven b
  · obtain ⟨b, -, rfl⟩ := List.mem_map.1 ha
    exact hgiven b

/-- The reads that a sweep has asked for. -/
def Purpose.ofSweep (p : Purpose) : Bool :=
  match p with
  | .slotRead _ | .orderCardRead => true
  | _ => false

theorem cutSweep_engine : EngineWinds s.engine s.cutSweep.engine ∧
    ∀ a ∈ s.cutSweep.engine.waiting ++ s.cutSweep.engine.flight, a.purpose.ofSweep = false := by
  have hcut : s.cutSweep.engine = (s.abandon Purpose.ofSweep).engine := rfl
  rw [hcut]
  exact ⟨.abandoned fun _ => rfl, abandon_absent fun _ => rfl⟩

/-- The reads that a render has asked for. -/
def Purpose.ofRender (p : Purpose) : Bool :=
  match p with
  | .renderCardRead _ | .renderIndexRead | .renderRecordRead .. => true
  | _ => false

theorem dropRenderReads_eq (s : State) : s.dropRenderReads = s.abandon Purpose.ofRender := rfl

/-! ### The render stopped (R155) -/

/-- What the stop of the render asked for leaves. -/
structure RenderStops (s t : State) : Prop where
  rest : t = { s with render := t.render, engine := t.engine }
  engine : EngineWinds s.engine t.engine
  active : ∀ x, s.render = some x → t.render = some x.stopped ∧
    ∀ a ∈ t.engine.waiting ++ t.engine.flight, a.purpose.ofRender = false
  fresh : ∀ k more o, s.render = none → s.orders.renders = k :: more → s.orders.accepted[k] = some (.render o) →
    t.render = some (freshRender k o).stopped

theorem stopRender_stops (s : State) : RenderStops s s.stopRender := by
  cases hx : s.render with
  | some x =>
    have heq : s.stopRender = { s.dropRenderReads with render := some x.stopped } := by
      simp only [State.stopRender, hx]
    rw [heq, dropRenderReads_eq]
    refine ⟨rfl, .abandoned fun _ => rfl, fun y hy => ?_, fun _ _ _ hn => absurd (hx.symm.trans hn) nofun⟩
    cases Option.some.inj (hx.symm.trans hy)
    exact ⟨rfl, abandon_absent fun _ => rfl⟩
  | none =>
    have hframe : ∃ y, s.stopRender = { s with render := y } ∧ ∀ k more o, s.orders.renders = k :: more →
        s.orders.accepted[k] = some (.render o) → y = some (freshRender k o).stopped := by
      simp only [State.stopRender, hx]
      split
      · next h => exact absurd h nofun
      · next k l _ hr =>
        split
        · next o ho =>
          refine ⟨_, rfl, fun j more o' hj ho' => ?_⟩
          obtain ⟨rfl, rfl⟩ := List.cons.inj (hr.symm.trans hj)
          cases Option.some.inj (ho.symm.trans ho')
          rfl
        · next hno =>
          refine ⟨s.render, rfl, fun j more o' hj ho' => ?_⟩
          obtain ⟨rfl, rfl⟩ := List.cons.inj (hr.symm.trans hj)
          exact absurd ho' (hno o')
      · next hr => exact ⟨s.render, rfl, fun j more o' hj _ => absurd (hr.symm.trans hj) nofun⟩
    obtain ⟨y, hy, hfresh⟩ := hframe
    rw [hy]
    exact ⟨rfl, .refl, fun x hs => absurd (hx.symm.trans hs) nofun, fun k more o _ => hfresh k more o⟩

/-- What quiesce leaves of the renders. -/
structure RendersQuiesce (s t : State) : Prop where
  rest : t = { s with orders := t.orders, engine := t.engine, render := t.render }
  orders : t.orders = { s.orders with
    renders := s.orders.renders.take 1, accepted := t.orders.accepted, finishedSet := t.orders.finishedSet,
    finishCounter := t.orders.finishCounter }
  gone : ∀ k ∈ s.orders.renders.drop 1, t.orders.accepted[k] = none
  engine : EngineWinds s.engine t.engine
  answers : ∀ i k, (s.orders.renders.drop 1)[i]? = some k → cancelledWrite s k i ∈ t.engine.waiting
  active : ∀ x, s.orders.renders ≠ [] → s.render = some x → t.render = some x.stopped ∧
    ∀ a ∈ t.engine.waiting ++ t.engine.flight, a.purpose.ofRender = false
  fresh : ∀ k more o, s.orders.renders = k :: more → k ∉ more → s.render = none →
    s.orders.accepted[k] = some (.render o) → t.render = some (freshRender k o).stopped

theorem quiesceRenders_quiesce (s : State) : RendersQuiesce s s.quiesceRenders := by
  cases hr : s.orders.renders with
  | nil =>
    have heq : s.quiesceRenders = s := by rw [State.quiesceRenders, hr]
    rw [heq]
    refine ⟨rfl, by rw [hr, List.take_nil, ← hr], fun k hk => ?_, .refl, fun i k hk => ?_, fun _ hne => absurd hr hne,
      fun k more o hk => absurd (hr.symm.trans hk) nofun⟩
    · rw [hr] at hk
      exact absurd hk List.not_mem_nil
    · rw [hr] at hk
      exact absurd hk nofun
  | cons first rest =>
    obtain ⟨x, heq, hcancelled⟩ : ∃ x, s.quiesceRenders = x.stopRender ∧
        Cancelled rest { s with orders := { s.orders with renders := [first] } } x :=
      ⟨_, by rw [State.quiesceRenders, hr], cancelled_all⟩
    rw [heq]
    have hstops := stopRender_stops x
    generalize x.stopRender = t at *
    have hover : HandedOver s x (rest.mapIdx fun i k => cancelledWrite s k i) := hcancelled.engine
    have hwinds : EngineWinds s.engine x.engine := .handedOver hover fun a ha => by
      obtain ⟨i, hi, rfl⟩ := List.mem_mapIdx.1 ha
      rfl
    have horders : t.orders = x.orders := by rw [hstops.rest]
    have hrender : x.render = s.render := by rw [hcancelled.rest]
    have hqueue : x.orders.renders = [first] := by rw [hcancelled.orders]
    refine ⟨?_, ?_, fun k hk => ?_, hwinds.trans hstops.engine, fun i k hk => ?_, fun y _ hy => hstops.active y (hrender.trans hy),
      fun k more o hk hmore hn ho => ?_⟩
    · rw [hstops.rest, hcancelled.rest]
    · rw [horders, hcancelled.orders, hr]
      rfl
    · rw [horders]
      rw [hr] at hk
      exact hcancelled.gone k hk
    · rw [hr] at hk
      have hmem : cancelledWrite s k i ∈ x.engine.waiting := by
        rw [show x.engine = _ from hover]
        refine List.mem_append_right _ (List.mem_mapIdx.2 ?_)
        obtain ⟨hlt, rfl⟩ := List.getElem?_eq_some_iff.1 hk
        exact ⟨i, hlt, rfl⟩
      exact hstops.engine.kept _ hmem k rfl
    · obtain ⟨rfl, rfl⟩ := List.cons.inj (hr.symm.trans hk)
      exact hstops.fresh first [] o (hrender.trans hn) hqueue ((hcancelled.kept first hmore).trans ho)

/-! ### ENABLE cleared -/

theorem stopped_draining {x : RenderContext} (h : x.stage ≠ .output ∨ x.decode = none) :
    x.stopped.stage = .draining ∧ x.stopped.decode = none := by
  unfold RenderContext.stopped
  split
  · next hs =>
    have hd : x.decode = none := h.resolve_left fun hne => hne hs
    split
    · next y hy => exact absurd (hd.symm.trans hy) nofun
    · exact ⟨rfl, hd⟩
  · exact ⟨rfl, rfl⟩

theorem stopped_output {x : RenderContext} {y : Decode} (hs : x.stage = .output) (hd : x.decode = some y) :
    x.stopped.stage = .output ∧ x.stopped.decode = some { y with tail := if y.inTail then y.tail else 0 } := by
  simp [RenderContext.stopped, hs, hd]

theorem stopped_slot (x : RenderContext) : x.stopped.slot = x.slot := by
  unfold RenderContext.stopped
  split
  · split <;> rfl
  · rfl

theorem stopped_order (x : RenderContext) : x.stopped.order = x.order := by
  unfold RenderContext.stopped
  split
  · split <;> rfl
  · rfl

theorem stopped_truncated (x : RenderContext) : x.stopped.truncated = x.truncated := by
  unfold RenderContext.stopped
  split
  · split <;> rfl
  · rfl

/-- Settles O6: the sweep cut, the renders answered and stopped, then each channel wound down in its turn. -/
theorem enableClearBeginsQuiesce : Obligations.EnableClearBeginsQuiesce := by
  unfold Obligations.EnableClearBeginsQuiesce
  intro s v hrun henable hsoft hbit withdrawn
  let b : State := { s with regs := { s.regs with enable := false, intEnable := intEnableBit v, part := .quiescing } }
  have hexec : exec (.enableClear v) s = .next (s.report
      ({ s with regs := { s.regs with enable := false, intEnable := intEnableBit v } } : State).beginQuiesce) := by
    change Host.Outcome.next (s.writeControl v) = _
    rw [State.writeControl, if_neg (by rw [hsoft]; exact Bool.false_ne_true)]
    dsimp only
    rw [if_neg (fun h => absurd (hrun.symm.trans h.1) (by decide)),
      if_pos ⟨hrun, henable, by rw [hbit]; exact Bool.false_ne_true⟩, hbit]
  have hcut := cutSweep_engine (s := b)
  have hrenders := quiesceRenders_quiesce b.cutSweep
  have hwinds := Winds.all (s := b.cutSweep.quiesceRenders) (List.nodup_finRange 32)
  obtain ⟨x, hx⟩ : ∃ x, ({ s with regs := { s.regs with enable := false, intEnable := intEnableBit v } } : State).beginQuiesce = x ∧
      Winds (List.finRange 32) b.cutSweep.quiesceRenders x := ⟨_, rfl, hwinds⟩
  obtain ⟨hx, hw⟩ := hx
  clear hwinds
  rw [hx] at hexec
  obtain ⟨d, hd⟩ := report_eq_desk s x
  rw [hd] at hexec
  generalize b.cutSweep.quiesceRenders = q at *
  have hrows : ∀ c, q.row c = s.row c := fun c => by rw [hrenders.rest]; rfl
  have hstates : ∀ c, q.withdrawn c = withdrawn c := fun c => by
    rw [State.withdrawn, State.chanState, hrows]
    rfl
  have hcards : q.cards = s.cards := by rw [hrenders.rest]; rfl
  have hall : ∀ c : Chan, decide (c ∈ List.finRange 32) = true := fun c => decide_eq_true (List.mem_finRange c)
  have hengine : EngineWinds b.cutSweep.engine x.engine := hrenders.engine.trans hw.engine
  have hsweep : ∀ p : Purpose, p.ofSweep = true → ∀ a ∈ x.engine.waiting ++ x.engine.flight, a.purpose ≠ p := by
    intro p hp
    refine hengine.absent ?_ fun e he hep => ?_
    · cases p with
      | slotRead => rfl
      | orderCardRead => rfl
      | _ => exact absurd hp Bool.false_ne_true
    · have hfalse := hcut.2 e he
      rw [hep, hp] at hfalse
      exact Bool.false_ne_true hfalse.symm
  have hrender : ∀ y, s.orders.renders ≠ [] → s.render = some y → x.render = some y.stopped ∧
      ∀ p : Purpose, p.ofRender = true → ∀ a ∈ x.engine.waiting ++ x.engine.flight, a.purpose ≠ p := by
    intro y hne hy
    obtain ⟨h1, h2⟩ := hrenders.active y hne hy
    refine ⟨(congrArg State.render hw.rest).trans h1, fun p hp => hw.engine.absent ?_ fun e he hep => ?_⟩
    · cases p with
      | renderCardRead => rfl
      | renderIndexRead => rfl
      | renderRecordRead => rfl
      | _ => exact absurd hp Bool.false_ne_true
    · have hfalse := h2 e he
      rw [hep, hp] at hfalse
      exact Bool.false_ne_true hfalse.symm
  refine ⟨_, hexec, ?_, ?_, ?_, ?_, fun a ha => ⟨hsweep _ rfl a ha, fun last => hsweep _ rfl a ha⟩, ?_, fun k hk => ?_,
    fun i k hk => ?_, fun y hne hy => ?_, fun k more o hk hmore hn ho => ?_, ?_, fun e he => ?_, fun e he hwd => ?_, fun c hc => ?_,
    ?_, ?_, ?_, fun c => ?_⟩
  · exact (congrArg State.regs hw.rest).trans (show q.regs = b.regs by rw [hrenders.rest]; rfl)
  · exact (congrArg OrderUnit.sweep hw.orders).trans (congrArg OrderUnit.sweep hrenders.orders)
  · exact (congrArg OrderUnit.again hw.orders).trans (congrArg OrderUnit.again hrenders.orders)
  · exact (congrArg OrderUnit.image hw.orders).trans (congrArg OrderUnit.image hrenders.orders)
  · exact (congrArg OrderUnit.renders hw.orders).trans (congrArg OrderUnit.renders hrenders.orders)
  · exact hw.answered k (hrenders.gone k hk)
  · exact hw.engine.kept _ (hrenders.answers i k hk) k rfl
  · obtain ⟨hstopped, hreads⟩ := hrender y hne hy
    obtain ⟨h1, h2, h3, h4, h5, -, -⟩ := stopped_fields y
    refine ⟨⟨y.stopped, hstopped, h1, h2, stopped_slot y, stopped_order y, h3, h4, h5, stopped_truncated y, stopped_draining,
      fun z hs hz => stopped_output hs hz⟩, fun a ha => ⟨hreads _ rfl a ha, fun last => hreads _ rfl a ha,
        fun n i => hreads _ rfl a ha⟩⟩
  · exact ⟨_, (congrArg State.render hw.rest).trans (hrenders.fresh k more o hk hmore hn ho), rfl, rfl, rfl, rfl, rfl, rfl, rfl⟩
  · refine hw.queue.trans ?_
    rw [hcards]
    exact List.filter_congr fun c _ => by rw [hall, Bool.true_and, hstates]
  · refine hw.search.trans ?_
    rw [hcards, he]
    have hmark : (!(decide (e.channel ∈ List.finRange 32) && q.withdrawn e.channel)) = !withdrawn e.channel := by
      rw [hall, Bool.true_and, hstates]
    cases hb : withdrawn e.channel with
    | true =>
      exact Option.filter_some_neg (p := fun e : Search => !(decide (e.channel ∈ List.finRange 32) && q.withdrawn e.channel))
        (by rw [hmark, hb]; rfl)
    | false =>
      exact Option.filter_some_pos (p := fun e : Search => !(decide (e.channel ∈ List.finRange 32) && q.withdrawn e.channel))
        (by rw [hmark, hb]; rfl)
  · exact hw.searchReads e (by rw [hcards]; exact he) (List.mem_finRange _) ((hstates _).trans hwd)
  · have hwd := (hstates c).trans hc
    exact ⟨hw.unasked c (List.mem_finRange c) hwd, fun card hop => hw.released c (List.mem_finRange c) hwd card (by
      rw [hrows]; exact hop)⟩
  · exact (congrArg State.written hw.rest).trans (show q.written = b.written by rw [hrenders.rest]; rfl)
  · exact (congrArg State.msi hw.rest).trans (show q.msi = b.msi by rw [hrenders.rest]; rfl)
  · refine hw.words.trans ?_
    rw [show q.outputs = s.outputs by rw [hrenders.rest]; rfl]
  · have hrow := hw.rows c (List.mem_finRange c)
    rw [hrows] at hrow
    exact ⟨hrow.unbound, hrow.idle, hrow.ready, hrow.recording, hrow.playing, hrow.busy⟩

end Sys2Proof.Machine
end

section
/-! PROOFS. The card unit: the stages of a checkpoint. -/

namespace Sys2Proof.Machine

open Sys2Proof

variable {s t u : State} {c : Chan} {r : ChanRow} {l : OpenLetter} {k : Card}

/-! ### Shared operations of the card unit -/

theorem letterImage_some (hl : (s.row c).ctx.letter = some l) (hk : Table.get s.cards.images l.card = some k) :
    s.letterImage c = some (l, k) := by
  rw [State.letterImage, hl]
  change (Table.get s.cards.images l.card).map _ = _
  rw [hk]
  rfl

theorem writeCard_eq (s : State) (card : Nat) (image : Card) (ends : CardWrite) : s.writeCard card image ends = { s with
    engine := { s.engine with waiting := s.engine.waiting ++ bodyWrites s.setup card image ends } } := by
  have hengine : s.engine.waiting ++ bodyWrites s.setup card image ends = s.engine.waiting ++
      (bodyWrites s.setup card image ends).take 1 ++ ((bodyWrites s.setup card image ends).drop 1).take 1 ++
      (bodyWrites s.setup card image ends).drop 2 := by
    simp only [List.append_assoc]
    rfl
  rw [hengine]
  rfl

theorem setStage_eq {op : CardOp} {stage : OpStage} (h : (s.row c).op = some op) :
    s.setStage c stage = s.setRow c { s.row c with op := some (op.at stage) } := by
  rw [State.setStage, State.modRow, h]
  rfl

theorem works_active (h : s.regs.part = .running ∨ s.regs.part = .quiescing) : s.works = true := by
  rcases h with h | h <;> simp [State.works, h]

/-! ### The stages (R101) -/

/-- The index lines of a checkpoint from a line on. -/
def indexWrites (p : Setup) (c : Chan) (sheet : Nat) (spans : List Span) (n line : Nat) : List Access :=
  (List.range n).map fun i => writeOf .cardUnit (.indexWrite c (i + 1 == n))
    ((p.poolBase + (8192 * sheet + 64 * (line + i))) % 2 ^ 64) (indexLineBytes spans (line + i))

theorem indexWrites_succ (p : Setup) (sheet : Nat) (spans : List Span) (n line : Nat) :
    indexWrites p c sheet spans (n + 1) line =
      writeOf .cardUnit (.indexWrite c (n == 0)) ((p.poolBase + (8192 * sheet + 64 * line)) % 2 ^ 64)
        (indexLineBytes spans line) :: indexWrites p c sheet spans n (line + 1) := by
  rw [indexWrites, List.range_succ_eq_map, List.map_cons, List.map_map]
  have hlast : (0 + 1 == n + 1) = (n == 0) := by
    rw [Bool.eq_iff_iff]
    simp only [beq_iff_eq]
    omega
  rw [hlast]
  refine congrArg (_ :: ·) (List.map_congr_left fun i _ => ?_)
  have hi : line + (i + 1) = line + 1 + i := by omega
  simp only [Function.comp_apply, Nat.succ_eq_add_one, hi]
  have hb : (i + 1 + 1 == n + 1) = (i + 1 == n) := by
    rw [Bool.eq_iff_iff]
    simp only [beq_iff_eq]
    omega
  rw [hb]

theorem writeIndex_eq {sheet : Nat} {spans : List Span} {n : Nat} : ∀ {line : Nat} {s : State},
    State.writeIndex c sheet spans n line s = { s with
      engine := { s.engine with waiting := s.engine.waiting ++ indexWrites s.setup c sheet spans n line } } := by
  induction n with
  | zero =>
    intro line s
    rw [State.writeIndex, show indexWrites s.setup c sheet spans 0 line = [] from rfl, List.append_nil]
  | succ n ih =>
    intro line s
    rw [State.writeIndex, ih, indexWrites_succ, List.append_cons]
    rfl

/-- The image that a checkpoint leaves. -/
def State.figures (s : State) (c : Chan) (l : OpenLetter) (k : Card) : Card :=
  checkpointImage k l (s.row c).spanList s.letters.records

theorem writeValid_eq {op : CardOp} (hl : (s.row c).ctx.letter = some l) (hk : Table.get s.cards.images l.card = some k)
    (hop : (s.row c).op = some op) : s.writeValid c =
      State.setRow { s with
        cards := { s.cards with images := Table.put s.cards.images l.card (s.figures c l k) },
        engine := { s.engine with
          waiting := s.engine.waiting ++ bodyWrites s.setup l.card (s.figures c l k) (.checkpoint c) } } c
        { s.row c with op := some (op.at .valid) } := by
  rw [State.writeValid, letterImage_some hl hk]
  dsimp only
  rw [setStage_eq (s := s.setImage l.card _) hop, writeCard_eq]
  rfl

theorem exec_cardBodyWritten {a : Access} {rest : List Access} {card : Nat} {first : List Byte} {ends : CardWrite}
    (hdue : Due s .cardUnit a rest) (ha : a.purpose = .cardBody card first ends true) :
    exec .cardBodyWritten s = done s ((s.landed rest).writeFirst card first ends) := by
  refine congrArg (done s) ((onComplete_due hdue (by rw [ha])).trans ?_)
  rw [ha]

theorem writeFirst_plain {card : Nat} {first : List Byte} {ends : CardWrite} (h : ∀ d, ends ≠ .discarded d) :
    s.writeFirst card first ends = s.sendWrite .cardUnit (.cardFirst card ends) (cardLineAddress s.setup card 0) first := by
  cases ends with
  | discarded d => exact absurd rfl (h d)
  | plain => rfl
  | checkpoint => rfl
  | filed => rfl
  | suspended => rfl

/-- Settles O47: the three stages, and the first line behind the body. -/
theorem checkpointRunsInStages : Obligations.CheckpointRunsInStages := by
  unfold Obligations.CheckpointRunsInStages
  intro s c l k op hl hk hop spans lines image moved
  have hreports : ∀ stage, (s.setRow c { s.row c with op := some (op.at stage) }).reports = s.reports :=
    fun _ => reports_setRow rfl
  refine ⟨?_, ?_⟩
  · intro hpart hdrained hidle hstage
    have hat : (s.row c).atStage .draining = true := by
      rw [ChanRow.atStage, hop]
      rcases hstage with rfl | ⟨b, rfl⟩ | rfl <;> rfl
    have hexec : exec (.checkpointBegin c) s = done s (s.beginCheckpoint c) :=
      congrArg (done s) (if_pos ⟨works_active hpart, hat, hdrained⟩)
    rw [State.beginCheckpoint, letterImage_some hl hk] at hexec
    dsimp only at hexec
    rw [if_neg (by rw [hidle]; nofun), setStage_eq (s := s.setImage l.card _) hop] at hexec
    refine ⟨_, hexec.trans (done_same (hreports .writing)), rfl, ?_⟩
    exact ⟨row_setRow_self, fun d hd => row_setRow_ne hd, rfl⟩
  intro a rest hdue
  have hvalid : ∀ i, exec i s = done s ((s.landed rest).writeValid c) → ∃ t, exec i s = .next t ∧
      HandedOver (s.landed rest) t (bodyWrites s.setup l.card image (.checkpoint c)) ∧ moved (s.landed rest) t .valid image := by
    intro i hi
    rw [writeValid_eq (s := s.landed rest) hl hk hop] at hi
    refine ⟨_, hi.trans (done_same (hreports .valid)), rfl, ?_⟩
    exact ⟨row_setRow_self, fun d hd => row_setRow_ne hd, rfl⟩
  have hwritten : a.purpose = .cardWriting c → exec (.checkpointWritingWritten c) s = done s ((s.landed rest).indexStage c) :=
    fun ha => congrArg (done s) (onComplete_due hdue (by rw [ha]; exact beq_self_eq_true _))
  refine ⟨?_, ?_, ?_, ?_⟩
  · intro ha hspans
    have hexec := hwritten ha
    rw [State.indexStage, letterImage_some (s := s.landed rest) hl hk] at hexec
    dsimp only at hexec
    rw [if_neg (by simpa using hspans), setStage_eq (s := s.landed rest) hop, writeIndex_eq] at hexec
    refine ⟨_, hexec.trans (done_same (hreports .index)), ?_, row_setRow_self,
      fun d hd => row_setRow_ne hd, rfl⟩
    simp only [HandedOver, indexWrites, Nat.zero_add]
    rfl
  · intro ha hspans
    have hexec := hwritten ha
    rw [State.indexStage, letterImage_some (s := s.landed rest) hl hk] at hexec
    dsimp only at hexec
    rw [if_pos (by exact (List.isEmpty_iff.2 hspans))] at hexec
    exact hvalid _ hexec
  · intro ha
    exact hvalid _ (congrArg (done s) (onComplete_due hdue (by rw [ha]; exact beq_self_eq_true _)))
  · intro card first ends ha hends
    have hexec := exec_cardBodyWritten hdue ha
    rw [writeFirst_plain hends] at hexec
    exact ⟨_, hexec.trans (done_same rfl), rfl, rfl⟩

end Sys2Proof.Machine
end

section
/-! PROOFS. The card unit: card searches, and a letter opened. -/

namespace Sys2Proof.Machine

open Sys2Proof

variable {s t u : State} {c : Chan} {r : ChanRow}

/-! ### A letter opened (R100) -/

/-- The row of a channel whose letter has opened on a card. -/
def ChanRow.opened (r : ChanRow) (card : Nat) : ChanRow :=
  { r with
    op := none, spans := some [],
    ctx := { r.ctx with
      openRequest := none, cursor := 0, state := .ready,
      letter := some { card := card, priority := r.ctx.defaultPriority, takes := 0 } } }

/-- The row once a RECORD whose letter opened goes on to its take. -/
def ChanRow.openedFor (r : ChanRow) (card : Nat) (hold : Bool) (table : List (Nat × RecordEntry)) : ChanRow :=
  if r.ctx.openRequest = some .record then (r.opened card).started hold table else r.opened card

theorem openedFor_new {card : Nat} {hold : Bool} {table : List (Nat × RecordEntry)} (h : r.ctx.openRequest = some .new) :
    r.openedFor card hold table = r.opened card :=
  if_neg (by rw [h]; nofun)

theorem openedFor_record {card : Nat} {hold : Bool} {table : List (Nat × RecordEntry)} (h : r.ctx.openRequest = some .record) :
    r.openedFor card hold table = (r.opened card).started hold table :=
  if_pos h

theorem answerOpen_card {n : Nat} (hrun : s.regs.part = .running) :
    (s.setRow c r).answerOpen c (.card n) = (s.setHolding n (.held c)).setRow c
      (r.openedFor n s.sheets.hold s.letters.records) := by
  have hrow : (((s.setRow c r).modRow c fun r => { r with op := none, ctx := { r.ctx with openRequest := none } }).setHolding
      n (.held c)).modRow c (fun r => { r with
        spans := some [],
        ctx := { r.ctx with
          letter := some { card := n, priority := r.ctx.defaultPriority, takes := 0 },
          cursor := 0, state := .ready } }) = (s.setHolding n (.held c)).setRow c (r.opened n) := by
    rw [modRow_setRow]
    exact modRow_setRow (s := s.setHolding n (.held c))
  rw [State.answerOpen]
  dsimp only
  rw [hrow, row_setRow_self, if_neg (by rw [setRow_regs, setHolding_regs, hrun]; nofun), ChanRow.openedFor]
  cases r.ctx.openRequest with
  | none => rfl
  | some cause =>
    cases cause with
    | new => rfl
    | record => exact startTake_setRow (s := s.setHolding n (.held c))

theorem started_opened {card : Nat} {table : List (Nat × RecordEntry)} :
    (r.opened card).started true table =
        { r.opened card with ctx := { (r.opened card).ctx with transient := some (.storageHold, 32) } } ∧
      (r.opened card).started false table = { r.opened card with
        placement := some { mode := .append, recorded := 0, removed := 0, spanOpen := false, closing := none },
        codec := { silent := 0, pending := 0, lost := 0 }, flush := none,
        ctx := { (r.opened card).ctx with
          state := .recording, letter := some { card := card, priority := r.ctx.defaultPriority, takes := 1 } } } :=
  ⟨rfl, rfl⟩

/-- The image of a card just opened, its index on this sheet. -/
def openImage (c : Chan) (x : Context) (top : Nat) : Card :=
  { state := 1, writing := false, damaged := false, channel := c.val, author := x.author, priority := x.defaultPriority,
    index := top, spanCount := 0, length := 0, instructionFrames := 0, lostFrames := 0, clipped := 0, takes := 0, sequence := 0 }

/-- What an opening hands over: the map entry INDEX and the card. -/
def openWrites (p : Setup) (card top : Nat) (image : Card) : List Access :=
  mapWriteOf p .cardUnit .mapWrite top 3 card :: bodyWrites p card image .plain

/-- The state with an opening's image entered and its accesses handed over. -/
def State.cardOpened (s : State) (card top : Nat) (image : Card) : State :=
  { s with
    cards := { s.cards with images := Table.put s.cards.images card image },
    engine := { s.engine with waiting := s.engine.waiting ++ openWrites s.setup card top image } }

theorem cardOpened_eq {card top : Nat} {image : Card} :
    (((s.setRow c r).sendMapEntry .cardUnit .mapWrite top 3 card).setImage card image).writeCard card image .plain =
      (s.cardOpened card top image).setRow c r := by
  rw [writeCard_eq, State.cardOpened, openWrites, List.append_cons]
  rfl

theorem openWithSheet_eq {card top : Nat} (hrun : s.regs.part = .running) (hop : r.op = some (.opening (some card))) :
    (s.setRow c r).openWithSheet c top =
      ((s.cardOpened card top (openImage c r.ctx top)).setHolding card (.held c)).setRow c
        (r.openedFor card s.sheets.hold s.letters.records) := by
  have hopen : (s.setRow c r).openWithSheet c top =
      ((s.cardOpened card top (openImage c r.ctx top)).setRow c r).answerOpen c (.card card) := by
    rw [State.openWithSheet, row_setRow_self, hop, ← cardOpened_eq]
    rfl
  exact hopen.trans (answerOpen_card hrun)

theorem popStack_holds (s : State) : ∃ x, s.popStack = { s with sheets := x } ∧ x.stack = s.sheets.stack.tail ∧
    x.tally = s.sheets.tally ∧
    x.hold = heldAt s.setup (s.sheets.tally + s.sheets.stack.tail.length) s.sheets.hold := by
  let u : State := { s with sheets := { s.sheets with stack := s.sheets.stack.tail } }
  obtain ⟨x, hx, hstack, htally, -, -, hhold, -⟩ := scanEvent_sheets (t := u.evaluateHold) (u := s) (marks := false)
    (by rw [evaluateHold_eq])
  rw [evaluateHold_eq] at hstack htally hhold
  exact ⟨x, hx, hstack, htally, hhold⟩

/-! ### A card searched (R99) -/

/-- The claim cursor of the cards behind a card. -/
def State.nextCard (s : State) : Nat := if s.cards.cursor + 1 < s.setup.cardCount then s.cards.cursor + 1 else 0

theorem takeCard_eq {card top : Nat} {more : List Nat} (hrun : s.regs.part = .running) (hstack : s.sheets.stack = top :: more)
    (hwaiting : s.sheets.waiting = []) : ∃ x, s.takeCard c card = State.setRow { s with
      sheets := x,
      cards := { s.cards with
        search := none,
        holdings := Table.put (Table.put s.cards.holdings card (.opening c)) card (.held c),
        images := Table.put s.cards.images card (openImage c (s.row c).ctx top) },
      engine := { s.engine with
        waiting := s.engine.waiting ++ openWrites s.setup card top (openImage c (s.row c).ctx top) } } c
      ((s.row c).openedFor card x.hold s.letters.records) ∧
    x.stack = more ∧ x.tally = s.sheets.tally ∧ x.hold = heldAt s.setup (s.sheets.tally + more.length) s.sheets.hold := by
  let v : State := State.setRow { s with cards := { s.cards with
    search := none, holdings := Table.put s.cards.holdings card (.opening c) } } c
      { s.row c with op := some (.opening (some card)) }
  obtain ⟨x, hpop, hx, htally, hhold⟩ := popStack_holds v
  have hrequest : v.requestSheet (.index c) = (.sheet top, { v with sheets := x }) := by
    rw [State.requestSheet, show v.sheets.stack = top :: more from hstack]
    simp only [show v.sheets.waiting = [] from hwaiting, List.isEmpty_nil, if_true, hpop]
  rw [show v.sheets.stack = top :: more from hstack] at hx hhold
  have htake : s.takeCard c card = State.openWithSheet { v with sheets := x } c top := by
    rw [State.takeCard]
    change (match v.requestSheet (.index c) with
      | (.sheet n, u) => u.openWithSheet c n
      | (.notYet, u) => u
      | (.storageOut, u) => u.openWithoutSheet c) = _
    rw [hrequest]
  refine ⟨x, htake.trans ?_, hx, htally, hhold⟩
  exact openWithSheet_eq (s := { s with
    sheets := x, cards := { s.cards with
      search := none, holdings := Table.put s.cards.holdings card (.opening c) } })
    (r := { s.row c with op := some (.opening (some card)) }) hrun rfl

theorem answerOpen_noCard (hrun : s.regs.part = .running) :
    s.answerOpen c .noCard = s.setRow c { s.row c with
      op := none, ctx := { (s.row c).ctx with openRequest := none, transient := some (.noCard, 32) } } := by
  have hrow : (s.modRow c fun r => { r with op := none, ctx := { r.ctx with openRequest := none } }).raise c .noCard =
      s.setRow c { s.row c with
        op := none, ctx := { (s.row c).ctx with openRequest := none, transient := some (.noCard, 32) } } := by
    rw [State.modRow, raise_setRow]
  rw [State.answerOpen]
  dsimp only
  rw [hrow]
  exact if_neg (by rw [setRow_regs, hrun]; nofun)

/-- The search goes on behind a card. -/
def State.cardPassed (s : State) (c : Chan) (examined : Nat) : State :=
  { s with cards := { s.cards with cursor := s.nextCard, search := some { channel := c, examined := examined } } }

theorem searchCard_passes {examined : Nat} {line : List Byte}
    (hv : ¬ (byteAt line 0 = 0 ∧ Table.get s.cards.holdings s.cards.cursor = none)) (he : examined + 1 < s.setup.cardCount) :
    s.searchCard { channel := c, examined := examined } line = (s.cardPassed c (examined + 1)).readSearchCard :=
  (if_neg (by rwa [Option.isNone_iff_eq_none])).trans (if_pos he)

theorem searchCard_ends {examined : Nat} {line : List Byte}
    (hv : ¬ (byteAt line 0 = 0 ∧ Table.get s.cards.holdings s.cards.cursor = none)) (he : s.setup.cardCount ≤ examined + 1) :
    s.searchCard { channel := c, examined := examined } line =
      State.answerOpen { s with cards := { s.cards with cursor := s.nextCard, search := none } } c .noCard :=
  (if_neg (by rwa [Option.isNone_iff_eq_none])).trans (if_neg (Nat.not_lt.2 he))

theorem searchCard_takes {examined : Nat} {line : List Byte}
    (hv : byteAt line 0 = 0 ∧ Table.get s.cards.holdings s.cards.cursor = none) :
    s.searchCard { channel := c, examined := examined } line =
      State.takeCard { s with cards := { s.cards with cursor := s.nextCard } } c s.cards.cursor :=
  if_pos (by rwa [Option.isNone_iff_eq_none])

theorem exec_searchRead {a : Access} {rest : List Access} {examined : Nat} {line : List Byte} (hdue : Due s .cardUnit a rest)
    (ha : a.purpose = .searchRead) (hs : s.cards.search = some { channel := c, examined := examined }) :
    exec (.cardSearchReadComplete line) s =
      done s ((s.landed rest).searchCard { channel := c, examined := examined } line) := by
  refine congrArg (done s) ((onComplete_due hdue (by rw [ha]; rfl)).trans ?_)
  rw [show (s.landed rest).cards.search = some { channel := c, examined := examined } from hs]

/-- Settles O46: the start of a search, a card passed, the last card passed, and a card taken. -/
theorem cardSearchFindsAVacantCard : Obligations.CardSearchFindsAVacantCard := by
  unfold Obligations.CardSearchFindsAVacantCard
  refine ⟨fun s c others hpart hsearch hqueue => ?_, ?_⟩
  · have hexec : exec .cardSearchStart s = done s s.startSearch := congrArg (done s) (if_pos (works_active hpart))
    rw [State.startSearch, hsearch, hqueue] at hexec
    exact ⟨_, hexec.trans (done_same rfl), rfl, rfl⟩
  intro s a rest c examined line hdue ha hsearch hrun u card next vacant x
  have hexec := exec_searchRead (line := line) hdue ha hsearch
  refine ⟨?_, ?_, ?_⟩
  · intro hv hmore
    rw [searchCard_passes (s := s.landed rest) hv hmore] at hexec
    exact ⟨_, hexec.trans (done_same rfl), rfl, rfl⟩
  · intro hv hlast
    rw [searchCard_ends (s := s.landed rest) hv hlast, answerOpen_noCard (s := { u with cards := { u.cards with cursor := u.nextCard, search := none } }) hrun] at hexec
    obtain ⟨v, hd, hrow, -⟩ := done_row (s := s) (b := { u with cards := { s.cards with cursor := next, search := none } })
      (fun h => nomatch hrun.symm.trans h) rfl rfl rfl
    exact ⟨v, hexec.trans hd, hrow⟩
  · intro top more cause hv hstack hwaiting hcause letter opened
    obtain ⟨y, htake, hy, htally, hhold⟩ := takeCard_eq (s := { u with cards := { u.cards with cursor := u.nextCard } }) (c := c)
      (card := card) hrun hstack hwaiting
    rw [show (s.landed rest).searchCard _ line = _ from (searchCard_takes (s := u) hv).trans htake] at hexec
    obtain ⟨d, hd⟩ := done_changed s _
    rw [hd] at hexec
    have hget : ∀ n, n ≠ card →
        Table.get (Table.put (Table.put s.cards.holdings card (.opening c)) card (.held c)) n = Table.get s.cards.holdings n ∧
        Table.get (Table.put s.cards.images card (openImage c x top)) n = Table.get s.cards.images n :=
      fun n hn => ⟨(get_put_ne hn).trans (get_put_ne hn), get_put_ne hn⟩
    refine ⟨_, openImage c x top, hexec, rfl, rfl, ?_, ?_, ?_, ?_, ?_, fun e he => row_setRow_ne he, hy, htally, rfl, rfl, rfl,
      get_put_self, get_put_self, hget, rfl⟩
    · rintro rfl
      exact row_setRow_self.trans (openedFor_new hcause)
    · rintro rfl ht
      refine row_setRow_self.trans ((openedFor_record hcause).trans ?_)
      rw [show y.hold = true from ht]
      exact started_opened.1
    · rintro rfl ht
      refine row_setRow_self.trans ((openedFor_record hcause).trans ?_)
      rw [show y.hold = false from ht]
      exact started_opened.2
    · intro hlow hheld
      refine hhold.trans ?_
      change heldAt s.setup (s.sheets.tally + more.length) s.sheets.hold = false
      rw [hheld, heldAt, if_neg (Nat.not_lt.2 hlow), ite_self]
    · exact fun hlow => hhold.trans (heldAt_below hlow)

end Sys2Proof.Machine
end

section
/-! PROOFS. The card unit: what follows a checkpoint, and the FILED map writes with the last card. -/

namespace Sys2Proof.Machine

open Sys2Proof

variable {s t u : State} {c : Chan} {r : ChanRow} {l : OpenLetter} {k : Card} {j : OrderSlot}

/-! ### A channel leaves BUSY (R6, R27) -/

theorem leaveBusy_rests (hc : r.ctx.pendingClose = none) (hf : r.ctx.pendingFile = none) (hq : s.regs.part ≠ .quiescing) :
    (s.setRow c r).leaveBusy c = s.setRow c r := by
  simp [State.leaveBusy, hc, hf, hq]

theorem leaveBusy_closes (h : r.ctx.pendingClose ≠ none ∨ (r.ctx.pendingFile = none ∧ s.regs.part = .quiescing)) :
    (s.setRow c r).leaveBusy c = (s.setRow c r).actClose c := by
  by_cases hc : r.ctx.pendingClose = none
  · obtain ⟨hf, hq⟩ := h.resolve_left fun hne => hne hc
    simp [State.leaveBusy, hc, hf, hq]
  · simp [State.leaveBusy, Option.isSome_iff_ne_none.2 hc]

theorem leaveBusy_files (hc : r.ctx.pendingClose = none) (hf : r.ctx.pendingFile ≠ none)
    (hact : (s.setRow c r).actFile c = t) (hclose : t.regs.part = .quiescing → t.actClose c = t) :
    (s.setRow c r).leaveBusy c = t := by
  rw [State.leaveBusy]
  dsimp only
  rw [row_setRow_self, if_neg (by rw [hc]; nofun), if_pos (Option.isSome_iff_ne_none.2 hf), hact]
  split
  · next hq => exact hclose hq
  · rfl

/-- An empty letter whose pending file acts: handed over for discard, the order answered. -/
theorem leaveBusy_discards (hs : r.ctx.state = .ready) (hl : r.ctx.letter = some l) (hlen : r.length = 0)
    (hc : r.ctx.pendingClose = none) (hf : r.ctx.pendingFile = some j) (hrun : s.regs.part = .running) :
    (s.setRow c r).leaveBusy c = ((s.handedForDiscard c l.card (sheetList r.spanList)).setRow c
      { r.discarded l.card (s.indexOf l.card) with
        ctx := { (r.discarded l.card (s.indexOf l.card)).ctx with pendingFile := none } }).finish j 4 l.card 0 :=
  leaveBusy_files hc (by rw [hf]; nofun) ((actFile_ready hs).trans (fileNow_orderedEmpty hlen hs hl hf))
    fun hq => nomatch hrun.symm.trans hq

/-! ### The checkpoint has completed (R101, R17) -/

/-- The row of a channel whose SAVING has ended. -/
def ChanRow.saved (r : ChanRow) : ChanRow :=
  { r with op := none, placement := none, ctx := { r.ctx with state := .ready } }

theorem exec_checkpointComplete {a : Access} {rest : List Access} {card : Nat} (hdue : Due s .cardUnit a rest)
    (ha : a.purpose = .cardFirst card (.checkpoint c)) :
    exec (.checkpointComplete c) s = done s ((s.landed rest).checkpointDone c) :=
  congrArg (done s) (onComplete_due hdue (by rw [ha]; exact beq_self_eq_true _))

theorem checkpointDone_saved {stage : OpStage} (h : (s.row c).op = some (.checkpoint stage)) :
    s.checkpointDone c = (s.setRow c (s.row c).saved).leaveBusy c := by
  rw [State.checkpointDone, h]
  rfl

/-- The FILED map writes of a filing or suspension (R103, R107). -/
def filedWrites (p : Setup) (c : Chan) (card index : Nat) (sheets : List Nat) : List Access :=
  ((index :: sheets).zip (List.replicate sheets.length false ++ [true])).map fun (n, last) =>
    mapWriteOf p .cardUnit (.filedWrite c last) n 4 card

theorem writeFiled_eq {card : Nat} : ∀ {sheets : List Nat} {index : Nat} {s : State},
    State.writeFiled c card (index :: sheets) s = { s with
      engine := { s.engine with waiting := s.engine.waiting ++ filedWrites s.setup c card index sheets } }
  | [], _, _ => rfl
  | n :: rest, index, s => by
    have hwrites : filedWrites s.setup c card index (n :: rest) =
        mapWriteOf s.setup .cardUnit (.filedWrite c false) index 4 card :: filedWrites s.setup c card n rest := rfl
    rw [State.writeFiled, writeFiled_eq (sheets := rest), hwrites, List.append_cons]
    rfl

theorem checkpointDone_files {op : CardOp} (hl : (s.row c).ctx.letter = some l) (hk : Table.get s.cards.images l.card = some k)
    (hop : (s.row c).op = some op) (h : (∃ stage b, op = .filing stage b) ∨ ∃ stage, op = .suspending stage) :
    s.checkpointDone c = State.setRow { s with
      engine := { s.engine with
        waiting := s.engine.waiting ++ filedWrites s.setup c l.card k.index (sheetList (s.row c).spanList) } } c
      { s.row c with op := some (op.at .filed) } := by
  have hdone : s.checkpointDone c =
      State.writeFiled c l.card (k.index :: sheetList (s.row c).spanList) (s.setStage c .filed) := by
    rw [State.checkpointDone, hop, letterImage_some hl hk]
    rcases h with ⟨stage, b, rfl⟩ | ⟨stage, rfl⟩ <;> rfl
  rw [hdone, setStage_eq hop, writeFiled_eq]
  rfl

/-! ### The last card (R103, R107) -/

theorem exec_filedWritesComplete {a : Access} {rest : List Access} (hdue : Due s .cardUnit a rest)
    (ha : a.purpose = .filedWrite c true) :
    exec (.filedWritesComplete c) s = done s ((s.landed rest).writeLastCard c) :=
  congrArg (done s) (onComplete_due hdue (by rw [ha]; exact beq_self_eq_true _))

/-- The last card of a filing or suspension written: its image entered and its channel's stage moved on. -/
def State.lastCard (s : State) (c : Chan) (op : CardOp) (card : Nat) (image : Card) (ends : CardWrite) : State :=
  State.setRow { s with
    cards := { s.cards with images := Table.put s.cards.images card image },
    engine := { s.engine with waiting := s.engine.waiting ++ bodyWrites s.setup card image ends } } c
    { s.row c with op := some (op.at .card) }

theorem lastCard_eq {op : CardOp} {card : Nat} {image : Card} {ends : CardWrite} (hop : (s.row c).op = some op) :
    ((s.setImage card image).setStage c .card).writeCard card image ends = s.lastCard c op card image ends := by
  rw [setStage_eq (s := s.setImage card image) hop, writeCard_eq]
  rfl

theorem writeLastCard_filing {stage : OpStage} {b : Bool} (hl : (s.row c).ctx.letter = some l)
    (hk : Table.get s.cards.images l.card = some k) (hop : (s.row c).op = some (.filing stage b)) :
    s.writeLastCard c = State.lastCard { s with cards := { s.cards with sequence := nextSequence s.cards.sequence } } c
      (.filing stage b) l.card { k with state := 2, sequence := nextSequence s.cards.sequence } (.filed c) := by
  rw [State.writeLastCard, letterImage_some hl hk, hop]
  exact lastCard_eq (s := { s with cards := { s.cards with sequence := nextSequence s.cards.sequence } }) hop

theorem writeLastCard_suspending {stage : OpStage} (hl : (s.row c).ctx.letter = some l)
    (hk : Table.get s.cards.images l.card = some k) (hop : (s.row c).op = some (.suspending stage)) :
    s.writeLastCard c = s.lastCard c (.suspending stage) l.card { k with state := 3 } (.suspended c) := by
  rw [State.writeLastCard, letterImage_some hl hk, hop]
  exact lastCard_eq hop

/-- Settles O48: SAVING ended and what waited, the FILED writes, and the last card. -/
theorem checkpointLeadsOn : Obligations.CheckpointLeadsOn := by
  unfold Obligations.CheckpointLeadsOn
  intro s c a rest l k op hdue hl hk hop hpart u x saved filing suspending
  have hreports : ∀ stage, (s.setRow c { s.row c with op := some (op.at stage) }).reports = s.reports :=
    fun _ => reports_setRow rfl
  have hstarting : s.regs.part ≠ .starting := by
    rcases hpart with h | h <;> rw [h] <;> nofun
  refine ⟨?_, ?_, ?_, ?_⟩
  · intro card stage ha hstage
    have hexec : exec (.checkpointComplete c) s = done s ((u.setRow c saved).leaveBusy c) :=
      (exec_checkpointComplete hdue ha).trans (congrArg (done s) (checkpointDone_saved (s := u) (hop.trans (congrArg some hstage))))
    have hbecomes : ∀ q, (u.setRow c saved).leaveBusy c = u.setRow c q →
        ∃ t, exec (.checkpointComplete c) s = .next t ∧ RowBecomes u t c q := by
      intro q hq
      obtain ⟨v, hd, hrow, -⟩ := done_row (s := s) (b := u) (r := q) hstarting rfl rfl hq
      exact ⟨v, hexec.trans hd, hrow⟩
    refine ⟨fun hc hf hrun => hbecomes _ (leaveBusy_rests hc hf fun hq => nomatch hrun.symm.trans hq), fun hclose => hbecomes _ ?_,
      fun hc hf hlen => hbecomes _ (leaveBusy_files hc hf ?_ fun _ => actClose_busy rfl), fun j hc hf hlen hrun => ?_⟩
    · exact (leaveBusy_closes (s := u) (r := saved) hclose).trans ((actClose_ready rfl).trans suspend_setRow)
    · exact (actFile_ready rfl).trans (fileNow_ordered hlen)
    · have hindex : u.indexOf l.card = k.index := by
        rw [State.indexOf, State.image, show Table.get u.cards.images l.card = some k from hk]
        rfl
      rw [leaveBusy_discards (s := u) (r := saved) rfl hl hlen hc hf hrun, hindex] at hexec
      obtain ⟨d, hd⟩ := done_changed s _
      refine ⟨_, sheetList (s.row c).spanList, hexec.trans hd, firstReferences_sheetList _, sheetsLeave_without rfl,
        fun e he => row_setRow_ne he, row_setRow_self, ?_, rfl, rfl, rfl⟩
      rw [← resultBytes_eq (code := 4) (by decide)]
      rfl
  · intro card ha hkind
    have hexec := exec_checkpointComplete hdue ha
    rw [checkpointDone_files (s := s.landed rest) hl hk hop hkind] at hexec
    exact ⟨_, sheetList (s.row c).spanList, hexec.trans (done_same (hreports .filed)), firstReferences_sheetList _,
      ⟨_, rfl, rfl⟩, row_setRow_self, fun e he => row_setRow_ne he, rfl⟩
  · rintro ha ⟨stage, b, rfl⟩
    have hexec := exec_filedWritesComplete hdue ha
    rw [writeLastCard_filing (s := s.landed rest) hl hk hop] at hexec
    exact ⟨_, hexec.trans (done_same (hreports .card)), rfl, row_setRow_self, fun e he => row_setRow_ne he, rfl⟩
  · rintro ha ⟨stage, rfl⟩
    have hexec := exec_filedWritesComplete hdue ha
    rw [writeLastCard_suspending (s := s.landed rest) hl hk hop] at hexec
    exact ⟨_, hexec.trans (done_same (hreports .card)), rfl, row_setRow_self, fun e he => row_setRow_ne he, rfl⟩

end Sys2Proof.Machine
end

section
/-! PROOFS. The card unit: a channel that leaves BUSY without a letter, and the end of a filing. -/

namespace Sys2Proof.Machine

open Sys2Proof

variable {s t u v : State} {c : Chan} {r : ChanRow} {l : OpenLetter} {k : Card} {j : OrderSlot}

/-! ### A channel leaves BUSY without a letter (R6, R25, R26) -/

/-- What a channel that leaves BUSY in IDLE leaves alone. -/
structure LeavesIdle (c : Chan) (s t : State) : Prop where
  regs : t.regs = s.regs
  letters : t.letters = s.letters
  desk : t.desk = s.desk
  others : OtherRows c s t
  roll : t.cards.roll = s.cards.roll
  sequence : t.cards.sequence = s.cards.sequence
  holdings : t.cards.holdings = s.cards.holdings
  images : t.cards.images = s.cards.images

theorem LeavesIdle.refl (s : State) : LeavesIdle c s s :=
  ⟨rfl, rfl, rfl, fun _ _ => rfl, rfl, rfl, rfl, rfl⟩

theorem LeavesIdle.trans (h : LeavesIdle c s t) (g : LeavesIdle c t u) : LeavesIdle c s u :=
  ⟨g.regs.trans h.regs, g.letters.trans h.letters, g.desk.trans h.desk, fun d hd => (g.others d hd).trans (h.others d hd),
    g.roll.trans h.roll, g.sequence.trans h.sequence, g.holdings.trans h.holdings, g.images.trans h.images⟩

theorem LeavesIdle.setRow : LeavesIdle c s (s.setRow c r) :=
  ⟨rfl, rfl, rfl, fun _ hd => row_setRow_ne hd, rfl, rfl, rfl, rfl⟩

theorem LeavesIdle.finish {code first second : Nat} : LeavesIdle c s (s.finish j code first second) :=
  ⟨rfl, rfl, rfl, fun _ _ => rfl, rfl, rfl, rfl, rfl⟩

theorem LeavesIdle.answer {i : Option OrderSlot} {code first second : Nat} :
    LeavesIdle c s (s.answer i code first second) := by
  cases i with
  | none => exact .refl s
  | some j => exact .finish

theorem withdrawOpen_cards (hop : (s.row c).op = none) : LeavesIdle c s (s.withdrawOpen c) := by
  by_cases h : (s.row c).ctx.openRequest = none
  · rw [State.withdrawOpen, if_pos (Option.isNone_iff_eq_none.2 h)]
    exact .refl s
  · rw [withdrawOpen_asking h, hop]
    exact ⟨rfl, rfl, rfl, fun _ hd => row_setRow_ne hd, rfl, rfl, rfl, rfl⟩

theorem LeavesIdle.unbind {first second : Nat} (hop : (s.row c).op = none) : LeavesIdle c s (s.unbind c first second) := by
  have hreleased : LeavesIdle c (s.withdrawOpen c) ((((s.withdrawOpen c).releaseInput (s.row c).ctx.inSlot).releaseOutput
      (s.row c).ctx.outSlot).modRow c ChanRow.unbound) := by
    rw [releaseInput_eq, releaseOutput_eq]
    exact ⟨rfl, rfl, rfl, fun d hd => row_modRow_ne hd, rfl, rfl, rfl, rfl⟩
  exact ((withdrawOpen_cards hop).trans hreleased).trans
    ((LeavesIdle.answer (i := (s.row c).ctx.pendingClose)).trans (.answer (i := (s.row c).ctx.pendingFile)))

/-- The row of a channel whose pending file is answered. -/
def ChanRow.fileAnswered (r : ChanRow) : ChanRow := { r with ctx := { r.ctx with pendingFile := none } }

theorem actFile_idle (hs : r.ctx.state = .idle) (hf : r.ctx.pendingFile = some j) :
    (s.setRow c r).actFile c = (s.finish j 19 0 0).setRow c r.fileAnswered := by
  rw [State.actFile, State.chanState, row_setRow_self, hs]
  dsimp only
  rw [hf]
  exact congrArg (fun v : State => v.finish j 19 0 0) modCtx_setRow

theorem LeavesIdle.leaveBusy (hs : r.ctx.state = .idle) (hop : r.op = none) :
    LeavesIdle c s ((s.setRow c r).leaveBusy c) := by
  have hunbinds : ∀ {v : State} {q : ChanRow}, q.ctx.state = .idle → q.op = none →
      LeavesIdle c v ((v.setRow c q).actClose c) := by
    intro v q hq ho
    rw [actClose_idle hq]
    exact LeavesIdle.setRow.trans (.unbind (by rw [row_setRow_self]; exact ho))
  by_cases hc : r.ctx.pendingClose ≠ none ∨ (r.ctx.pendingFile = none ∧ s.regs.part = .quiescing)
  · rw [leaveBusy_closes hc]
    exact hunbinds hs hop
  obtain ⟨hclose, hrest⟩ := not_or.1 hc
  have hnone : r.ctx.pendingClose = none := not_not.1 hclose
  cases hf : r.ctx.pendingFile with
  | none =>
    rw [leaveBusy_rests hnone hf fun hq => hrest ⟨hf, hq⟩]
    exact .setRow
  | some j =>
    have hacted : (if r.ctx.pendingFile.isSome = true then (s.setRow c r).actFile c else s.setRow c r) =
        (s.finish j 19 0 0).setRow c r.fileAnswered := (if_pos (by rw [hf]; rfl)).trans (actFile_idle hs hf)
    rw [State.leaveBusy]
    dsimp only
    rw [row_setRow_self, if_neg (by rw [hnone]; exact Bool.false_ne_true), hacted]
    split
    · exact (LeavesIdle.finish (j := j)).trans (hunbinds hs hop)
    · exact (LeavesIdle.finish (j := j)).trans .setRow

/-- The row of a channel whose NEW has been seen to. -/
def ChanRow.nextSeen (r : ChanRow) : ChanRow := { r with ctx := { r.ctx with openAfter := false } }

theorem openNext_eq : s.openNext c =
    if (s.row c).ctx.openAfter = true ∧ s.chanState c = .idle ∧ s.regs.part = .running
    then (s.setRow c (s.row c).nextSeen).openLetter c .new else s.setRow c (s.row c).nextSeen := rfl

theorem LeavesIdle.openNext : LeavesIdle c s (s.openNext c) := by
  rw [openNext_eq]
  split
  · cases hold : s.sheets.hold with
    | true =>
      rw [openLetter_held hold]
      exact .setRow
    | false =>
      rw [openLetter_clear hold]
      exact ⟨rfl, rfl, rfl, fun _ hd => row_setRow_ne hd, rfl, rfl, rfl, rfl⟩
  · exact .setRow

/-! ### The report of a filing (R163) -/

/-- The desk unit told of a filing. -/
def DeskUnit.filingTold (d : DeskUnit) : DeskUnit := { d with filings := d.filings + 1#32, changed := true }

/-- The desk unit as the report of a filing leaves it. -/
def State.deskAfterFiling (s : State) (p : Priority) : DeskUnit :=
  if p = .urgent ∨ s.setup.filingMark ≤ (s.desk.filings + 1#32).toNat then
    if s.desk.writing = true then { s.desk.filingTold with again := true }
    else { s.desk.filingTold with requested := true }
  else s.desk.filingTold

theorem reportFiling_eq {p : Priority} (h : s.active = true) :
    s.reportFiling p = { s with desk := s.deskAfterFiling p } := by
  rw [State.reportFiling, State.deskAfterFiling]
  dsimp only
  split
  · exact requestDesk_active (s := { s with desk := s.desk.filingTold }) h
  · rfl

theorem deskAfterFiling_told (p : Priority) : (s.deskAfterFiling p).filings = s.desk.filings + 1#32 ∧
    (s.deskAfterFiling p).changed = true := by
  unfold State.deskAfterFiling
  split
  · split <;> exact ⟨rfl, rfl⟩
  · exact ⟨rfl, rfl⟩

theorem deskAfterFiling_asks {p : Priority} (h : p = .urgent ∨ s.setup.filingMark ≤ (s.desk.filings + 1#32).toNat) :
    (s.desk.writing = false → (s.deskAfterFiling p).requested = true) ∧
      (s.desk.writing = true → (s.deskAfterFiling p).again = true) := by
  rw [State.deskAfterFiling, if_pos h]
  exact ⟨fun hw => by rw [if_neg (by rw [hw]; nofun)], fun hw => by rw [if_pos hw]⟩

theorem deskAfterFiling_waits {p : Priority} (hp : p = .routine) (h : (s.desk.filings + 1#32).toNat < s.setup.filingMark) :
    (s.deskAfterFiling p).requested = s.desk.requested ∧ (s.deskAfterFiling p).again = s.desk.again := by
  rw [State.deskAfterFiling, if_neg (not_or.2 ⟨by rw [hp]; nofun, Nat.not_le.2 h⟩)]
  exact ⟨rfl, rfl⟩

/-! ### A filing completes (R103, R105) -/

/-- The row of a channel whose letter is filed. -/
def ChanRow.letterFiled (r : ChanRow) : ChanRow :=
  { r with
    op := none, spans := none,
    ctx := { r.ctx with letter := none, cursor := 0, state := .idle, transient := some (.filed, 32) } }

/-- The state with a letter filed, its channel's row and order apart. -/
def State.letterFiled (s : State) (c : Chan) (l : OpenLetter) (k : Card) : State :=
  { s with
    letters := s.letters.without (sheetList (s.row c).spanList),
    cards := { s.cards with
      roll := rollWith s.cards.roll { card := l.card, sequence := k.sequence, priority := l.priority },
      holdings := Table.erase s.cards.holdings l.card, images := Table.erase s.cards.images l.card },
    desk := s.deskAfterFiling l.priority }

/-- The state with a letter filed, the order that caused the filing answered. -/
def State.filingAnswered (s : State) (c : Chan) (l : OpenLetter) (k : Card) (byOrder : Bool) : State :=
  match byOrder, (s.row c).ctx.pendingFile with
  | true, some j =>
    ((s.letterFiled c l k).finish j 0 l.card k.sequence).setRow c (s.row c).letterFiled.fileAnswered
  | _, _ => (s.letterFiled c l k).setRow c (s.row c).letterFiled

theorem filingDone_eq {stage : OpStage} {byOrder : Bool} (ha : s.active = true) (hl : (s.row c).ctx.letter = some l)
    (hk : Table.get s.cards.images l.card = some k) (hop : (s.row c).op = some (.filing stage byOrder)) :
    s.filingDone c = ((s.filingAnswered c l k byOrder).leaveBusy c).openNext c := by
  let x : CardUnit := { s.cards with
    roll := rollWith s.cards.roll { card := l.card, sequence := k.sequence, priority := l.priority } }
  have hfiled : (((((State.handOff { s with cards := x } c).2.endHolding l.card).modRow c fun r => { r with
      op := none, ctx := { r.ctx with letter := none, cursor := 0, state := .idle } }).raise c .filed).reportFiling
      l.priority) = (s.letterFiled c l k).setRow c (s.row c).letterFiled := by
    rw [← setRow_row { s with cards := x } c, handOff_setRow]
    dsimp only
    rw [show ∀ (v : State) (q : ChanRow), (v.setRow c q).endHolding l.card = (v.endHolding l.card).setRow c q from fun _ _ => rfl,
      modRow_setRow, raise_setRow, reportFiling_eq (by exact ha)]
    rfl
  rw [State.filingDone, letterImage_some hl hk, hop]
  dsimp only
  rw [hfiled]
  cases byOrder with
  | false => rfl
  | true =>
    cases hf : (s.row c).ctx.pendingFile with
    | none => simp only [State.filingAnswered, hf]
    | some j =>
      simp only [State.filingAnswered, hf, modCtx_setRow]
      rfl

theorem exec_filingComplete {a : Access} {rest : List Access} {card : Nat} (hdue : Due s .cardUnit a rest)
    (ha : a.purpose = .cardFirst card (.filed c)) : exec (.filingComplete c) s = done s ((s.landed rest).filingDone c) :=
  congrArg (done s) (onComplete_due hdue (by rw [ha]; exact beq_self_eq_true _))

theorem fileAnswered_none (h : r.ctx.pendingFile = none) : r.fileAnswered = r := by
  rw [ChanRow.fileAnswered, ← h]

theorem filingAnswered_none {b : Bool} (hf : (s.row c).ctx.pendingFile = none) :
    s.filingAnswered c l k b = (s.letterFiled c l k).setRow c (s.row c).letterFiled := by
  cases b <;> simp only [State.filingAnswered, hf]

theorem filingAnswered_leaves {b : Bool} : LeavesIdle c (s.letterFiled c l k)
    (((s.filingAnswered c l k b).leaveBusy c).openNext c) := by
  have hleft : ∀ {v : State} {q : ChanRow}, q.ctx.state = .idle → q.op = none →
      LeavesIdle c v (((v.setRow c q).leaveBusy c).openNext c) := fun hq ho => (LeavesIdle.leaveBusy hq ho).trans .openNext
  cases b with
  | false => exact hleft rfl rfl
  | true =>
    cases hf : (s.row c).ctx.pendingFile with
    | none =>
      rw [filingAnswered_none hf]
      exact hleft rfl rfl
    | some j =>
      simp only [State.filingAnswered, hf]
      exact (LeavesIdle.finish (j := j)).trans (hleft rfl rfl)

/-- The answer of the order whose file is pending as a filing ends: DONE where it caused the filing, else refused. -/
def State.fileAnswer (s : State) (j : Option OrderSlot) (b : Bool) (card sequence : Nat) : State :=
  s.answer j (if b then 0 else 19) (if b then card else 0) (if b then sequence else 0)

theorem filingAnswered_left {b : Bool} (hc : (s.row c).ctx.pendingClose = none) (hrun : s.regs.part = .running) :
    (s.filingAnswered c l k b).leaveBusy c =
      ((s.letterFiled c l k).fileAnswer (s.row c).ctx.pendingFile b l.card k.sequence).setRow c
        (s.row c).letterFiled.fileAnswered := by
  have hquiet : s.regs.part ≠ .quiescing := fun hq => nomatch hrun.symm.trans hq
  cases hf : (s.row c).ctx.pendingFile with
  | none =>
    rw [filingAnswered_none hf, leaveBusy_rests (s := s.letterFiled c l k) (r := (s.row c).letterFiled) hc hf hquiet,
      fileAnswered_none (r := (s.row c).letterFiled) hf]
    rfl
  | some j =>
    cases b with
    | false =>
      exact leaveBusy_files (s := s.letterFiled c l k) hc (by rw [show (s.row c).letterFiled.ctx.pendingFile = some j from hf]; nofun)
        (actFile_idle rfl hf) fun hq => absurd hq hquiet
    | true =>
      simp only [State.filingAnswered, hf]
      exact leaveBusy_rests (r := (s.row c).letterFiled.fileAnswered) hc rfl hquiet

theorem openNext_rests (h : r.ctx.openAfter = false) : (s.setRow c r).openNext c = s.setRow c r.nextSeen := by
  rw [openNext_eq, row_setRow_self, if_neg (by rw [h]; nofun), setRow_setRow]

theorem openNext_opens (h : r.ctx.openAfter = true) (hs : r.ctx.state = .idle) (hrun : s.regs.part = .running) :
    (s.setRow c r).openNext c = (s.setRow c r.nextSeen).openLetter c .new := by
  rw [openNext_eq, row_setRow_self, if_pos ⟨h, by rw [State.chanState, row_setRow_self, hs], hrun⟩, setRow_setRow]

theorem openNext_frame (s : State) (c : Chan) : ∃ ch q,
    s.openNext c = { s with chans := ch, cards := { s.cards with openQueue := q } } := by
  rw [openNext_eq]
  split
  · cases hold : s.sheets.hold with
    | true =>
      rw [openLetter_held hold]
      exact ⟨_, _, rfl⟩
    | false =>
      rw [openLetter_clear hold]
      exact ⟨_, _, rfl⟩
  · exact ⟨_, _, rfl⟩

/-- A channel unbound with no open request outstanding and no file pending. -/
theorem unbind_settled {first second : Nat} (ho : r.ctx.openRequest = none) (hf : r.ctx.pendingFile = none) :
    (s.setRow c r).unbind c first second = (State.setRow { s with
      inputs := inputsReleased s.inputs r.ctx.inSlot,
      outputs := outputsReleased s.outputs r.ctx.outSlot } c r.unbound).answer r.ctx.pendingClose 0 first second := by
  have hrow : (s.setRow c r).row c = r := row_setRow_self
  obtain ⟨y, hy, hframe, hwith⟩ := unbind_eq (s.setRow c r) c first second
  obtain ⟨hcards, hsheets⟩ := hwith.kept (by rw [hrow, ho]; exact fun h => h rfl)
  have hengine : y.engine = s.engine := hwith.engineKept fun h => h.1 (by rw [hrow]; exact ho)
  obtain ⟨a, b, e, rfl⟩ : ∃ a b e, y = { s.setRow c r with cards := a, sheets := b, engine := e } := ⟨_, _, _, hframe⟩
  rw [hy, hrow, hf, State.unbinding, hrow]
  obtain rfl : a = s.cards := hcards
  obtain rfl : b = s.sheets := hsheets
  obtain rfl : e = s.engine := hengine
  exact congrArg (fun v : State => v.answer r.ctx.pendingClose 0 first second) (setRow_setRow (s := { s with
    inputs := inputsReleased s.inputs r.ctx.inSlot, outputs := outputsReleased s.outputs r.ctx.outSlot }))

theorem answer_setRow {i : Option OrderSlot} {code first second : Nat} :
    (s.setRow c r).answer i code first second = (s.answer i code first second).setRow c r := by
  cases i <;> rfl

/-- A channel whose filing has ended is unbound, by a pending close or under quiesce. -/
theorem filingAnswered_unbinds {b : Bool} (ho : (s.row c).ctx.openRequest = none) (hf : (s.row c).ctx.pendingFile = none)
    (hclose : (s.row c).ctx.pendingClose ≠ none ∨ s.regs.part = .quiescing) :
    ((s.filingAnswered c l k b).leaveBusy c).openNext c = (State.answer { s.letterFiled c l k with
      inputs := inputsReleased s.inputs (s.row c).ctx.inSlot,
      outputs := outputsReleased s.outputs (s.row c).ctx.outSlot } (s.row c).ctx.pendingClose 0 0 0).setRow c
        (s.row c).letterFiled.unbound := by
  have hleft : (s.filingAnswered c l k b).leaveBusy c = (State.answer { s.letterFiled c l k with
      inputs := inputsReleased s.inputs (s.row c).ctx.inSlot,
      outputs := outputsReleased s.outputs (s.row c).ctx.outSlot } (s.row c).ctx.pendingClose 0 0 0).setRow c
        (s.row c).letterFiled.unbound := by
    rw [filingAnswered_none hf, leaveBusy_closes (s := s.letterFiled c l k) (r := (s.row c).letterFiled) (hclose.imp id fun hq => ⟨hf, hq⟩),
      actClose_idle rfl, unbind_settled (r := (s.row c).letterFiled) ho hf, answer_setRow]
    rfl
  rw [hleft, openNext_rests rfl]
  rfl

/-- What the opening of a NEW leaves of an IDLE channel and of the open queue. -/
theorem openNext_leaves (hs : r.ctx.state = .idle) (hrun : s.regs.part = .running) (ht : (s.setRow c r).openNext c = t) :
    (r.ctx.openAfter = false → t.row c = r.nextSeen ∧ t.cards.openQueue = s.cards.openQueue) ∧
    (r.ctx.openAfter = true → s.sheets.hold = false →
      t.row c = { r.nextSeen with op := some (.opening none), ctx := { r.nextSeen.ctx with openRequest := some .new } } ∧
      t.cards.openQueue = s.cards.openQueue ++ [c]) ∧
    (r.ctx.openAfter = true → s.sheets.hold = true →
      t.row c = { r.nextSeen with ctx := { r.nextSeen.ctx with transient := some (.storageHold, 32) } } ∧
      t.cards.openQueue = s.cards.openQueue) := by
  subst ht
  refine ⟨fun h => ?_, fun h hold => ?_, fun h hold => ?_⟩
  · rw [openNext_rests h]
    exact ⟨row_setRow_self, rfl⟩
  · rw [openNext_opens h hs hrun, openLetter_clear hold]
    exact ⟨row_setRow_self, rfl⟩
  · rw [openNext_opens h hs hrun, openLetter_held hold]
    exact ⟨row_setRow_self, rfl⟩

theorem filingAnswered_unbound {b : Bool} (ho : (s.row c).ctx.openRequest = none) (hf : (s.row c).ctx.pendingFile = none)
    (hclose : (s.row c).ctx.pendingClose ≠ none ∨ s.regs.part = .quiescing)
    (ht : ((s.filingAnswered c l k b).leaveBusy c).openNext c = t) : t.row c = (s.row c).letterFiled.unbound ∧
      t.cards.openQueue = s.cards.openQueue ∧ t.orders = (s.answer (s.row c).ctx.pendingClose 0 0 0).orders ∧
      t.engine = (s.answer (s.row c).ctx.pendingClose 0 0 0).engine := by
  rw [filingAnswered_unbinds ho hf hclose] at ht
  subst ht
  cases (s.row c).ctx.pendingClose <;> exact ⟨row_setRow_self, rfl, rfl, rfl⟩

/-- Settles O49: what every filing's end leaves, then the channel that stays and the channel that is unbound. -/
theorem filingEndsInIdle : Obligations.FilingEndsInIdle := by
  unfold Obligations.FilingEndsInIdle
  intro s c a rest card l k stage byOrder hdue ha hpart hl hk hop u x filed answer entry
  have hactive : u.active = true := active_iff.2 (.inr hpart)
  obtain ⟨w, hw⟩ : ∃ w, ((u.filingAnswered c l k byOrder).leaveBusy c).openNext c = w := ⟨_, rfl⟩
  have hexec : exec (.filingComplete c) s = done s w :=
    (exec_filingComplete hdue ha).trans (congrArg (done s) ((filingDone_eq (s := u) hactive hl hk hop).trans hw))
  have hleaves : LeavesIdle c (u.letterFiled c l k) w := hw ▸ filingAnswered_leaves
  have hstarting : w.regs.part ≠ .starting := by
    rw [hleaves.regs]
    change s.regs.part ≠ .starting
    rcases hpart with h | h <;> rw [h] <;> nofun
  have hdesk : w.desk = s.deskAfterFiling l.priority := hleaves.desk
  obtain ⟨hfilings, hchanged⟩ := deskAfterFiling_told (s := s) l.priority
  refine ⟨_, hexec.trans (congrArg Host.Outcome.next (report_eq hstarting)), fun hlen => ?_, fun hlen => ?_, hleaves.sequence,
    holdingEnds_endHolding ⟨hleaves.holdings, hleaves.images⟩, sheetsLeave_without hleaves.letters, hleaves.others, ?_, ?_, ?_, ?_,
    ?_, ?_⟩
  · exact hleaves.roll.trans (congrArg (· ++ [entry]) (if_neg (Nat.not_le.2 hlen)))
  · exact hleaves.roll.trans (congrArg (· ++ [entry]) (if_pos hlen))
  · exact (congrArg DeskUnit.filings hdesk).trans hfilings
  · change (w.desk.changed || _) = true
    rw [hdesk, hchanged]
    rfl
  · intro hasks
    obtain ⟨h1, h2⟩ := deskAfterFiling_asks hasks
    exact ⟨fun hq => (congrArg DeskUnit.requested hdesk).trans (h1 hq), fun hq => (congrArg DeskUnit.again hdesk).trans (h2 hq)⟩
  · intro hroutine hbelow
    obtain ⟨h1, h2⟩ := deskAfterFiling_waits hroutine hbelow
    exact ⟨(congrArg DeskUnit.requested hdesk).trans h1, (congrArg DeskUnit.again hdesk).trans h2⟩
  · intro hrun hclose
    rw [filingAnswered_left (s := u) hclose hrun] at hw
    obtain ⟨o, e, hv⟩ : ∃ o e, (u.letterFiled c l k).fileAnswer (s.row c).ctx.pendingFile byOrder l.card k.sequence =
        { u.letterFiled c l k with orders := o, engine := e } := by
      cases (s.row c).ctx.pendingFile <;> exact ⟨_, _, rfl⟩
    rw [show u.row c = s.row c from rfl, hv] at hw
    obtain ⟨ch, q, hframe⟩ := openNext_frame (State.setRow { u.letterFiled c l k with orders := o, engine := e } c
      (s.row c).letterFiled.fileAnswered) c
    have horders : o = ((u.letterFiled c l k).fileAnswer x.pendingFile byOrder l.card k.sequence).orders :=
      (congrArg State.orders hv).symm
    have hengine : e = ((u.letterFiled c l k).fileAnswer x.pendingFile byOrder l.card k.sequence).engine :=
      (congrArg State.engine hv).symm
    obtain ⟨hrests, hopens, hheld⟩ := openNext_leaves (s := { u.letterFiled c l k with orders := o, engine := e })
      (r := (s.row c).letterFiled.fileAnswered) rfl hrun hw
    refine ⟨hrests, hopens, hheld, fun hf => ?_, fun j hf => ?_⟩
    · obtain rfl := hframe.symm.trans hw
      rw [hf] at horders hengine
      subst horders hengine
      rfl
    · obtain rfl := hframe.symm.trans hw
      rw [hf] at horders hengine
      subst horders hengine
      refine ⟨?_, rfl⟩
      cases byOrder with
      | true =>
        simp only [if_true, answer]
        rw [← resultBytes_eq (code := 0) (by decide)]
        rfl
      | false =>
        simp only [Bool.false_eq_true, if_false, answer]
        rw [← resultBytes_eq (code := 19) (by decide)]
        rfl
  · intro hf hopen
    have hends : x.pendingClose ≠ none ∨ s.regs.part = .quiescing → _ := fun hclose =>
      filingAnswered_unbound (s := u) hopen hf hclose hw
    refine ⟨fun hclose => ?_, fun hclose hq => ?_, fun j hclose => ?_⟩
    · obtain ⟨hrow, hqueue, -⟩ := hends hclose
      exact ⟨congrArg ChanRow.ctx hrow, congrArg ChanRow.op hrow, congrArg ChanRow.spans hrow, hqueue⟩
    · obtain ⟨-, -, horders, hengine⟩ := hends (.inr hq)
      rw [show (u.row c).ctx.pendingClose = none from hclose] at horders hengine
      exact ⟨horders, hengine.trans (HandedOver.refl u)⟩
    · obtain ⟨-, -, horders, hengine⟩ := hends (.inl (by rw [hclose]; nofun))
      rw [show (u.row c).ctx.pendingClose = some j from hclose] at horders hengine
      simp only [answer]
      rw [← resultBytes_eq (code := 0) (by decide)]
      exact ⟨hengine, congrArg OrderUnit.accepted horders⟩

end Sys2Proof.Machine
end

section
/-! PROOFS. The card unit: the end of a suspension, and a discard from its card to its sheets. -/

namespace Sys2Proof.Machine

open Sys2Proof

variable {s t u : State} {c : Chan} {l : OpenLetter} {k : Card} {d : Discard}

/-! ### A suspension completes (R107) -/

/-- The state with a suspended letter gone from letter store and holdings. -/
def State.letterSuspended (s : State) (c : Chan) (l : OpenLetter) : State :=
  { s with
    letters := s.letters.without (sheetList (s.row c).spanList),
    cards := { s.cards with
      holdings := Table.erase s.cards.holdings l.card, images := Table.erase s.cards.images l.card } }

theorem suspensionDone_eq (hl : (s.row c).ctx.letter = some l) (ho : (s.row c).ctx.openRequest = none)
    (hf : (s.row c).ctx.pendingFile = none) : s.suspensionDone c = State.setRow { s.letterSuspended c l with
      inputs := inputsReleased s.inputs (s.row c).ctx.inSlot,
      outputs := outputsReleased s.outputs (s.row c).ctx.outSlot,
      orders := (s.answer (s.row c).ctx.pendingClose 0 (l.card + 1) (s.row c).length).orders,
      engine := (s.answer (s.row c).ctx.pendingClose 0 (l.card + 1) (s.row c).length).engine } c
        { s.row c with spans := none : ChanRow }.unbound := by
  have hgone : (s.handOff c).2.endHolding l.card = (s.letterSuspended c l).setRow c { s.row c with spans := none } := by
    rw [← setRow_row s c, handOff_setRow, row_setRow_self, setRow_row]
    rfl
  rw [State.suspensionDone, hl]
  dsimp only
  rw [hgone, unbind_settled (s := s.letterSuspended c l) (r := { s.row c with spans := none }) ho hf]
  change State.answer _ (s.row c).ctx.pendingClose 0 _ _ = _
  cases (s.row c).ctx.pendingClose <;> rfl

/-! ### A discard begins (R106) -/

theorem discarding_eq_false {card : Nat} (h : ∀ b ∈ s.engine.waiting ++ s.engine.flight, ∀ line e last,
    b.purpose ≠ .cardBody card line (.discarded e) last) : s.discarding card = false := by
  rw [State.discarding, State.outstanding, List.any_eq_false]
  intro b hb
  split
  · next n line e last hp =>
    rw [beq_iff_eq]
    rintro rfl
    exact h b hb line e last hp
  · nofun

theorem discardReady_of (hqueue : ∀ e ∈ (s.row c).queue, ∀ record n slot,
      e ≠ .ready record d.card n slot ∧ e ≠ .writing record d.card n slot)
    (hwrites : ∀ b ∈ s.engine.waiting ++ s.engine.flight,
      (b.who = .channel c → ∀ n slot, b.purpose ≠ .headerWrite d.card n ∧ b.purpose ≠ .recordWrite d.card n slot) ∧
      (∀ card n, b.purpose = .headerWrite card n → n ∉ d.index :: d.sheets) ∧
      ∀ line e last, b.purpose ≠ .cardBody d.card line (.discarded e) last) : s.discardReady c d = true := by
  have hdiscarding : s.discarding d.card = false := discarding_eq_false fun b hb => (hwrites b hb).2.2
  have hheaders : (d.index :: d.sheets).any s.headerOutstanding = false := by
    rw [List.any_eq_false]
    intro n hn ho
    obtain ⟨b, hb, m, hm⟩ := headerOutstanding_iff.1 ho
    exact (hwrites b hb).2.1 m n hm hn
  rw [State.discardReady, hdiscarding, hheaders]
  simp only [Bool.not_false, Bool.true_and, Bool.and_eq_true, Bool.not_eq_true']
  refine ⟨?_, ?_⟩
  · rw [List.any_eq_false]
    intro e he
    split
    · nofun
    · rw [beq_iff_eq]
      rintro rfl
      exact (hqueue _ he _ _ _).1 rfl
    · rw [beq_iff_eq]
      rintro rfl
      exact (hqueue _ he _ _ _).2 rfl
  · rw [List.any_eq_false]
    intro b hb hboth
    rw [Bool.and_eq_true, beq_iff_eq] at hboth
    obtain ⟨hwho, hkind⟩ := hboth
    have hown := (hwrites b hb).1 hwho
    split at hkind
    · next n m hp =>
      rw [beq_iff_eq] at hkind
      exact (hown m 0).1 (hkind ▸ hp)
    · next n m slot hp =>
      rw [beq_iff_eq] at hkind
      exact (hown m slot).2 (hkind ▸ hp)
    · exact Bool.false_ne_true hkind

/-! ### A discard ends (R106, R86) -/

/-- The FREE map writes of some sheets, by the card unit. -/
def freeWrites (p : Setup) (sheets : List Nat) : List Access := sheets.map fun n => mapWriteOf p .cardUnit .mapWrite n 0 0

theorem freeClosed_all : ∀ {sheets : List Nat} {s : State},
    (∀ b ∈ s.engine.waiting ++ s.engine.flight, ∀ n m, b.purpose = .headerWrite n m → m ∉ sheets) →
    ∃ x, sheets.foldl (fun t n => t.freeClosed .cardUnit n) s = { s with
        sheets := x, engine := { s.engine with waiting := s.engine.waiting ++ freeWrites s.setup sheets } } ∧
      (s.sheets.tally ≤ s.setup.sheetCount → x.tally = min (s.sheets.tally + sheets.length) s.setup.sheetCount) ∧
      x.stack = s.sheets.stack ∧ x.freeWait = s.sheets.freeWait
  | [], s, _ => ⟨s.sheets, by rw [show freeWrites s.setup [] = [] from rfl, List.append_nil]; rfl,
      fun ht => (Nat.min_eq_left ht).symm, rfl, rfl⟩
  | n :: rest, s, hb => by
    obtain ⟨x, hx, htally, hstack, hwait⟩ := freeSheet_eq s .cardUnit n
    have hfirst : s.freeClosed .cardUnit n = s.freeSheet .cardUnit n :=
      freeClosed_free fun b hb' m hp => hb b hb' m n hp (List.mem_cons_self ..)
    rw [List.foldl_cons, hfirst, hx]
    obtain ⟨y, hy, htally', hstack', hwait'⟩ := freeClosed_all (sheets := rest) (s := { s with
      sheets := x,
      engine := { s.engine with waiting := s.engine.waiting ++ [mapWriteOf s.setup .cardUnit .mapWrite n 0 0] } })
      (fun b hb' i m hp hm => by
        rcases List.mem_append.1 hb' with hw | hf
        · rcases List.mem_append.1 hw with hw | hnew
          · exact hb b (List.mem_append_left _ hw) i m hp (List.mem_cons_of_mem _ hm)
          · rw [List.mem_singleton.1 hnew] at hp
            exact nomatch hp
        · exact hb b (List.mem_append_right _ hf) i m hp (List.mem_cons_of_mem _ hm))
    refine ⟨y, hy.trans ?_, fun _ => ?_, hstack'.trans hstack, hwait'.trans hwait⟩
    · have hwaiting : s.engine.waiting ++ freeWrites s.setup (n :: rest) =
          s.engine.waiting ++ [mapWriteOf s.setup .cardUnit .mapWrite n 0 0] ++ freeWrites s.setup rest := List.append_cons ..
      rw [hwaiting]
    · rw [htally' (htally ▸ Nat.min_le_right _ _), List.length_cons]
      change min (x.tally + rest.length) s.setup.sheetCount = _
      rw [htally]
      omega

theorem find_discard {before more : List Discard} {card : Nat} (hd : d.card = card) (hb : ∀ e ∈ before, e.card ≠ card) :
    (before ++ d :: more).find? (fun e => e.card == card) = some d := by
  rw [List.find?_append, List.find?_eq_none.2 fun e he => by simpa using hb e he]
  simp [hd]

theorem erase_discard {before more : List Discard} {card : Nat} (hd : d.card = card) (hb : ∀ e ∈ before, e.card ≠ card) :
    (before ++ d :: more).erase d = before ++ more := by
  rw [List.erase_append_right _ fun h => hb d h hd, List.erase_cons_head]

theorem writeFirst_discards {card : Nat} {first : List Byte} {before more : List Discard}
    (hlist : (s.row c).discards = before ++ d :: more) (hd : d.card = card) (hb : ∀ e ∈ before, e.card ≠ card)
    (hheaders : ∀ b ∈ s.engine.waiting ++ s.engine.flight, ∀ n m, b.purpose = .headerWrite n m → m ∉ d.index :: d.sheets) :
    ∃ x, s.writeFirst card first (.discarded c) = State.setRow { s with
        cards := { s.cards with
          holdings := Table.erase s.cards.holdings card, images := Table.erase s.cards.images card },
        sheets := x,
        engine := { s.engine with waiting := s.engine.waiting ++
          (writeOf .cardUnit (.cardFirst card .plain) ((s.setup.cardBase + (256 * card + 64 * 0)) % 2 ^ 64) first ::
            freeWrites s.setup (d.index :: d.sheets)) } } c { s.row c with discards := before ++ more } ∧
      (s.sheets.tally ≤ s.setup.sheetCount →
        x.tally = min (s.sheets.tally + (1 + d.sheets.length)) s.setup.sheetCount) ∧
      x.stack = s.sheets.stack ∧ x.freeWait = s.sheets.freeWait := by
  let v : State := (s.sendWrite .cardUnit (.cardFirst card .plain) (cardLineAddress s.setup card 0) first).endHolding card
  have hwrite : s.writeFirst card first (.discarded c) = ((d.index :: d.sheets).foldl (fun t n => t.freeClosed .cardUnit n) v).modRow c
      fun r => { r with discards := r.discards.erase d } := by
    have hfind : ((s.sendWrite .cardUnit (.cardFirst card .plain) (cardLineAddress s.setup card 0) first).row
        c).discards.find? (fun d => d.card == card) = some d :=
      (congrArg (List.find? fun d => d.card == card) hlist).trans (find_discard hd hb)
    rw [State.writeFirst, State.endDiscard, hfind]
  obtain ⟨x, hx, htally, hstack, hwait⟩ := freeClosed_all (sheets := d.index :: d.sheets) (s := v) (fun b hb' i m hp => by
    rcases List.mem_append.1 hb' with hw | hf
    · rcases List.mem_append.1 hw with hw | hnew
      · exact hheaders b (List.mem_append_left _ hw) i m hp
      · rw [List.mem_singleton.1 hnew] at hp
        exact nomatch hp
    · exact hheaders b (List.mem_append_right _ hf) i m hp)
  refine ⟨x, ?_, fun ht => (htally ht).trans ?_, hstack, hwait⟩
  · rw [hwrite, hx, State.modRow, List.append_cons, ← erase_discard hd hb, ← hlist]
    rfl
  · rw [List.length_cons, Nat.add_comm d.sheets.length]
    rfl

/-- Settles O50: the suspension's end, the discard's card, and the discard's end. -/
theorem suspensionAndDiscardEndLetters : Obligations.SuspensionAndDiscardEndLetters := by
  unfold Obligations.SuspensionAndDiscardEndLetters
  refine ⟨?_, ?_, ?_⟩
  · intro s c a rest card l hdue ha hpart hl ho hf u x
    have hexec : exec (.suspensionComplete c) s = done s (u.suspensionDone c) :=
      congrArg (done s) (onComplete_due hdue (by rw [ha]; exact beq_self_eq_true _))
    have heq := suspensionDone_eq (s := u) hl ho hf
    have hrow : (u.suspensionDone c).row c = { u.row c with spans := none : ChanRow }.unbound := by
      rw [heq]
      exact row_setRow_self
    generalize u.suspensionDone c = w at hexec heq hrow
    obtain ⟨e, hd⟩ := done_changed s w
    refine ⟨_, hexec.trans hd, congrArg ChanRow.ctx hrow, congrArg ChanRow.op hrow, congrArg ChanRow.spans hrow,
      congrArg ChanRow.placement hrow, (congrArg ChanRow.queue hrow :), (congrArg ChanRow.discards hrow :), ?_⟩
    subst heq
    refine ⟨fun e he => row_setRow_ne he, holdingEnds_endHolding ⟨rfl, rfl⟩, sheetsLeave_without rfl, rfl, rfl,
      inputsReleased_get _ _, outputsReleased_get _ _, fun hclose => ?_, fun j hclose => ?_⟩
    · rw [show (u.row c).ctx.pendingClose = none from hclose]
      rfl
    · rw [show (u.row c).ctx.pendingClose = some j from hclose, ← resultBytes_eq (code := 0) (by decide)]
      exact ⟨rfl, rfl⟩
  · intro s c d more k hpart hlist hk hqueue hwrites
    have hready : s.discardReady c d = true := discardReady_of hqueue hwrites
    have hfind : (s.row c).discards.find? (fun d => s.discardReady c d) = some d := by
      rw [hlist, List.find?_cons_of_pos hready]
    have hexec : exec (.discardPerform c) s = done s (s.performDiscard c d) := by
      refine congrArg (done s) ?_
      rw [hfind]
      exact if_pos (works_active hpart)
    rw [State.performDiscard, State.image, hk] at hexec
    dsimp only at hexec
    rw [writeCard_eq] at hexec
    exact ⟨_, hexec.trans (done_same rfl), rfl, rfl⟩
  · intro s c a rest card first before more d hdue ha hlist hd hbefore hheaders u
    have hexec := exec_cardBodyWritten hdue ha
    obtain ⟨x, hx, htally, hstack, hwait⟩ := writeFirst_discards (s := s.landed rest) (first := first) hlist hd hbefore hheaders
    rw [hx] at hexec
    obtain ⟨e, he⟩ := done_changed s _
    exact ⟨_, hexec.trans he, rfl, row_setRow_self, fun e he => row_setRow_ne he, holdingEnds_endHolding ⟨rfl, rfl⟩, htally, hstack,
      hwait, rfl⟩

end Sys2Proof.Machine
end

section
/-! PROOFS. Renders: frames handed over one by one, the end of an output, and the completions of buffer writes. -/

namespace Sys2Proof.Machine

open Sys2Proof

variable {s t u v : State} {x y : RenderContext} {d e : Decode}

/-! ### A frame handed over (R153, R174) -/

/-- The writes of a frame's parts, the last one marked. -/
def frameAccesses (frame : Nat) : List (Nat × List Byte) → List Access
  | [] => []
  | (address, bytes) :: rest =>
    writeOf .render (.renderWrite frame rest.isEmpty) (address % 2 ^ 64) bytes :: frameAccesses frame rest

/-- The state with a frame's parts handed over. -/
def State.framed (s : State) (frame : Nat) (parts : List (Nat × List Byte)) : State :=
  { s with engine := { s.engine with waiting := s.engine.waiting ++ frameAccesses frame parts } }

theorem sendFrame_eq {frame : Nat} : ∀ {parts : List (Nat × List Byte)} {s : State},
    State.sendFrame frame parts s = s.framed frame parts
  | [], s => by
    rw [State.sendFrame, State.framed, frameAccesses, List.append_nil]
  | (address, bytes) :: rest, s => by
    rw [State.sendFrame, sendFrame_eq, State.framed, State.framed, frameAccesses, List.append_cons]
    rfl

/-! ### The end of an output (R154) -/

/-- The context of a render that drains. -/
def RenderContext.drains (x : RenderContext) (truncated : Bool) : RenderContext :=
  { x with stage := .draining, ahead := [], decode := none, truncated := truncated }

theorem drainRender_eq {b : Bool} : (s.setRender x).drainRender b = s.dropRenderReads.setRender (x.drains b) := rfl

theorem settleHanded_other (h : x.handed ≠ x.total) (hc : x.handed ≠ x.order.length / 240) :
    (s.setRender x).settleHanded = s.setRender x := by
  by_cases hs : x.stage = .output
  · exact (if_pos hs).trans ((if_neg h).trans (if_neg hc))
  · exact if_neg hs

theorem settleHanded_ends (hs : x.stage = .output) (h : x.handed = x.total ∨ x.handed = x.order.length / 240) :
    (s.setRender x).settleHanded = s.dropRenderReads.setRender (x.drains (decide (x.handed ≠ x.total))) := by
  refine (if_pos hs).trans ?_
  by_cases ht : x.handed = x.total
  · rw [if_pos ht, decide_eq_false (not_not.2 ht)]
    exact drainRender_eq
  · rw [if_neg ht, decide_eq_true ht]
    exact (if_pos (h.resolve_left ht)).trans drainRender_eq

/-! ### The frames of a decode state (R152) -/

/-- The frames that a decode state has left. -/
def Decode.left (d : Decode) : Nat := (if d.voice.isSome then 1 else 0) + d.zeros + d.tail

theorem next_none : d.next = none ↔ d.left = 0 := by
  obtain ⟨voice, zeros, tail, inTail⟩ := d
  cases voice with
  | some samples => simp [Decode.next, Decode.left]
  | none => cases zeros with
    | succ n => simp [Decode.next, Decode.left]
    | zero => cases tail <;> simp [Decode.next, Decode.left]

theorem left_next {samples : List Sample} (h : d.next = some (samples, e)) : e.left + 1 = d.left := by
  obtain ⟨voice, zeros, tail, inTail⟩ := d
  cases voice with
  | some samples =>
    cases h
    simp only [Decode.left, Option.isSome_none, Option.isSome_some, if_true, Bool.false_eq_true, if_false]
    omega
  | none => cases zeros with
    | succ n =>
      cases h
      simp only [Decode.left]
      omega
    | zero => cases tail with
      | zero => cases h
      | succ n =>
        cases h
        simp only [Decode.left]
        omega

/-! ### The engine has taken what was handed over (R46) -/

/-- The context once a frame of its decode state has been handed over. -/
def RenderContext.hands (x : RenderContext) (rest : Decode) : RenderContext :=
  { x with decode := some rest, handed := x.handed + 1 }

theorem handOn_hands {samples : List Sample} (hs : x.stage = .output) (hd : x.decode = some d)
    (hn : d.next = some (samples, e)) : (s.setRender x).handOn =
      ((s.framed x.handed (bufferWrites x.order.buffer x.handed (sampleBytes samples))).setRender (x.hands e)).settleHanded := by
  cases x
  cases hs
  cases hd
  simp only [State.handOn, State.setRender, hn, sendFrame_eq]
  rfl

theorem handOn_empties (hs : x.stage = .output) (hd : x.decode = some d) (hn : d.next = none) (hstop : x.stop = false) :
    (s.setRender x).handOn = s.setRender { x with decode := none } := by
  cases x
  cases hs
  cases hd
  simp only [State.handOn, State.setRender, hn]
  exact if_neg fun h => Bool.false_ne_true (hstop.symm.trans h)

theorem handOn_stops (hs : x.stage = .output) (hd : x.decode = some d) (hn : d.next = none) (hstop : x.stop = true) :
    (s.setRender x).handOn = s.dropRenderReads.setRender (x.drains false) := by
  cases x
  cases hs
  cases hd
  simp only [State.handOn, State.setRender, hn]
  exact (if_pos hstop).trans drainRender_eq

/-! ### The grant of a frame's last write -/

/-- A grant that took a render frame's last write into flight has handed on. -/
theorem grant_renderWrite {a : Access} {frame : Nat} (hlen : s.grant.engine.flight.length = s.engine.flight.length + 1)
    (hlast : s.grant.engine.flight.getLast? = some a) (ha : a.purpose = .renderWrite frame true) :
    ∃ v : State, s.grant = v.handOn ∧ v.render = s.render := by
  by_cases hf : s.regs.part = .faulted
  · rw [State.grant, if_pos hf] at hlen
    omega
  cases hc : s.engine.choose with
  | none =>
    rw [grant_none hc] at hlen
    omega
  | some p =>
    obtain ⟨who, f⟩ := p
    cases hh : headOf who f.waiting with
    | none =>
      have hnone : s.grant = s := by
        rw [State.grant, if_neg hf]
        simp only [hc, hh]
      rw [hnone] at hlen
      omega
    | some q =>
      obtain ⟨before, b, after⟩ := q
      have hgrant := grant_some hf hc hh
      by_cases hb : ∃ n, b.purpose = .renderWrite n true
      · obtain ⟨n, hn⟩ := hb
        exact ⟨_, hgrant.trans (granted_render hn), rfl⟩
      · have hflight : s.grant.engine.flight = f.flight ++ [b] := by
          rw [hgrant, granted_frame fun n hn => hb ⟨n, hn⟩]
          rfl
        rw [hflight, List.getLast?_append, List.getLast?_singleton] at hlast
        cases Option.some.inj hlast
        exact absurd ⟨frame, ha⟩ hb

/-! ### Buffer writes that complete or fail (R153, R156) -/

theorem frameWritten_counts {frame : Nat} (hx : s.render = some x) (h : ∀ n, x.failed = some n → frame < n) :
    s.frameWritten frame = s.setRender { x with written := frame + 1 } := by
  rw [State.frameWritten, hx]
  refine if_pos ?_
  split
  · next n hn => exact decide_eq_true (h n hn)
  · rfl

theorem frameWritten_lost {frame n : Nat} (hx : s.render = some x) (hn : x.failed = some n) (h : n ≤ frame) :
    s.frameWritten frame = s := by
  rw [State.frameWritten, hx]
  dsimp only
  rw [hn]
  exact if_neg (by simpa using h)

/-- The lowest frame that has failed. -/
def RenderContext.lowestFailed (x : RenderContext) (frame : Nat) : Nat :=
  match x.failed with
  | some n => min n frame
  | none => frame

theorem frameFailed_eq {frame : Nat} (hx : s.render = some x) : s.frameFailed frame =
    s.dropRenderReads.setRender ({ x with failed := some (x.lowestFailed frame) }.drains x.truncated) := by
  rw [State.frameFailed, hx]
  exact drainRender_eq

theorem nextDue_who {who : Requester} {a : Access} : ∀ {l rest : List Access}, nextDue who l = some (a, rest) →
    a.who = who ∧ a.purpose.quiet = false
  | [], _, h => absurd h nofun
  | b :: l, rest, h => by
    rw [nextDue] at h
    split at h
    · next hb =>
      split at h
      · exact nextDue_who h
      · next hq =>
        cases h
        exact ⟨hb, Bool.eq_false_of_not_eq_true hq⟩
    · obtain ⟨⟨c, l'⟩, hc, heq⟩ := Option.map_eq_some_iff.1 h
      cases heq
      exact nextDue_who hc

theorem grantedAfter_eq {who : Requester} {a : Access} {after : List Access} (ha : a.who = who)
    (hq : a.purpose.quiet = false) : ∀ {before : List Access}, (∀ b ∈ before, b.who = who → b.purpose.quiet = true) →
    grantedAfter who (before ++ a :: after) = after
  | [], _ => if_pos ⟨ha, hq⟩
  | b :: before, h => by
    rw [List.cons_append, grantedAfter, if_neg fun hb => Bool.false_ne_true (hb.2.symm.trans (h b List.mem_cons_self hb.1))]
    exact grantedAfter_eq ha hq fun e he => h e (List.mem_cons_of_mem _ he)

/-- Settles O54: the grant of a last write, a write complete, a write failed, and the drained render. -/
theorem renderWritesCountAndEnd : Obligations.RenderWritesCountAndEnd := by
  unfold Obligations.RenderWritesCountAndEnd
  refine ⟨?_, ?_, ?_⟩
  · intro s t a frame x d hexec hlen hlast ha hx hs hd left room
    have ht : t = { s.grant with desk := t.desk } := by
      cases hexec
      exact report_frame
    have hengine : t.engine = s.grant.engine := by rw [ht]
    rw [hengine] at hlen hlast
    obtain ⟨v, hv, hrender⟩ := grant_renderWrite hlen hlast ha
    have hshown : t.render = (v.setRender x).handOn.render := by
      have hsame : v.setRender x = v := by rw [State.setRender, ← hx, ← hrender]
      rw [hsame, ← hv, ht]
    have hhands : 0 < left d → ∃ w e, left e + 1 = left d ∧ t.render = ((State.setRender w (x.hands e)).settleHanded).render := by
      intro hpos
      cases hn : d.next with
      | none => exact absurd (next_none.1 hn) (Nat.pos_iff_ne_zero.1 hpos)
      | some p =>
        obtain ⟨samples, e⟩ := p
        exact ⟨_, e, left_next hn, hshown.trans (congrArg State.render (handOn_hands hs hd hn))⟩
    refine ⟨fun h0 hstop => ?_, fun h0 hstop => ?_, fun hpos ht1 hr1 => ?_, fun hpos hend => ?_⟩
    · exact hshown.trans (congrArg State.render (handOn_empties hs hd (next_none.2 h0) hstop))
    · exact ⟨_, hshown.trans (congrArg State.render (handOn_stops hs hd (next_none.2 h0) hstop)), rfl, rfl, rfl, rfl⟩
    · obtain ⟨w, e, he, hw⟩ := hhands hpos
      refine ⟨e, hw.trans (congrArg State.render (settleHanded_other ?_ ?_)), he⟩
      · exact Nat.ne_of_lt ht1
      · exact Nat.ne_of_lt hr1
    · obtain ⟨w, e, he, hw⟩ := hhands hpos
      exact ⟨_, hw.trans (congrArg State.render (settleHanded_ends (x := x.hands e) hs hend)), rfl, rfl, rfl, rfl, rfl, rfl⟩
  · intro s a rest x frame last hdue ha hx u
    have hcomplete : exec .renderBufferWriteComplete s = done s (if last = true then u.frameWritten frame else u) := by
      refine congrArg (done s) ((onComplete_due hdue (by rw [ha]; rfl)).trans ?_)
      rw [ha]
      cases last <;> rfl
    refine ⟨fun hlast hcounts => ?_, fun hno => ?_, ?_⟩
    · rw [hcomplete, if_pos hlast, frameWritten_counts (s := u) hx hcounts]
      exact done_same rfl
    · have hsame : (if last = true then u.frameWritten frame else u) = u := by
        rcases hno with h | ⟨n, hn, hle⟩
        · exact if_neg (by rw [h]; nofun)
        · rw [frameWritten_lost (s := u) hx hn hle, ite_self]
      rw [hcomplete, hsame]
      exact done_same rfl
    · let w : State := { u with written := forgetFlight s.written [a.under (grantedAfter .render s.engine.flight)] }
      have hfail : exec .renderBufferWriteFailed s = done s (w.frameFailed frame) := by
        refine congrArg (done s) ?_
        rw [complete_due hdue (by rw [ha]; rfl)]
        dsimp only
        rw [ha]
        split
        · next hp => exact absurd hp hdue.unfaulted
        · next hp _ =>
          cases hp
          rfl
        · next hp => exact absurd rfl (hp frame last)
      rw [frameFailed_eq (s := w) hx] at hfail
      refine ⟨_, _, hfail.trans (done_same rfl), rfl, rfl, rfl, rfl, rfl, rfl, rfl, rfl, rfl, rfl, ?_, rfl⟩
      intro before after hflight hquiet stands
      obtain ⟨hwho, hq⟩ := nextDue_who hdue.next
      have hafter : grantedAfter .render s.engine.flight = after := by
        rw [hflight]
        exact grantedAfter_eq hwho hq hquiet
      have hread := fun n => read_forgetFlight_one s.written (a.under after) n
      have hstands : ∀ n, a.covers n → ((a.under after).settledAt n = true ↔ stands n) := fun n hn => settledAt_under hn
      change (∀ n, a.covers n → ¬ stands n → Memory.read (forgetFlight s.written
        [a.under (grantedAfter .render s.engine.flight)]) n = none) ∧ ∀ n, ¬ a.covers n ∨ stands n →
        Memory.read (forgetFlight s.written [a.under (grantedAfter .render s.engine.flight)]) n = Memory.read s.written n
      rw [hafter]
      refine ⟨fun n hn hno => (hread n).2 (covers_under.2 hn) (Bool.eq_false_iff.2 fun h => hno ((hstands n hn).1 h)), fun n hn =>
        (hread n).1 fun hc => ?_⟩
      have hcov := covers_under.1 hc
      exact (hstands n hcov).2 (hn.resolve_left (not_not.2 hcov))
  · intro s x hpart hx hs hnone code
    have hidle : s.outstanding Purpose.isRenderWrite = false := by
      rw [State.outstanding, List.any_eq_false]
      intro b hb hp
      cases hk : b.purpose with
      | renderWrite frame last => exact hnone b hb frame last hk
      | _ => rw [hk] at hp; exact Bool.false_ne_true hp
    have hexec : exec .renderDrainComplete s = done s (s.endRender x) := by
      refine congrArg (done s) ?_
      rw [hx]
      exact if_pos ⟨hs, works_active hpart, by rw [hidle]; exact Bool.false_ne_true⟩
    have hcode : x.answer = code := rfl
    have hlt : code < 256 := by
      simp only [code]
      split
      · decide
      · split
        · decide
        · split <;> decide
    refine ⟨_, hexec.trans (done_same rfl), rfl, rfl, rfl, rfl, ?_, rfl⟩
    rw [← resultBytes_eq hlt, ← hcode]
    rfl

end Sys2Proof.Machine
end

section
/-! PROOFS. Renders: the records that are asked for, and the parts of a frame in the buffer. -/

namespace Sys2Proof.Machine

open Sys2Proof

variable {s t u v : State} {x y : RenderContext} {sp : Span}

/-! ### The span copy (R150, R151) -/

theorem framesTo_eq (spans : List Span) (i : Nat) : ((spans.take i).map Span.frames).sum = spanStart spans i := rfl

theorem picks_iff {selection : Selection} :
    selection.picks sp = true ↔ selection = .both ∨ (selection = .instruction ↔ sp.instruction = true) := by
  cases selection <;> cases h : sp.instruction <;> simp [Selection.picks, h]

/-- A span is selected and begins below the end. -/
def RenderContext.outputs (x : RenderContext) (j : Nat) : Bool :=
  match x.spans[j]? with
  | some sp => x.order.selection.picks sp && decide (spanStart x.spans j < x.finish)
  | none => false

theorem outputs_iff {j : Nat} : x.outputs j = true ↔ ∃ sp, x.spans[j]? = some sp ∧ x.order.selection.picks sp = true ∧
    spanStart x.spans j < x.finish := by
  rw [RenderContext.outputs]
  cases x.spans[j]? with
  | none => simp
  | some sp => simp

theorem nextSpan_eq (x : RenderContext) (i : Nat) :
    x.nextSpan i = (List.range x.spans.length).find? fun j => i ≤ j && x.outputs j := rfl

theorem nextSpan_some {i j : Nat} (h : x.nextSpan i = some j) : x.outputs j = true := by
  rw [nextSpan_eq] at h
  have hj := List.find?_some h
  exact (Bool.and_eq_true_iff.1 hj).2

/-! ### Records asked for (R151) -/

/-- The read of a record of the span copy. -/
def recordRead (p : Setup) (span index : Nat) (sp : Span) : Access :=
  readOf .render (.renderRecordRead span index) ((p.poolBase + (8192 * sp.sheet + 64 * (sp.first + index))) % 2 ^ 64)

/-- The state with accesses handed over. -/
def State.reading (s : State) (reads : List Access) : State :=
  { s with engine := { s.engine with waiting := s.engine.waiting ++ reads } }

theorem reading_nil : s.reading [] = s := by
  rw [State.reading, List.append_nil]

theorem reading_append {l m : List Access} : (s.reading l).reading m = s.reading (l ++ m) := by
  rw [State.reading, State.reading, State.reading, ← List.append_assoc]

/-- The context with places joined to the read-ahead, and the next record to ask for. -/
def RenderContext.asks (x : RenderContext) (asked : List RenderPlace) (i j : Nat) : RenderContext :=
  { x with ahead := x.ahead ++ asked, askSpan := i, askIndex := j }

theorem asks_nil : x.asks [] x.askSpan x.askIndex = x := by
  rw [RenderContext.asks, List.append_nil]

theorem asks_asks {l m : List RenderPlace} {i j i' j' : Nat} : (x.asks l i j).asks m i' j' = x.asks (l ++ m) i' j' := by
  simp only [RenderContext.asks, List.append_assoc]

theorem askRecord_eq {span index i j : Nat} : s.askRecord { x with askSpan := i, askIndex := j } span index sp =
    (s.reading [recordRead s.setup span index sp]).setRender (x.asks [{ span := span, index := index, data := none }] i j) :=
  rfl

/-- A place that asking has joined to the read-ahead. -/
structure Asked (x : RenderContext) (p : RenderPlace) : Prop where
  unread : p.data = none
  place : ∃ sp, x.spans[p.span]? = some sp ∧ p.index < sp.count ∧ spanStart x.spans p.span < x.finish ∧
    x.order.selection.picks sp = true

/-- A read of a record by the render. -/
def Access.readsRecord (a : Access) : Prop :=
  a.who = .render ∧ a.action = .read 64 ∧ ∃ n i, a.purpose = .renderRecordRead n i

theorem recordRead_reads {p : Setup} {span index : Nat} : (recordRead p span index sp).readsRecord := ⟨rfl, rfl, _, _, rfl⟩

/-- What asking for records joins to the read-ahead, and hands over. -/
structure Asks (x : RenderContext) (asked : List RenderPlace) (reads : List Access) : Prop where
  places : ∀ p ∈ asked, Asked x p
  length : reads.length = asked.length
  reads : ∀ b ∈ reads, b.readsRecord
  most : asked ≠ [] → (x.ahead ++ asked).length ≤ 4

theorem Asks.nil : Asks x [] [] := ⟨by simp, rfl, by simp, fun h => absurd rfl h⟩

/-- One round of asking that asks for a record. -/
theorem askRender_asks_one {n j index : Nat} (hl : x.ahead.length < 4) (hj : x.nextSpan x.askSpan = some j)
    (hsp : x.spans[j]? = some sp) (hi : (if j = x.askSpan then x.askIndex else 0) = index)
    (hroom : index < sp.count ∧ x.leastStart j index < spanStart x.spans j + sp.frames)
    (hb : x.beginsBelowEnd j index sp = true) : State.askRender (n + 1) (s.setRender x) =
      State.askRender n ((s.reading [recordRead s.setup j index sp]).setRender
        (x.asks [{ span := j, index := index, data := none }] j (index + 1))) := by
  subst hi
  rw [State.askRender]
  refine (if_neg (Nat.not_le.2 hl)).trans ?_
  rw [hj]
  dsimp only
  rw [hsp]
  exact (if_pos hroom).trans ((if_pos hb).trans (congrArg (State.askRender n) askRecord_eq))

theorem askRender_asks : ∀ (n : Nat) {s : State} {x : RenderContext}, ∃ asked reads i j,
    State.askRender n (s.setRender x) = (s.reading reads).setRender (x.asks asked i j) ∧ Asks x asked reads ∧
    (4 ≤ x.ahead.length → asked = [] ∧ i = x.askSpan ∧ j = x.askIndex)
  | 0, s, x => ⟨[], [], _, _, by rw [State.askRender, reading_nil, asks_nil], .nil, fun _ => ⟨rfl, rfl, rfl⟩⟩
  | n + 1, s, x => by
    have hstays : State.askRender (n + 1) (s.setRender x) = s.setRender x → ∃ asked reads i j,
        State.askRender (n + 1) (s.setRender x) = (s.reading reads).setRender (x.asks asked i j) ∧ Asks x asked reads ∧
        (4 ≤ x.ahead.length → asked = [] ∧ i = x.askSpan ∧ j = x.askIndex) :=
      fun h => ⟨[], [], _, _, by rw [h, reading_nil, asks_nil], .nil, fun _ => ⟨rfl, rfl, rfl⟩⟩
    by_cases hl : 4 ≤ x.ahead.length
    · refine hstays ?_
      rw [State.askRender]
      exact if_pos hl
    have hlt : x.ahead.length < 4 := Nat.not_le.1 hl
    cases hj : x.nextSpan x.askSpan with
    | none =>
      refine hstays ?_
      rw [State.askRender]
      refine (if_neg hl).trans ?_
      rw [hj]
    | some j =>
      obtain ⟨sp, hsp, hpicks, hbelow⟩ := outputs_iff.1 (nextSpan_some hj)
      have hround : State.askRender (n + 1) (s.setRender x) =
          if (if j = x.askSpan then x.askIndex else 0) < sp.count ∧
            x.leastStart j (if j = x.askSpan then x.askIndex else 0) < spanStart x.spans j + sp.frames
          then if x.beginsBelowEnd j (if j = x.askSpan then x.askIndex else 0) sp = true
            then State.askRender n ((s.setRender x).askRecord
              { x with askSpan := j, askIndex := (if j = x.askSpan then x.askIndex else 0) + 1 } j
              (if j = x.askSpan then x.askIndex else 0) sp)
            else s.setRender x
          else State.askRender n ((s.setRender x).setRender { x with askSpan := j + 1, askIndex := 0 }) := by
        rw [State.askRender]
        refine (if_neg hl).trans ?_
        rw [hj]
        dsimp only
        rw [hsp]
      by_cases hroom : (if j = x.askSpan then x.askIndex else 0) < sp.count ∧
          x.leastStart j (if j = x.askSpan then x.askIndex else 0) < spanStart x.spans j + sp.frames
      · by_cases hb : x.beginsBelowEnd j (if j = x.askSpan then x.askIndex else 0) sp = true
        · rw [askRender_asks_one hlt hj hsp rfl hroom hb]
          generalize (if j = x.askSpan then x.askIndex else 0) = index at hroom
          obtain ⟨asked, reads, i, m, heq, hasks, -⟩ := askRender_asks n (s := s.reading [recordRead s.setup j index sp])
            (x := x.asks [{ span := j, index := index, data := none }] j (index + 1))
          refine ⟨{ span := j, index := index, data := none } :: asked, recordRead s.setup j index sp :: reads, i, m, ?_,
            ⟨?_, by rw [List.length_cons, hasks.length, List.length_cons], ?_, fun _ => ?_⟩, fun h => absurd h hl⟩
          · rw [heq, reading_append, asks_asks]
            rfl
          · intro p hp
            rcases List.mem_cons.1 hp with rfl | hp
            · exact ⟨rfl, sp, hsp, hroom.1, hbelow, hpicks⟩
            · obtain ⟨hunread, hplace⟩ := hasks.places p hp
              exact ⟨hunread, hplace⟩
          · intro b hb
            rcases List.mem_cons.1 hb with rfl | hb
            · exact recordRead_reads
            · exact hasks.reads b hb
          · by_cases hnil : asked = []
            · rw [hnil, List.length_append, List.length_singleton]
              omega
            · rw [List.append_cons]
              exact hasks.most hnil
        · refine hstays ?_
          rw [hround, if_pos hroom, if_neg hb]
      · obtain ⟨asked, reads, i, m, heq, hasks, hfull⟩ := askRender_asks n (s := s) (x := { x with askSpan := j + 1, askIndex := 0 })
        refine ⟨asked, reads, i, m, ?_, ⟨fun p hp => ?_, hasks.length, hasks.reads, hasks.most⟩, fun h => absurd h hl⟩
        · rw [hround, if_neg hroom]
          exact heq
        · obtain ⟨hunread, hplace⟩ := hasks.places p hp
          exact ⟨hunread, hplace⟩

/-! ### The parts of a frame (R174) -/

/-- The bytes of some parts. -/
def partsLength (parts : List (Nat × List Byte)) : Nat := (parts.map fun p => p.2.length).sum

theorem partsLength_cons {p : Nat × List Byte} {parts : List (Nat × List Byte)} :
    partsLength (p :: parts) = p.2.length + partsLength parts := by
  rw [partsLength, List.map_cons, List.sum_cons]
  rfl

/-- The parts of a frame follow one another from an address, none across a 64-byte line. -/
structure PartsFollow (address : Nat) (bytes : List Byte) (parts : List (Nat × List Byte)) : Prop where
  bytes : (parts.map Prod.snd).flatten = bytes
  part : ∀ i p, parts[i]? = some p → 1 ≤ p.2.length ∧ p.1 = address + partsLength (parts.take i) ∧ p.1 % 64 + p.2.length ≤ 64

theorem frameWrites_follow : ∀ (n : Nat) {address room : Nat} {bytes : List Byte}, address % 64 + room = 64 → 1 ≤ room →
    bytes.length + 64 ≤ 64 * n + room → PartsFollow address bytes (frameWrites n address room bytes)
  | 0, address, room, bytes, hr, h1, hlen => by
    have hnil : bytes = [] := List.eq_nil_of_length_eq_zero (by omega)
    rw [hnil]
    exact ⟨rfl, fun i p hp => absurd hp (by simp [frameWrites])⟩
  | n + 1, address, room, bytes, hr, h1, hlen => by
    by_cases hb : bytes = []
    · rw [hb]
      exact ⟨rfl, fun i p hp => absurd hp (by simp [frameWrites])⟩
    have hcons : frameWrites (n + 1) address room bytes =
        (address, bytes.take room) :: frameWrites n (address + room) 64 (bytes.drop room) := by
      rw [frameWrites, if_neg (by simpa using hb)]
    have ih := frameWrites_follow n (address := address + room) (room := 64) (bytes := bytes.drop room) (by omega) (by decide)
      (by rw [List.length_drop]; omega)
    have hpos : 0 < bytes.length := List.length_pos_iff.2 hb
    rw [hcons]
    refine ⟨?_, fun i p hp => ?_⟩
    · rw [List.map_cons, List.flatten_cons, ih.bytes, List.take_append_drop]
    · cases i with
      | zero =>
        cases hp
        refine ⟨?_, rfl, ?_⟩
        · rw [List.length_take]
          omega
        · rw [List.length_take]
          omega
      | succ i =>
        obtain ⟨hone, haddress, hline⟩ := ih.part i p hp
        have hlong : room ≤ bytes.length := by
          by_contra hshort
          rw [List.drop_eq_nil_of_le (by omega)] at hp
          cases n <;> simp [frameWrites] at hp
        refine ⟨hone, ?_, hline⟩
        rw [haddress, List.take_succ_cons, partsLength_cons, List.length_take, Nat.min_eq_left hlong, Nat.add_assoc]

theorem bufferWrites_follow {buffer i : Nat} {bytes : List Byte} (h : bytes.length = 240) :
    PartsFollow ((buffer + 240 * i) % 2 ^ 64) bytes (bufferWrites buffer i bytes) := by
  rw [bufferWrites]
  change PartsFollow _ _ (frameWrites 6 ((buffer + 240 * i) % 2 ^ 64) (64 - (buffer + 240 * i) % 2 ^ 64 % 64) bytes)
  exact frameWrites_follow 6 (by omega) (by omega) (by omega)

/-- The bytes an access writes, if it is a write. -/
def Access.bytes? (a : Access) : Option (List Byte) :=
  match a.action with
  | .write bytes => some bytes
  | .read _ => none

/-- The number of bytes an access writes, if it is a write. -/
def Access.length? (a : Access) : Option Nat :=
  match a.action with
  | .write bytes => some bytes.length
  | .read _ => none

/-- The writes of one frame: its bytes in order from the frame's place, none across a line, the last one marked. -/
structure FrameWritten (buffer frame : Nat) (bytes : List Byte) (writes : List Access) : Prop where
  own : ∀ b ∈ writes, b.who = .render ∧ ∃ ended, b.purpose = .renderWrite frame ended
  bytes : (writes.filterMap Access.bytes?).flatten = bytes
  place : ∀ i b, writes[i]? = some b → ∃ l, b.action = .write l ∧ 1 ≤ l.length ∧
    b.address = (buffer + 240 * frame + ((writes.take i).filterMap Access.length?).sum) % 2 ^ 64 ∧
    b.address % 64 + l.length ≤ 64 ∧ (b.purpose = .renderWrite frame true ↔ i + 1 = writes.length)

theorem frameAccesses_length {frame : Nat} : ∀ {parts : List (Nat × List Byte)}, (frameAccesses frame parts).length = parts.length
  | [] => rfl
  | (_, _) :: rest => congrArg (· + 1) (frameAccesses_length (parts := rest))

theorem frameAccesses_bytes {frame : Nat} : ∀ {parts : List (Nat × List Byte)},
    (frameAccesses frame parts).filterMap Access.bytes? = parts.map Prod.snd
  | [] => rfl
  | (_, bytes) :: rest => congrArg (bytes :: ·) (frameAccesses_bytes (parts := rest))

theorem frameAccesses_taken {frame : Nat} : ∀ {parts : List (Nat × List Byte)} {i : Nat},
    (((frameAccesses frame parts).take i).filterMap Access.length?).sum = partsLength (parts.take i)
  | [], i => by
    rw [frameAccesses, List.take_nil, List.take_nil]
    rfl
  | (_, _) :: _, 0 => rfl
  | (address, bytes) :: rest, i + 1 => by
    rw [List.take_succ_cons, partsLength_cons, ← frameAccesses_taken (frame := frame) (parts := rest)]
    exact List.sum_cons

theorem frameAccesses_get {frame : Nat} {b : Access} : ∀ {parts : List (Nat × List Byte)} {i : Nat},
    (frameAccesses frame parts)[i]? = some b → ∃ p, parts[i]? = some p ∧
      b = writeOf .render (.renderWrite frame (decide (i + 1 = parts.length))) (p.1 % 2 ^ 64) p.2
  | [], _, h => absurd h (by simp [frameAccesses])
  | (address, bytes) :: rest, 0, h => by
    obtain rfl := Option.some.inj h
    refine ⟨_, rfl, ?_⟩
    cases rest <;> simp
  | (address, bytes) :: rest, i + 1, h => by
    obtain ⟨p, hp, rfl⟩ := frameAccesses_get (parts := rest) h
    refine ⟨p, hp, ?_⟩
    rw [List.length_cons]
    simp only [Nat.add_right_cancel_iff]

theorem frameAccesses_written {buffer frame : Nat} {bytes : List Byte} (h : bytes.length = 240) :
    FrameWritten buffer frame bytes (frameAccesses frame (bufferWrites buffer frame bytes)) := by
  have hparts := bufferWrites_follow (buffer := buffer) (i := frame) h
  refine ⟨fun b hb => ?_, by rw [frameAccesses_bytes, hparts.bytes], fun i b hb => ?_⟩
  · obtain ⟨i, hi, hget⟩ := List.getElem_of_mem hb
    obtain ⟨p, -, rfl⟩ := frameAccesses_get (List.getElem?_eq_some_iff.2 ⟨hi, hget⟩)
    exact ⟨rfl, _, rfl⟩
  · obtain ⟨p, hp, rfl⟩ := frameAccesses_get hb
    obtain ⟨hone, haddress, hline⟩ := hparts.part i p hp
    refine ⟨p.2, rfl, hone, ?_, ?_, ?_⟩
    · rw [frameAccesses_taken]
      change p.1 % 2 ^ 64 = _
      rw [haddress, Nat.mod_add_mod]
    · change p.1 % 2 ^ 64 % 64 + p.2.length ≤ 64
      rw [Nat.mod_mod_of_dvd _ (by decide)]
      exact hline
    · rw [frameAccesses_length]
      simp [writeOf]

end Sys2Proof.Machine
end

section
/-! PROOFS. A render operation: a record decoded, its first frame handed over, and the end of the output. -/

namespace Sys2Proof.Machine

open Sys2Proof

variable {s t u v : State} {x y : RenderContext} {sp : Span} {d e : Decode} {place : RenderPlace} {data : List Byte}

/-! ### The frames of a record (R152, R153) -/

/-- The bytes of the first frame that a record decodes to. -/
def firstFrame (data : List Byte) : List Byte :=
  if byteAt data 0 % 16 = 15 then List.replicate 240 0#8 else sampleBytes (toSamples (decodeVoice data))

theorem length_sampleBytes (samples : List Sample) : (sampleBytes samples).length = 2 * samples.length := by
  rw [sampleBytes, List.length_flatMap]
  simp [Nat.mul_comm]

theorem sampleBytes_zero : sampleBytes zeroSamples = List.replicate 240 0#8 := by
  refine List.eq_replicate_iff.2 ⟨by rw [length_sampleBytes]; rfl, fun b hb => ?_⟩
  obtain ⟨x, hx, hb⟩ := List.mem_flatMap.1 hb
  rw [List.eq_of_mem_replicate hx] at hb
  simpa using hb

theorem length_firstFrame (data : List Byte) : (firstFrame data).length = 240 := by
  rw [firstFrame]
  split
  · exact List.length_replicate
  · rw [length_sampleBytes, toSamples, List.length_map, decodeVoice, List.length_cons, length_decodeFrom, List.length_map,
      List.length_range]

theorem isPause_iff : isPause data = true ↔ byteAt data 0 % 16 = 15 := by
  rw [isPause, scaleOf, beq_iff_eq]

theorem framesOf_eq (data : List Byte) : framesOf data = if byteAt data 0 % 16 = 15 then max 1 (byteAt data 1) else 1 := by
  rw [framesOf]
  simp only [isPause_iff]

theorem framesOf_pos (data : List Byte) : 1 ≤ framesOf data := by
  rw [framesOf_eq]
  split <;> omega

/-- The decode state of a record with these frames in range and these left over behind it. -/
def decoded (data : List Byte) (inRange tail : Nat) : Decode :=
  if isPause data then { voice := none, zeros := inRange, tail := tail, inTail := false }
  else
    { voice := if 0 < inRange then some (toSamples (decodeVoice data)) else none, zeros := 0, tail := tail, inTail := false }

theorem decoded_next {inRange tail : Nat} (h : 0 < inRange) (hf : inRange ≤ framesOf data) : ∃ samples,
    (decoded data inRange tail).next = some (samples, { voice := none, zeros := inRange - 1, tail := tail, inTail := false }) ∧
    sampleBytes samples = firstFrame data := by
  obtain ⟨n, rfl⟩ : ∃ n, inRange = n + 1 := ⟨inRange - 1, by omega⟩
  by_cases hp : isPause data = true
  · refine ⟨zeroSamples, ?_, ?_⟩
    · rw [decoded, if_pos hp]
      rfl
    · rw [firstFrame, if_pos (isPause_iff.1 hp)]
      exact sampleBytes_zero
  · rw [framesOf, if_neg hp] at hf
    obtain rfl : n = 0 := by omega
    refine ⟨toSamples (decodeVoice data), ?_, ?_⟩
    · rw [decoded, if_neg hp]
      rfl
    · rw [firstFrame, if_neg (mt isPause_iff.2 hp)]

/-! ### A record decoded (R46, R152) -/

/-- The context with its front record decoded, and the place of its walk. -/
def RenderContext.decodes (x : RenderContext) (d : Decode) (position : Nat) (ahead : List RenderPlace) (i j : Nat) :
    RenderContext :=
  { x with decode := some d, position := position, ahead := ahead, askSpan := i, askIndex := j }

/-- The state with one render operation spent. -/
def State.operated (s : State) : State := { s with codec := { s.codec with renderLeft := s.codec.renderLeft - 1 } }

theorem decodeRecord_within (hsp : x.spans[place.span]? = some sp) (hi : place.index + 1 < sp.count)
    (hw : max x.position (spanStart x.spans place.span) + framesOf data < spanStart x.spans place.span + sp.frames) :
    s.decodeRecord x place data = (s.operated.setRender (x.decodes
      (decoded data (min (min (max x.position (spanStart x.spans place.span) + framesOf data)
        (spanStart x.spans place.span + sp.frames)) x.finish - max x.position (spanStart x.spans place.span)) 0)
      (max x.position (spanStart x.spans place.span) + framesOf data) x.ahead.tail x.askSpan x.askIndex)).askOn.handOn := by
  simp only [State.decodeRecord, hsp, if_neg (Nat.not_le.2 hi), Nat.min_eq_left (Nat.le_of_lt hw), if_neg (Nat.not_le.2 hw)]
  rfl

/-- The reads of later records of a span given up, with their places. -/
def State.staleGiven (s : State) (span : Nat) : State :=
  s.abandon fun p => match p with
    | .renderRecordRead n _ => n == span
    | _ => false

theorem decodeRecord_ends (hsp : x.spans[place.span]? = some sp)
    (he : sp.count ≤ place.index + 1 ∨ spanStart x.spans place.span + sp.frames ≤
      max x.position (spanStart x.spans place.span) + framesOf data) :
    ∃ ahead i j, s.decodeRecord x place data = ((s.staleGiven place.span).operated.setRender (x.decodes
      (decoded data (min (min (max x.position (spanStart x.spans place.span) + framesOf data)
          (spanStart x.spans place.span + sp.frames)) x.finish - max x.position (spanStart x.spans place.span))
        (min (spanStart x.spans place.span + sp.frames) x.finish -
          (max x.position (spanStart x.spans place.span) + framesOf data)))
      (spanStart x.spans place.span + sp.frames) ahead i j)).askOn.handOn := by
  rw [State.decodeRecord, hsp]
  dsimp only
  generalize max x.position (spanStart x.spans place.span) + framesOf data = after at he ⊢
  generalize spanStart x.spans place.span + sp.frames = last at he ⊢
  have hposition : (if sp.count ≤ place.index + 1 then last else min after last) = last := by
    split
    · rfl
    · next hi => exact Nat.min_eq_right (he.resolve_left hi)
  have htail : (if sp.count ≤ place.index + 1 then min last x.finish - after else 0) = min last x.finish - after := by
    split
    · rfl
    · next hi =>
      have := he.resolve_left hi
      omega
  rw [hposition, htail, if_pos (Nat.le_refl _)]
  exact ⟨_, _, _, rfl⟩

/-- What asking for records and handing the first frame over leave of a decoded record. -/
theorem decodes_hands {position i j : Nat} {ahead : List RenderPlace} {samples : List Sample} (hs : x.stage = .output)
    (hn : d.next = some (samples, e)) : ∃ asked reads i' j',
      (s.setRender (x.decodes d position ahead i j)).askOn.handOn =
        (((s.reading (reads ++ frameAccesses x.handed (bufferWrites x.order.buffer x.handed (sampleBytes samples)))).setRender
          ((x.decodes e position asked i' j').hands e))).settleHanded ∧ ∀ b ∈ reads, b.readsRecord := by
  obtain ⟨asked, reads, i', j', hask, hasks, -⟩ := askRender_asks (Config.readAheadLimit + Config.spanLimit + 1) (s := s)
    (x := x.decodes d position ahead i j)
  refine ⟨ahead ++ asked, reads, i', j', ?_, hasks.reads⟩
  rw [State.askOn, hask, handOn_hands (x := (x.decodes d position ahead i j).asks asked i' j') hs rfl hn, ← reading_append]
  rfl

theorem exec_renderOperation {more : List RenderPlace} (hpart : s.regs.part = .running ∨ s.regs.part = .quiescing)
    (hx : s.render = some x) (hs : x.stage = .output) (hd : x.decode = none) (ha : x.ahead = place :: more)
    (hdata : place.data = some data) (hleft : 0 < s.codec.renderLeft) :
    exec .renderOperation s = done s (s.decodeRecord x place data) := by
  refine congrArg (done s) ?_
  rw [hx]
  dsimp only
  rw [hs, hd, ha]
  dsimp only
  rw [hdata]
  exact if_pos (by rw [works_active hpart, decide_eq_true hleft]; rfl)

theorem abandon_keeps {front l : List Access} {kind : Purpose → Bool} (h : ∀ b ∈ l, kind b.purpose = false) :
    ∃ before, ((s.reading (front ++ l)).abandon kind).engine.waiting = before ++ l := by
  simp only [State.abandon, State.reading, ← List.append_assoc, List.map_append (l₂ := l), map_abandoned h]
  exact ⟨_, rfl⟩

/-- Settles O53: the three ends of an operation, by whether more of the record's span and of the output follow. -/
theorem renderOperationHandsAFrame : Obligations.RenderOperationHandsAFrame := by
  unfold Obligations.RenderOperationHandsAFrame
  intro s x place more sp data hpart hx hs hd ha hdata hsp hleft start last first frames room codec frameWrites recordReads
    hfinish hlast
  have hexec := exec_renderOperation hpart hx hs hd ha hdata hleft
  have hframes : framesOf data = frames := framesOf_eq data
  have hone : 1 ≤ framesOf data := framesOf_pos data
  have hwritten : ∀ {bytes}, bytes = firstFrame data → frameWrites (frameAccesses x.handed (bufferWrites x.order.buffer x.handed bytes)) := by
    intro bytes hbytes
    have h := frameAccesses_written (buffer := x.order.buffer) (frame := x.handed) (bytes := bytes) (by
      rw [hbytes]
      exact length_firstFrame data)
    exact ⟨h.own, h.bytes.trans hbytes, h.place⟩
  have hreads : ∀ {reads : List Access}, (∀ b ∈ reads, b.readsRecord) → recordReads reads := by
    intro reads h b hb
    obtain ⟨hwho, haction, n, i, hp⟩ := h b hb
    exact ⟨n, i, hp, haction, hwho⟩
  have hrange : 0 < min (min (first + framesOf data) last) x.finish - first ∧
      min (min (first + framesOf data) last) x.finish - first ≤ framesOf data := by
    omega
  have hends : ∀ {w : State} {e : Decode} {position : Nat} {asked : List RenderPlace} {reads : List Access} {i j : Nat}
      {bytes : List Byte}, bytes = firstFrame data → w = { s with engine := w.engine, codec := codec } →
      x.handed + 1 = x.total ∨ x.handed + 1 = room → exec .renderOperation s = done s
        (((w.reading (reads ++ frameAccesses x.handed (bufferWrites x.order.buffer x.handed bytes))).setRender
          ((x.decodes e position asked i j).hands e))).settleHanded →
      ∃ t y front writes, exec .renderOperation s = .next t ∧ t.render = some y ∧ y.stage = .draining ∧
        y.handed = x.handed + 1 ∧ y.written = x.written ∧ y.truncated = decide (x.handed + 1 ≠ x.total) ∧
        y.decode = none ∧ y.ahead = [] ∧ t.engine.waiting = front ++ writes ∧ frameWrites writes ∧
        (∀ b ∈ t.engine.waiting ++ t.engine.flight, ∀ n i, b.purpose ≠ .renderRecordRead n i) ∧
        t = { s with render := t.render, engine := t.engine, codec := codec } := by
    intro w e position asked reads i j bytes hbytes hw hend hstep
    rw [settleHanded_ends (x := (x.decodes e position asked i j).hands e) hs hend, dropRenderReads_eq] at hstep
    have habsent := abandon_absent (s := w.reading (reads ++ frameAccesses x.handed (bufferWrites x.order.buffer x.handed bytes)))
      (kind := Purpose.ofRender) fun _ => rfl
    have hkept : ∀ b ∈ frameAccesses x.handed (bufferWrites x.order.buffer x.handed bytes), b.purpose.ofRender = false := by
      intro b hb
      obtain ⟨-, ended, hp⟩ := (hwritten hbytes).1 b hb
      rw [hp]
      rfl
    obtain ⟨front, hfront⟩ := abandon_keeps (s := w) (front := reads) hkept
    refine ⟨_, _, front, _, hstep.trans (done_same (by rw [hw]; rfl)), rfl, rfl, rfl, rfl, rfl, rfl, rfl, hfront,
      hwritten hbytes, fun b hb n i' hp => ?_, by rw [hw]; rfl⟩
    have hfalse := habsent b hb
    rw [hp] at hfalse
    exact Bool.false_ne_true hfalse.symm
  refine ⟨fun hi hw ht hr => ?_, fun he ht hr hnone => ?_, fun hend => ?_⟩
  · rw [decodeRecord_within hsp hi (hframes ▸ hw)] at hexec
    obtain ⟨samples, hn, hbytes⟩ := decoded_next (data := data) (tail := 0) hrange.1 hrange.2
    obtain ⟨asked, reads, i, j, heq, hrecords⟩ := decodes_hands (s := s.operated) (x := x)
      (position := first + framesOf data) (i := x.askSpan) (j := x.askIndex) (ahead := x.ahead.tail) hs hn
    rw [show State.handOn _ = _ from heq, settleHanded_other (Nat.ne_of_lt ht) (Nat.ne_of_lt hr)] at hexec
    exact ⟨_, _, reads, _, hexec.trans (done_same rfl), rfl, rfl, rfl, congrArg (first + ·) hframes, hs, nofun, rfl, rfl,
      hreads hrecords, hwritten hbytes, rfl⟩
  · obtain ⟨ahead, m, n, hdecode⟩ := decodeRecord_ends (s := s) hsp (he.imp id fun h => hframes ▸ h)
    have hkept : s.staleGiven place.span = s := abandon_none fun b hb => by
      split
      · next n i hp => exact beq_false_of_ne fun hn => hnone b hb i (hn ▸ hp)
      · rfl
    rw [hdecode, hkept] at hexec
    obtain ⟨samples, hn, hbytes⟩ := decoded_next (data := data) (tail := min last x.finish - (first + framesOf data)) hrange.1 hrange.2
    obtain ⟨asked, reads, i, j, heq, hrecords⟩ := decodes_hands (s := s.operated) (x := x) (position := last) (i := m) (j := n)
      (ahead := ahead) hs hn
    rw [show State.handOn _ = _ from heq, settleHanded_other (Nat.ne_of_lt ht) (Nat.ne_of_lt hr)] at hexec
    refine ⟨_, _, reads, _, hexec.trans (done_same rfl), rfl, rfl, rfl, rfl, hs, ?_, rfl, rfl, hreads hrecords, hwritten hbytes, rfl⟩
    rw [← hframes]
    rfl
  · by_cases he : sp.count ≤ place.index + 1 ∨ last ≤ first + framesOf data
    · obtain ⟨ahead, m, n, hdecode⟩ := decodeRecord_ends (s := s) hsp he
      obtain ⟨samples, hn, hbytes⟩ := decoded_next (data := data) (tail := min last x.finish - (first + framesOf data)) hrange.1
        hrange.2
      obtain ⟨asked, reads, i, j, heq, -⟩ := decodes_hands (s := (s.staleGiven place.span).operated) (x := x) (position := last)
        (i := m) (j := n) (ahead := ahead) hs hn
      rw [hdecode, show State.handOn _ = _ from heq] at hexec
      exact hends hbytes rfl hend hexec
    · obtain ⟨hi, hw⟩ := not_or.1 he
      rw [decodeRecord_within hsp (Nat.not_le.1 hi) (Nat.not_le.1 hw)] at hexec
      obtain ⟨samples, hn, hbytes⟩ := decoded_next (data := data) (tail := 0) hrange.1 hrange.2
      obtain ⟨asked, reads, i, j, heq, -⟩ := decodes_hands (s := s.operated) (x := x) (position := first + framesOf data)
        (i := x.askSpan) (j := x.askIndex) (ahead := x.ahead.tail) hs hn
      rw [show State.handOn _ = _ from heq] at hexec
      exact hends hbytes rfl hend hexec

end Sys2Proof.Machine
end

section
/-! PROOFS. Renders: the positions of a span copy, the frames selected, and OUTPUT begun. -/

namespace Sys2Proof.Machine

open Sys2Proof

variable {s t u v : State} {x y : RenderContext} {sp : Span} {spans : List Span}

/-! ### Positions in a span copy (R150) -/

theorem spanStart_succ {j : Nat} (h : spans[j]? = some sp) : spanStart spans (j + 1) = spanStart spans j + sp.frames := by
  rw [spanStart, spanStart, List.take_add_one, h, lengthOf_append]
  simp [lengthOf]

theorem spanStart_mono {i j : Nat} (h : i ≤ j) : spanStart spans i ≤ spanStart spans j := by
  obtain ⟨k, rfl⟩ := Nat.exists_eq_add_of_le h
  rw [spanStart, spanStart, List.take_add, lengthOf_append]
  exact Nat.le_add_right _ _

theorem spanStart_append {before after : List Span} : spanStart (before ++ after) before.length = lengthOf before := by
  rw [spanStart, List.take_left]

theorem get_append {before after : List Span} : (before ++ sp :: after)[before.length]? = some sp := by
  rw [List.getElem?_append_right (Nat.le_refl _), Nat.sub_self]
  rfl

/-- The span that holds a position, told by its place. -/
theorem spanHolding_eq {j p : Nat} (h : spans[j]? = some sp) (hp : spanStart spans j ≤ p) (hlt : p < spanStart spans j + sp.frames) :
    spanHolding spans p = some j := by
  rw [spanHolding, List.find?_range_eq_some]
  refine ⟨?_, List.mem_range.2 (List.getElem?_eq_some_iff.1 h).1, fun i hi => ?_⟩
  · rw [spanStart_succ h]
    exact decide_eq_true hlt
  · have hle : spanStart spans (i + 1) ≤ spanStart spans j := spanStart_mono hi
    simp only [Bool.not_eq_true', decide_eq_false_iff_not]
    omega

/-! ### The frames selected (R151, R154) -/

/-- The positions of a range that fall into the span at a place. -/
def spanInRange (spans : List Span) (first last j : Nat) (sp : Span) : Nat :=
  min last (spanStart spans j + sp.frames) - max first (spanStart spans j)

theorem selectedFrames_ge {selection : Selection} {first last j : Nat} (h : spans[j]? = some sp)
    (hp : selection.picks sp = true) : spanInRange spans first last j sp ≤ selectedFrames spans selection first last := by
  rw [selectedFrames]
  refine List.le_sum_of_mem (List.mem_map.2 ⟨j, List.mem_range.2 (List.getElem?_eq_some_iff.1 h).1, ?_⟩)
  rw [h]
  exact if_pos hp

theorem selectedFrames_zero {selection : Selection} {first last : Nat}
    (h : ∀ j sp, spans[j]? = some sp → selection.picks sp = true → spanInRange spans first last j sp = 0) :
    selectedFrames spans selection first last = 0 := by
  rw [selectedFrames]
  refine List.sum_eq_zero fun n hn => ?_
  obtain ⟨j, -, rfl⟩ := List.mem_map.1 hn
  split
  · next sp hsp =>
    split
    · next hp => exact h j sp hsp hp
    · rfl
  · rfl

/-! ### OUTPUT begins (R151) -/

/-- The context of a render whose OUTPUT begins. -/
def RenderContext.opens (x : RenderContext) : RenderContext :=
  { x with stage := .output, total := selectedFrames x.spans x.order.selection x.start x.finish }

theorem beginOutput_drains (h : selectedFrames x.spans x.order.selection x.start x.finish = 0) :
    s.beginOutput x = s.dropRenderReads.setRender ({ x with total := 0 }.drains false) :=
  (if_pos h).trans drainRender_eq

theorem beginOutput_opens (h : 0 < selectedFrames x.spans x.order.selection x.start x.finish) :
    s.beginOutput x = (s.setRender x.opens).askOn :=
  if_neg (Nat.pos_iff_ne_zero.1 h)

theorem nextSpan_self {j : Nat} (h : x.outputs j = true) : x.nextSpan j = some j := by
  rw [nextSpan_eq, List.find?_range_eq_some]
  obtain ⟨sp, hsp, -⟩ := outputs_iff.1 h
  refine ⟨by simpa using h, List.mem_range.2 (List.getElem?_eq_some_iff.1 hsp).1, fun i hi => ?_⟩
  rw [decide_eq_false (Nat.not_le.2 hi)]
  rfl

theorem leastStart_le {span index p : Nat} (ha : x.ahead = []) (h1 : x.position ≤ p) (h2 : spanStart x.spans span ≤ p) :
    x.leastStart span index ≤ p := by
  rw [RenderContext.leastStart, ha, List.map_nil, List.sum_nil, Nat.add_zero]
  split
  · exact h1
  · exact h2

/-- OUTPUT begins with asking for the record at the place asked for, where it is sure to begin below the end. -/
theorem beginOutput_asks {j index : Nat} (hj : x.askSpan = j) (hi : x.askIndex = index) (ha : x.ahead = [])
    (hsp : x.spans[j]? = some sp) (hp : x.order.selection.picks sp = true) (hcount : index < sp.count)
    (hfrom : spanStart x.spans j ≤ x.position) (hto : x.position < spanStart x.spans j + sp.frames)
    (hend : x.position < x.finish) (hsel : 0 < selectedFrames x.spans x.order.selection x.start x.finish) :
    ∃ asked reads m n, s.beginOutput x = (s.reading (recordRead s.setup j index sp :: reads)).setRender
        (x.opens.asks ({ span := j, index := index, data := none } :: asked) m n) ∧
      (∀ b ∈ reads, b.readsRecord) ∧ (asked.length + 1 ≤ 4) := by
  subst hj
  subst hi
  have hout : x.opens.outputs x.askSpan = true := outputs_iff.2 ⟨sp, hsp, hp, Nat.lt_of_le_of_lt hfrom hend⟩
  have hleast : x.opens.leastStart x.askSpan x.askIndex ≤ x.position := leastStart_le ha (Nat.le_refl _) hfrom
  have hbelow : x.opens.beginsBelowEnd x.askSpan x.askIndex sp = true := by
    have hknown : x.opens.startKnown x.askSpan x.askIndex = true := by
      rw [RenderContext.startKnown, show x.opens.ahead = [] from ha]
      rfl
    rw [RenderContext.beginsBelowEnd, hknown, Bool.true_or, Bool.and_true]
    exact decide_eq_true (Nat.lt_of_le_of_lt hleast hend)
  have hfirst := askRender_asks_one (s := s) (n := Config.readAheadLimit + Config.spanLimit) (x := x.opens) (index := x.askIndex)
    (by rw [show x.opens.ahead = [] from ha]; decide) (nextSpan_self hout) hsp (if_pos rfl)
    ⟨hcount, Nat.lt_of_le_of_lt hleast hto⟩ hbelow
  obtain ⟨asked, reads, m, n, heq, hasks, -⟩ := askRender_asks (Config.readAheadLimit + Config.spanLimit)
    (s := s.reading [recordRead s.setup x.askSpan x.askIndex sp])
    (x := x.opens.asks [{ span := x.askSpan, index := x.askIndex, data := none }] x.askSpan (x.askIndex + 1))
  refine ⟨asked, reads, m, n, ?_, hasks.reads, ?_⟩
  · rw [beginOutput_opens hsel]
    refine hfirst.trans (heq.trans ?_)
    rw [reading_append, asks_asks]
    rfl
  · by_cases hnil : asked = []
    · rw [hnil]
      decide
    · have hmost := hasks.most hnil
      rw [RenderContext.asks, show x.opens.ahead = [] from ha] at hmost
      simpa [Nat.add_comm] using hmost

end Sys2Proof.Machine
end

section
/-! PROOFS. Renders: a render activated, its card and index lines read, and its range fixed. -/

namespace Sys2Proof.Machine

open Sys2Proof

variable {s t u v : State} {x y : RenderContext} {sp q : Span} {spans : List Span}

/-! ### Activation, card and index lines (R148, R149) -/

/-- The reads of a render's card. -/
def cardReads (p : Setup) (card : Nat) : List Access :=
  (List.range 4).map fun n => readOf .render (.renderCardRead (n == 3)) ((p.cardBase + (256 * card + 64 * n)) % 2 ^ 64)

theorem readRenderCard_eq (s : State) (card : Nat) : s.readRenderCard card = s.reading (cardReads s.setup card) := by
  have hwaiting : s.engine.waiting ++ cardReads s.setup card = s.engine.waiting ++ (cardReads s.setup card).take 1 ++
      ((cardReads s.setup card).drop 1).take 1 ++ ((cardReads s.setup card).drop 2).take 1 ++ (cardReads s.setup card).drop 3 := by
    simp only [List.append_assoc]
    rfl
  rw [State.reading, hwaiting]
  rfl

theorem exec_renderActivate {k : OrderSlot} {more : List OrderSlot} {o : RenderOrder}
    (hpart : s.regs.part = .running ∨ s.regs.part = .quiescing) (hx : s.render = none) (hr : s.orders.renders = k :: more)
    (ho : s.orders.accepted[k] = some (.render o)) :
    exec .renderActivate s = done s ((s.reading (cardReads s.setup o.card)).setRender (freshRender k o)) := by
  have hactivate : s.activateRender = (s.reading (cardReads s.setup o.card)).setRender (freshRender k o) := by
    rw [State.activateRender, hx, hr]
    dsimp only
    rw [ho]
    exact readRenderCard_eq _ _
  rw [← hactivate]
  exact congrArg (done s) (if_pos (works_active hpart))

theorem exec_renderCardRead {a : Access} {rest : List Access} {data : List Byte} (hdue : Due s .render a rest)
    (ha : a.purpose = .renderCardRead true) (hx : s.render = some x) (hs : x.stage = .card) :
    exec (.renderCardReadComplete data) s = done s ((s.landed rest).takeRenderCard x data) := by
  refine congrArg (done s) ((onComplete_due hdue (by rw [ha]; rfl)).trans ?_)
  rw [show (s.landed rest).render = some x from hx]
  exact if_pos hs

theorem exec_renderIndexRead {a : Access} {rest : List Access} {data : List Byte} (hdue : Due s .render a rest)
    (ha : a.purpose = .renderIndexRead) (hx : s.render = some x) (hs : x.stage = .index) :
    exec (.renderIndexReadComplete data) s = done s ((s.landed rest).takeRenderLine x data) := by
  refine congrArg (done s) ((onComplete_due hdue (by rw [ha]; rfl)).trans ?_)
  rw [show (s.landed rest).render = some x from hx]
  exact if_pos hs

/-- The entries of an index line that pass the tests. -/
def passing (sheetCount : Nat) (data : List Byte) (n : Nat) : List Span :=
  ((List.range n).map (spanAt data)).filter fun sp =>
    decide (sp.sheet < sheetCount ∧ 1 ≤ sp.first ∧ sp.first ≤ 127 ∧ 1 ≤ sp.count ∧
      sp.count ≤ 127 ∧ sp.first + sp.count - 1 ≤ 127 ∧ 1 ≤ sp.frames ∧ sp.frames ≤ 32385)

theorem passing_eq (sheetCount : Nat) (data : List Byte) (n : Nat) :
    ((List.range n).map (spanAt data)).filter (spanPasses sheetCount) = passing sheetCount data n := by
  refine List.filter_congr fun sp _ => ?_
  rw [Bool.eq_iff_iff]
  simp [spanPasses, and_assoc]

theorem takeRenderLine_more {data : List Byte} (h : x.line + 1 < (x.spanCount + 7) / 8) : s.takeRenderLine x data =
    s.readRenderIndex { x with line := x.line + 1, spans := x.spans ++ passing s.setup.sheetCount data 8 } := by
  have height : min 8 (x.spanCount - 8 * x.line) = 8 := by omega
  rw [State.takeRenderLine, height, passing_eq]
  exact if_pos h

theorem takeRenderLine_last {data : List Byte} (h : (x.spanCount + 7) / 8 ≤ x.line + 1) : s.takeRenderLine x data =
    s.fixRange { x with spans := x.spans ++ passing s.setup.sheetCount data (min 8 (x.spanCount - 8 * x.line)) } := by
  rw [State.takeRenderLine, passing_eq]
  exact if_neg (Nat.not_lt.2 h)

/-! ### The range fixed (R150, R151) -/

/-- The context with the end of its range. -/
def RenderContext.ranged (x : RenderContext) : RenderContext := { x with finish := rangeEnd x.order (lengthOf x.spans) }

theorem fixRange_drains (h : x.ranged.finish ≤ x.order.start) :
    s.fixRange x = s.dropRenderReads.setRender (x.ranged.drains false) :=
  (if_pos h).trans drainRender_eq

theorem fixRange_at {j : Nat} (h : x.order.start < x.ranged.finish) (hj : spanHolding x.spans x.order.start = some j)
    (hsp : x.spans[j]? = some sp) : s.fixRange x =
      if x.order.selection.picks sp ∧ x.order.start = spanStart x.spans j then
        s.beginOutput { x.ranged with
          start := x.order.start, position := x.order.start, askSpan := j, askIndex := 0 }
      else if x.order.selection.picks sp then
        (s.reading [recordRead s.setup j 0 sp]).setRender { x.ranged with
          stage := .seek, position := spanStart x.spans j, askSpan := j, askIndex := 1 }
      else s.beginOutput { x.ranged with
        start := x.order.start, position := spanStart x.spans ((x.ranged.nextSpan (j + 1)).getD x.spans.length),
        askSpan := (x.ranged.nextSpan (j + 1)).getD x.spans.length, askIndex := 0 } := by
  rw [State.fixRange]
  refine (if_neg (Nat.not_le.2 h)).trans ?_
  dsimp only
  rw [hj]
  dsimp only
  rw [hsp]
  rfl

/-- What fixing the range or beginning OUTPUT leaves of a render's context. -/
structure Carried (x y : RenderContext) : Prop where
  spans : y.spans = x.spans
  finish : y.finish = x.finish
  handed : y.handed = x.handed
  written : y.written = x.written
  order : y.order = x.order

theorem beginOutput_carries {z : RenderContext} (h : Carried x z) :
    ∃ y e, s.beginOutput z = { s with engine := e, render := some y } ∧ Carried x y := by
  have hcarried : ∀ {y : RenderContext}, Carried z y → Carried x y := fun g => ⟨g.spans.trans h.spans, g.finish.trans h.finish,
    g.handed.trans h.handed, g.written.trans h.written, g.order.trans h.order⟩
  by_cases hsel : selectedFrames z.spans z.order.selection z.start z.finish = 0
  · rw [beginOutput_drains hsel]
    exact ⟨_, _, rfl, hcarried ⟨rfl, rfl, rfl, rfl, rfl⟩⟩
  · rw [beginOutput_opens (Nat.pos_iff_ne_zero.2 hsel)]
    obtain ⟨asked, reads, i, j, heq, -⟩ := askRender_asks (Config.readAheadLimit + Config.spanLimit + 1) (s := s) (x := z.opens)
    rw [State.askOn, heq]
    exact ⟨_, _, rfl, hcarried ⟨rfl, rfl, rfl, rfl, rfl⟩⟩

theorem fixRange_carries (s : State) (x : RenderContext) :
    ∃ y e, s.fixRange x = { s with engine := e, render := some y } ∧ Carried x.ranged y := by
  have hdrains : ∃ y e, (s.setRender x.ranged).drainRender false = { s with engine := e, render := some y } ∧ Carried x.ranged y := by
    rw [drainRender_eq]
    exact ⟨_, _, rfl, rfl, rfl, rfl, rfl, rfl⟩
  by_cases h : x.ranged.finish ≤ x.order.start
  · rw [fixRange_drains h]
    exact ⟨_, _, rfl, rfl, rfl, rfl, rfl, rfl⟩
  cases hj : spanHolding x.spans x.order.start with
  | none =>
    have heq : s.fixRange x = (s.setRender x.ranged).drainRender false := by
      rw [State.fixRange]
      refine (if_neg h).trans ?_
      dsimp only
      rw [hj]
      rfl
    rw [heq]
    exact hdrains
  | some j =>
    cases hsp : x.spans[j]? with
    | none =>
      have heq : s.fixRange x = (s.setRender x.ranged).drainRender false := by
        rw [State.fixRange]
        refine (if_neg h).trans ?_
        dsimp only
        rw [hj]
        dsimp only
        rw [hsp]
        rfl
      rw [heq]
      exact hdrains
    | some sp =>
      rw [fixRange_at (Nat.not_le.1 h) hj hsp]
      split
      · exact beginOutput_carries ⟨rfl, rfl, rfl, rfl, rfl⟩
      · split
        · exact ⟨_, _, rfl, rfl, rfl, rfl, rfl, rfl⟩
        · exact beginOutput_carries ⟨rfl, rfl, rfl, rfl, rfl⟩

/-! ### The spans behind one that is not selected (R151) -/

theorem get_split {α : Type} : ∀ {l : List α} {n : Nat} {a : α}, l[n]? = some a → ∃ mid tail, l = mid ++ a :: tail ∧ mid.length = n
  | [], n, a, h => absurd h (by simp)
  | b :: l, 0, a, h => by
    obtain rfl := Option.some.inj h
    exact ⟨[], l, rfl, rfl⟩
  | b :: l, n + 1, a, h => by
    obtain ⟨mid, tail, rfl, rfl⟩ := get_split (l := l) h
    exact ⟨b :: mid, tail, rfl, rfl⟩

theorem get_behind {before after : List Span} {i : Nat} (hi : before.length < i) :
    (before ++ sp :: after)[i]? = after[i - (before.length + 1)]? := by
  rw [List.getElem?_append_right (Nat.le_of_lt hi)]
  obtain ⟨n, rfl⟩ := Nat.exists_eq_add_of_lt hi
  rw [show before.length + n + 1 - before.length = n + 1 by omega, show before.length + n + 1 - (before.length + 1) = n by omega,
    List.getElem?_cons_succ]

theorem spanStart_behind {before mid tail : List Span} : spanStart (before ++ sp :: (mid ++ q :: tail)) (before.length + 1 + mid.length) =
    lengthOf before + sp.frames + lengthOf mid := by
  have hsplit : before ++ sp :: (mid ++ q :: tail) = (before ++ sp :: mid) ++ q :: tail := by simp
  have hlength : before.length + 1 + mid.length = (before ++ sp :: mid).length := by
    simp only [List.length_append, List.length_cons]
    omega
  rw [hsplit, hlength, spanStart_append, lengthOf_append, lengthOf_cons, Nat.add_assoc]

theorem nextSpan_eq_some {i j : Nat} (hj : x.outputs j = true) (hi : i ≤ j) (hno : ∀ m, i ≤ m → m < j → x.outputs m = false) :
    x.nextSpan i = some j := by
  rw [nextSpan_eq, List.find?_range_eq_some]
  obtain ⟨sp, hsp, -⟩ := outputs_iff.1 hj
  refine ⟨by simp [hi, hj], List.mem_range.2 (List.getElem?_eq_some_iff.1 hsp).1, fun m hm => ?_⟩
  by_cases him : i ≤ m
  · rw [hno m him hm]
    simp
  · rw [decide_eq_false him]
    rfl

/-! ### The range fixed, by the span that holds its start (R151) -/

section FixRange

variable {before after mid tail : List Span}

theorem spanHolding_append {p : Nat} (h1 : lengthOf before ≤ p) (h2 : p < lengthOf before + sp.frames) :
    spanHolding (before ++ sp :: after) p = some before.length :=
  spanHolding_eq get_append (by rw [spanStart_append]; exact h1) (by rw [spanStart_append]; exact h2)

/-- A start frame on the first position of a selected span: OUTPUT begins there with its first record. -/
theorem fixRange_begins (hs : x.spans = before ++ sp :: after) (ha : x.ahead = []) (hlt : x.order.start < x.ranged.finish)
    (hfirst : x.order.start = lengthOf before) (hframes : 1 ≤ sp.frames) (hcount : 1 ≤ sp.count)
    (hp : x.order.selection.picks sp = true) : ∃ y reads, s.fixRange x =
      (s.reading (recordRead s.setup before.length 0 sp :: reads)).setRender y ∧ (∀ b ∈ reads, b.readsRecord) ∧
      y.stage = .output ∧ y.start = lengthOf before ∧
      y.ahead.head? = some { span := before.length, index := 0, data := none } := by
  have hget : x.spans[before.length]? = some sp := hs ▸ get_append
  have hstart : spanStart x.spans before.length = lengthOf before := hs ▸ spanStart_append
  rw [fixRange_at hlt (hs ▸ spanHolding_append (Nat.le_of_eq hfirst.symm) (by omega)) hget,
    if_pos ⟨hp, hfirst.trans hstart.symm⟩]
  have hsel : 0 < selectedFrames x.spans x.order.selection x.order.start x.ranged.finish := by
    refine Nat.lt_of_lt_of_le ?_ (selectedFrames_ge hget hp)
    rw [spanInRange]
    omega
  obtain ⟨asked, reads, m, n, heq, hreads, -⟩ := beginOutput_asks (s := s) (j := before.length) (index := 0)
    (x := { x.ranged with start := x.order.start, position := x.order.start, askSpan := before.length, askIndex := 0 })
    rfl rfl ha hget hp hcount (hstart.trans hfirst.symm).le (by
      change x.order.start < spanStart x.spans before.length + sp.frames
      omega) hlt hsel
  refine ⟨_, reads, heq, hreads, rfl, hfirst, ?_⟩
  rw [RenderContext.asks]
  exact (congrArg (fun l : List RenderPlace => (l ++ _).head?) ha).trans rfl

/-- A start frame inside a selected span: its records are read from the first. -/
theorem fixRange_seeks (hs : x.spans = before ++ sp :: after) (hlt : x.order.start < x.ranged.finish)
    (h1 : lengthOf before < x.order.start) (h2 : x.order.start < lengthOf before + sp.frames)
    (hp : x.order.selection.picks sp = true) : ∃ y, s.fixRange x =
      (s.reading [recordRead s.setup before.length 0 sp]).setRender y ∧ y.stage = .seek ∧ y.position = lengthOf before := by
  have hget : x.spans[before.length]? = some sp := hs ▸ get_append
  have hstart : spanStart x.spans before.length = lengthOf before := hs ▸ spanStart_append
  rw [fixRange_at hlt (hs ▸ spanHolding_append (Nat.le_of_lt h1) h2) hget, if_neg fun h => by omega, if_pos hp]
  exact ⟨_, rfl, rfl, hstart⟩

/-- A start frame in a span that is not selected, none selected behind it below the end: the render drains. -/
theorem fixRange_ends (hs : x.spans = before ++ sp :: after) (hlt : x.order.start < x.ranged.finish)
    (h1 : lengthOf before ≤ x.order.start) (h2 : x.order.start < lengthOf before + sp.frames)
    (hp : x.order.selection.picks sp = false)
    (hno : ∀ mid q tail, after = mid ++ q :: tail → x.order.selection.picks q = true →
      x.ranged.finish ≤ lengthOf before + sp.frames + lengthOf mid) : ∃ y, s.fixRange x = s.dropRenderReads.setRender y ∧
      y.stage = .draining ∧ y.truncated = false ∧ y.start = x.order.start := by
  have hget : x.spans[before.length]? = some sp := hs ▸ get_append
  have hstart : spanStart x.spans before.length = lengthOf before := hs ▸ spanStart_append
  have hzero : selectedFrames x.spans x.order.selection x.order.start x.ranged.finish = 0 := by
    refine selectedFrames_zero fun i e he hpe => ?_
    rw [spanInRange]
    rcases Nat.lt_trichotomy i before.length with hi | rfl | hi
    · have hend := spanStart_succ he
      have hle : spanStart x.spans (i + 1) ≤ spanStart x.spans before.length := spanStart_mono hi
      omega
    · cases Option.some.inj (hget.symm.trans he)
      exact absurd (hp.symm.trans hpe) Bool.false_ne_true
    · rw [hs, get_behind hi] at he
      obtain ⟨mid, tail, hafter, hlength⟩ := get_split he
      have hplace : i = before.length + 1 + mid.length := by omega
      have hbelow := hno mid e tail hafter hpe
      have hthere : spanStart x.spans i = lengthOf before + sp.frames + lengthOf mid := by
        rw [hs, hafter, hplace, spanStart_behind]
      omega
  rw [fixRange_at hlt (hs ▸ spanHolding_append h1 h2) hget, if_neg (fun h => Bool.false_ne_true (hp.symm.trans h.1)),
    if_neg (by rw [hp]; exact Bool.false_ne_true)]
  exact ⟨_, beginOutput_drains hzero, rfl, rfl, rfl⟩

/-- A start frame in a span that is not selected: OUTPUT begins with the next selected span, where it begins below
the end. -/
theorem fixRange_skips (hs : x.spans = before ++ sp :: (mid ++ q :: tail)) (ha : x.ahead = [])
    (hlt : x.order.start < x.ranged.finish)
    (h1 : lengthOf before ≤ x.order.start) (h2 : x.order.start < lengthOf before + sp.frames)
    (hp : x.order.selection.picks sp = false) (hq : x.order.selection.picks q = true)
    (hmid : ∀ e ∈ mid, x.order.selection.picks e = false) (hframes : 1 ≤ q.frames) (hcount : 1 ≤ q.count)
    (hbelow : lengthOf before + sp.frames + lengthOf mid < x.ranged.finish) : ∃ y reads, s.fixRange x =
      (s.reading (recordRead s.setup (before.length + 1 + mid.length) 0 q :: reads)).setRender y ∧ (∀ b ∈ reads, b.readsRecord) ∧
      y.stage = .output ∧ y.start = x.order.start ∧ y.position = lengthOf before + sp.frames + lengthOf mid ∧
      y.ahead.head? = some { span := before.length + 1 + mid.length, index := 0, data := none } := by
  have hget : x.spans[before.length]? = some sp := hs ▸ get_append
  have hstart : spanStart x.spans before.length = lengthOf before := hs ▸ spanStart_append
  have hnext : x.spans[before.length + 1 + mid.length]? = some q := by
    rw [hs, get_behind (by omega), show before.length + 1 + mid.length - (before.length + 1) = mid.length by omega]
    exact get_append
  have hplace : spanStart x.spans (before.length + 1 + mid.length) = lengthOf before + sp.frames + lengthOf mid :=
    hs ▸ spanStart_behind
  have hfound : x.ranged.nextSpan (before.length + 1) = some (before.length + 1 + mid.length) := by
    refine nextSpan_eq_some (outputs_iff.2 ⟨q, hnext, hq, hplace.le.trans_lt hbelow⟩) (Nat.le_add_right _ _) fun m hm hm' => ?_
    refine Bool.eq_false_iff.2 fun hout => ?_
    obtain ⟨e, he, hpe, -⟩ := outputs_iff.1 hout
    have hlt' : m - (before.length + 1) < mid.length := by omega
    have he' : mid[m - (before.length + 1)]? = some e := by
      rw [← List.getElem?_append_left (l₂ := q :: tail) hlt', ← get_behind (sp := sp) (before := before) (by omega), ← hs]
      exact he
    exact Bool.false_ne_true ((hmid e (List.mem_of_getElem? he')).symm.trans hpe)
  have hsel : 0 < selectedFrames x.spans x.order.selection x.order.start x.ranged.finish := by
    refine Nat.lt_of_lt_of_le ?_ (selectedFrames_ge hnext hq)
    rw [spanInRange]
    omega
  rw [fixRange_at hlt (hs ▸ spanHolding_append h1 h2) hget, if_neg (fun h => Bool.false_ne_true (hp.symm.trans h.1)),
    if_neg (by rw [hp]; exact Bool.false_ne_true), hfound, Option.getD_some]
  obtain ⟨asked, reads, m, n, heq, hreads, -⟩ := beginOutput_asks (s := s) (j := before.length + 1 + mid.length) (index := 0)
    (x := { x.ranged with
      start := x.order.start, position := spanStart x.spans (before.length + 1 + mid.length),
      askSpan := before.length + 1 + mid.length, askIndex := 0 })
    rfl rfl ha hnext hq hcount (Nat.le_refl _) (Nat.lt_add_of_pos_right hframes) (hplace.le.trans_lt hbelow) hsel
  refine ⟨_, reads, heq, hreads, rfl, rfl, hplace, ?_⟩
  rw [RenderContext.asks]
  exact (congrArg (fun l : List RenderPlace => (l ++ _).head?) ha).trans rfl

end FixRange

end Sys2Proof.Machine
end

section
/-! PROOFS. Renders: the records read, and what SEEK comes to. -/

namespace Sys2Proof.Machine

open Sys2Proof

variable {s t u v : State} {x y : RenderContext} {sp q : Span} {spans : List Span} {data : List Byte}

/-! ### The card read (R149) -/

theorem takeRenderCard_reads (hi : fieldAt data 0x40 2 < s.setup.sheetCount) (hc : 1 ≤ fieldAt data 0x42 2) :
    s.takeRenderCard x data = (s.reading [readOf .render .renderIndexRead
      ((s.setup.poolBase + (8192 * fieldAt data 0x40 2 + 64 * 0)) % 2 ^ 64)]).setRender { x with
        stage := .index, index := fieldAt data 0x40 2, spanCount := min (fieldAt data 0x42 2) 1024, line := 0 } := by
  have hnone : ¬ (s.setup.sheetCount ≤ fieldAt data 0x40 2 ∨ min (fieldAt data 0x42 2) 1024 = 0) := by omega
  exact if_neg hnone

theorem takeRenderCard_fixes (h : s.setup.sheetCount ≤ fieldAt data 0x40 2 ∨ fieldAt data 0x42 2 = 0) :
    s.takeRenderCard x data = s.fixRange { x with
      index := fieldAt data 0x40 2, spanCount := min (fieldAt data 0x42 2) 1024, line := 0 } := by
  have hsome : s.setup.sheetCount ≤ fieldAt data 0x40 2 ∨ min (fieldAt data 0x42 2) 1024 = 0 := by omega
  exact if_pos hsome

/-- Without spans the range is empty. -/
theorem ranged_finish_nil (h : x.spans = []) : x.ranged.finish = 0 := by
  change rangeEnd x.order (lengthOf x.spans) = 0
  rw [h, rangeEnd]
  split
  · rfl
  · exact Nat.min_zero _

theorem dropRenderReads_length : s.dropRenderReads.engine.waiting.length = s.engine.waiting.length := by
  rw [dropRenderReads_eq]
  exact List.length_map _

/-! ### A record read (R151) -/

theorem exec_recordRead_seek {a : Access} {rest : List Access} {span index : Nat} (hdue : Due s .render a rest)
    (ha : a.purpose = .renderRecordRead span index) (hx : s.render = some x) (hs : x.stage = .seek) :
    exec (.renderRecordReadComplete data) s = done s ((s.landed rest).seekRecord x span index data) := by
  refine congrArg (done s) ((onComplete_due hdue (by rw [ha])).trans ?_)
  rw [show (s.landed rest).render = some x from hx, ha]
  dsimp only
  rw [hs]

theorem exec_recordRead_output {a : Access} {rest : List Access} {span index : Nat} (hdue : Due s .render a rest)
    (ha : a.purpose = .renderRecordRead span index) (hx : s.render = some x) (hs : x.stage = .output) :
    exec (.renderRecordReadComplete data) s =
      done s ((s.landed rest).setRender { x with ahead := fillPlace data x.ahead }).askOn := by
  refine congrArg (done s) ((onComplete_due hdue (by rw [ha])).trans ?_)
  rw [show (s.landed rest).render = some x from hx, ha]
  dsimp only
  rw [hs]

/-- A record fills the oldest place without one. -/
theorem fillPlace_oldest {place : RenderPlace} {after : List RenderPlace} (hp : place.data = none) :
    ∀ {before : List RenderPlace}, (∀ p ∈ before, p.data ≠ none) →
      fillPlace data (before ++ place :: after) = before ++ { place with data := some data } :: after
  | [], _ => if_pos (by rw [hp]; rfl)
  | p :: before, h => by
    have hsome : ¬ p.data.isNone = true := by
      rw [Option.isNone_iff_eq_none]
      exact h p List.mem_cons_self
    exact (if_neg hsome).trans (congrArg (p :: ·) (fillPlace_oldest hp fun b hb => h b (List.mem_cons_of_mem _ hb)))

/-! ### A record read in SEEK (R151) -/

section Seek

variable {span index : Nat}

theorem seekRecord_next (hsp : x.spans[span]? = some sp) (hi : index + 1 < sp.count) (ha : x.position + framesOf data < x.order.start) :
    s.seekRecord x span index data = (s.reading [recordRead s.setup span (index + 1) sp]).setRender
      { x with position := x.position + framesOf data, askIndex := index + 2 } := by
  rw [State.seekRecord, hsp]
  exact (if_neg (by omega)).trans ((if_neg (by omega)).trans (if_neg (by omega)))

/-- Positions of a selected span below the end are among the frames selected. -/
theorem selectedFrames_from {first last : Nat} (hsp : spans[span]? = some sp) {selection : Selection}
    (hp : selection.picks sp = true) (hfirst : spanStart spans span ≤ first) :
    min last (spanStart spans span + sp.frames) - first ≤ selectedFrames spans selection first last := by
  have hge := selectedFrames_ge (first := first) (last := last) hsp hp
  rwa [spanInRange, Nat.max_eq_left hfirst] at hge

/-- The next record begins at the start frame: OUTPUT begins with asking for it. -/
theorem seekRecord_begins (hsp : x.spans[span]? = some sp) (hi : index + 1 < sp.count)
    (ha : x.order.start = x.position + framesOf data) (hp : x.order.selection.picks sp = true)
    (hfirst : spanStart x.spans span ≤ x.position + framesOf data)
    (hlast : x.position + framesOf data < spanStart x.spans span + sp.frames)
    (hend : x.position + framesOf data < x.finish) (hahead : x.ahead = []) : ∃ y more,
      s.seekRecord x span index data =
        (s.reading (recordRead s.setup span (index + 1) sp :: more)).setRender y ∧ (∀ b ∈ more, b.readsRecord) ∧
      y.stage = .output ∧ y.start = x.position + framesOf data ∧ y.position = x.position + framesOf data ∧
      y.ahead.head? = some { span := span, index := index + 1, data := none } ∧ y.ahead.length ≤ 4 ∧ y.handed = x.handed := by
  have hseek : s.seekRecord x span index data = s.beginOutput { x with
      start := x.position + framesOf data, position := x.position + framesOf data, askSpan := span, askIndex := index + 1 } := by
    rw [State.seekRecord, hsp]
    exact (if_neg (by omega)).trans ((if_neg (by omega)).trans (if_pos ha))
  have hsel := selectedFrames_from (last := x.finish) hsp hp hfirst
  obtain ⟨asked, reads, m, n, heq, hreads, hmost⟩ := beginOutput_asks (s := s) (j := span) (index := index + 1)
    (x := { x with
      start := x.position + framesOf data, position := x.position + framesOf data, askSpan := span, askIndex := index + 1 })
    rfl rfl hahead hsp hp hi hfirst hlast hend (by
      refine Nat.lt_of_lt_of_le ?_ hsel
      omega)
  refine ⟨_, reads, hseek.trans heq, hreads, rfl, rfl, rfl, ?_, ?_, rfl⟩
  · rw [RenderContext.asks]
    exact (congrArg (fun l : List RenderPlace => (l ++ _).head?) hahead).trans rfl
  · rw [RenderContext.asks]
    exact (congrArg (fun l : List RenderPlace => (l ++ _).length) hahead).le.trans hmost

/-- The record contains the start frame: OUTPUT begins with it first in the read-ahead. -/
theorem seekRecord_contains (hsp : x.spans[span]? = some sp) (ha : x.order.start < x.position + framesOf data)
    (hstart : x.position ≤ x.order.start) (hp : x.order.selection.picks sp = true)
    (hfirst : spanStart x.spans span ≤ x.position) (hlast : x.position < spanStart x.spans span + sp.frames)
    (hend : x.order.start < x.finish) : ∃ y more,
      s.seekRecord x span index data = (s.reading more).setRender y ∧ (∀ b ∈ more, b.readsRecord) ∧
      y.stage = .output ∧ y.start = x.position ∧ y.position = x.position ∧
      y.ahead.head? = some { span := span, index := index, data := some data } ∧ y.ahead.length ≤ 4 ∧ y.handed = x.handed := by
  have hseek : s.seekRecord x span index data = s.beginOutput { x with
      start := x.position, ahead := [{ span := span, index := index, data := some data }],
      askSpan := span, askIndex := index + 1 } := by
    rw [State.seekRecord, hsp]
    exact if_pos ha
  have hsel := selectedFrames_from (last := x.finish) hsp hp hfirst
  rw [hseek, beginOutput_opens (Nat.lt_of_lt_of_le (by omega) hsel), State.askOn]
  obtain ⟨asked, reads, i, j, heq, hasks, -⟩ := askRender_asks (Config.readAheadLimit + Config.spanLimit + 1) (s := s)
    (x := ({ x with
      start := x.position, ahead := [{ span := span, index := index, data := some data }],
      askSpan := span, askIndex := index + 1 } : RenderContext).opens)
  refine ⟨_, reads, heq, hasks.reads, rfl, rfl, rfl, rfl, ?_, rfl⟩
  by_cases hnil : asked = []
  · rw [hnil]
    exact (by decide : 1 ≤ 4)
  · exact hasks.most hnil

theorem reading_framed {reads : List Access} {frame : Nat} {parts : List (Nat × List Byte)} :
    (s.reading reads).framed frame parts = s.reading (reads ++ frameAccesses frame parts) := by
  rw [← reading_append]
  rfl

/-- The decode state of zero frames behind a span's last record. -/
def zerosBehind (n : Nat) : Decode := { voice := none, zeros := 0, tail := n, inTail := true }

/-- The start frame lies behind the span's last record: the first zero frame left over there is handed over. -/
theorem seekRecord_behind (hsp : x.spans[span]? = some sp) (hi : sp.count ≤ index + 1)
    (ha : x.position + framesOf data ≤ x.order.start) (hp : x.order.selection.picks sp = true)
    (hfirst : spanStart x.spans span ≤ x.position + framesOf data)
    (hend : x.position + framesOf data + 1 < min (spanStart x.spans span + sp.frames) x.finish)
    (hhanded : x.handed = 0) (hlength : 480 ≤ x.order.length) : ∃ y more,
      s.seekRecord x span index data =
        (s.reading (more ++ frameAccesses 0 (bufferWrites x.order.buffer 0 (sampleBytes zeroSamples)))).setRender y ∧
      (∀ b ∈ more, b.readsRecord) ∧ y.stage = .output ∧ y.start = x.position + framesOf data ∧
      y.position = spanStart x.spans span + sp.frames ∧ y.handed = 1 ∧
      y.decode = some (zerosBehind (min (spanStart x.spans span + sp.frames) x.finish - (x.position + framesOf data) - 1)) := by
  obtain ⟨n, hn⟩ : ∃ n, min (spanStart x.spans span + sp.frames) x.finish - (x.position + framesOf data) = n + 1 :=
    Nat.exists_eq_succ_of_ne_zero (by omega)
  have hseek : s.seekRecord x span index data = (s.beginOutput { x with
      start := x.position + framesOf data, position := spanStart x.spans span + sp.frames, askSpan := span + 1, askIndex := 0,
      decode := some (zerosBehind (n + 1)) }).handOn := by
    rw [State.seekRecord, hsp, ← hn]
    exact (if_neg (by omega)).trans (if_pos hi)
  have hsel := selectedFrames_from (last := x.finish) hsp hp hfirst
  rw [hseek, beginOutput_opens (Nat.lt_of_lt_of_le (by omega) hsel), State.askOn]
  obtain ⟨asked, reads, i, j, heq, hasks, -⟩ := askRender_asks (Config.readAheadLimit + Config.spanLimit + 1) (s := s)
    (x := ({ x with
      start := x.position + framesOf data, position := spanStart x.spans span + sp.frames, askSpan := span + 1, askIndex := 0,
      decode := some (zerosBehind (n + 1)) } : RenderContext).opens)
  have htotal : x.handed + 1 ≠ selectedFrames x.spans x.order.selection (x.position + framesOf data) x.finish := by omega
  have hroom : x.handed + 1 ≠ x.order.length / 240 := by omega
  rw [heq, handOn_hands (d := zerosBehind (n + 1)) rfl rfl rfl, settleHanded_other]
  · rw [reading_framed]
    refine ⟨_, reads, congrArg (fun k => (s.reading (reads ++ frameAccesses k (bufferWrites x.order.buffer k
      (sampleBytes zeroSamples)))).setRender _) hhanded, hasks.reads, rfl, rfl, rfl, congrArg (· + 1) hhanded, ?_⟩
    rw [hn]
    rfl
  · exact htotal
  · exact hroom

end Seek

end Sys2Proof.Machine
end

section
/-! PROOFS. Renders: what a render reads, from its activation to its first frame. -/

namespace Sys2Proof.Machine

open Sys2Proof

variable {s : State} {x : RenderContext} {sp : Span}

theorem beginOutput_starts (s : State) (x : RenderContext) : ∃ (v : State) (z : RenderContext), s.beginOutput x = v.setRender z ∧ z.start = x.start := by
  by_cases hsel : selectedFrames x.spans x.order.selection x.start x.finish = 0
  · exact ⟨_, _, beginOutput_drains hsel, rfl⟩
  · obtain ⟨asked, reads, i, j, heq, -⟩ := askRender_asks (Config.readAheadLimit + Config.spanLimit + 1) (s := s) (x := x.opens)
    exact ⟨_, _, (beginOutput_opens (Nat.pos_iff_ne_zero.2 hsel)).trans heq, rfl⟩

/-- A start frame in a span that is not selected is S. -/
theorem fixRange_starts {before after : List Span} (hs : x.spans = before ++ sp :: after)
    (hlt : x.order.start < x.ranged.finish) (h1 : lengthOf before ≤ x.order.start)
    (h2 : x.order.start < lengthOf before + sp.frames) (hp : x.order.selection.picks sp = false) :
    ∃ (v : State) (z : RenderContext), s.fixRange x = v.setRender z ∧ z.start = x.order.start := by
  rw [fixRange_at hlt (hs ▸ spanHolding_append h1 h2) (hs ▸ get_append), if_neg (fun h => Bool.false_ne_true (hp.symm.trans h.1)),
    if_neg (by rw [hp]; exact Bool.false_ne_true)]
  exact beginOutput_starts _ _

/-- Settles O52: activation, card and index lines by the equations of their steps, the range by the place of the start
frame, and a record by whether the render seeks. -/
theorem renderReadsItsLetter : Obligations.RenderReadsItsLetter := by
  unfold Obligations.RenderReadsItsLetter
  refine ⟨fun s k more o hpart hx hr ho => ?_, fun s a rest data x hdue hx => ?_⟩
  · exact ⟨_, _, (exec_renderActivate hpart hx hr ho).trans (done_same rfl), rfl, rfl, rfl, rfl, rfl, rfl, rfl, rfl, rfl, rfl,
      rfl, rfl⟩
  intro u index spanCount
  refine ⟨fun ha hs hi hc => ?card, fun ha hs hnone hspans => ?nocard, fun ha hs hmore => ?line, fun ha hs hlast hahead => ?range,
    fun span i before place after ha hs hplaces hplace hbefore => ?record, fun span i sp ha hs hsp => ?seek⟩
  case card =>
    refine ⟨_, (exec_renderCardRead hdue ha hx hs).trans ((congrArg (done s) (takeRenderCard_reads (s := u) hi hc)).trans (done_same rfl)),
      rfl, rfl⟩
  case nocard =>
    have hdrains := (takeRenderCard_fixes (s := u) (x := x) hnone).trans (fixRange_drains
      ((Nat.le_of_eq (ranged_finish_nil (by exact hspans))).trans (Nat.zero_le _)))
    refine ⟨_, _, (exec_renderCardRead hdue ha hx hs).trans ((congrArg (done s) hdrains).trans (done_same rfl)), rfl, rfl, rfl, rfl,
      rfl, dropRenderReads_length, rfl⟩
  case line =>
    exact ⟨_, (exec_renderIndexRead hdue ha hx hs).trans ((congrArg (done s) (takeRenderLine_more hmore)).trans (done_same rfl)),
      rfl, rfl⟩
  case range =>
    intro passing spans length last selected record reads
    have hsel : ∀ {e : Span}, ¬ selected e → x.order.selection.picks e = false := fun h =>
      Bool.eq_false_iff.2 fun hp => h (picks_iff.1 hp)
    obtain ⟨y, e, hfix, hcarried⟩ := fixRange_carries u { x with spans := spans }
    have hexec := (exec_renderIndexRead hdue ha hx hs).trans (congrArg (done s) ((takeRenderLine_last (s := u) hlast).trans hfix))
    have hat : ∀ {v : State} {z : RenderContext}, u.fixRange { x with spans := spans } = v.setRender z → y = z ∧ e = v.engine := by
      intro v z h
      have heq := hfix.symm.trans h
      exact ⟨Option.some.inj (congrArg State.render heq), congrArg State.engine heq⟩
    refine ⟨_, y, hexec.trans (done_same rfl), rfl, hcarried.spans, hcarried.finish, hcarried.handed, hcarried.written,
      hcarried.order, fun hempty => ?_, fun before sp after hsplit hsound => ?_⟩
    · obtain ⟨rfl, -⟩ := hat (fixRange_drains hempty)
      exact ⟨rfl, rfl⟩
    intro first hlt h1 h2
    obtain ⟨hframes, hcount⟩ := hsound sp (hsplit ▸ List.mem_append_right _ List.mem_cons_self)
    refine ⟨fun hp hfirst => ?_, fun hp hfirst => ?_, fun hp => ⟨?_, fun hno => ?_, fun mid q tail hafter hq hmid hbelow => ?_⟩⟩
    · obtain ⟨z, more, heq, hmore, hstage, hstart, hhead⟩ := fixRange_begins (s := u) (x := { x with spans := spans }) hsplit hahead hlt hfirst hframes hcount
        (picks_iff.2 hp)
      obtain ⟨rfl, hengine⟩ := hat heq
      exact ⟨hstage, hstart, hhead, more, hengine, hmore⟩
    · obtain ⟨z, heq, hstage, hposition⟩ := fixRange_seeks (s := u) (x := { x with spans := spans }) hsplit hlt hfirst h2 (picks_iff.2 hp)
      obtain ⟨rfl, hengine⟩ := hat heq
      exact ⟨hstage, hposition, hengine⟩
    · obtain ⟨v, z, heq, hstart⟩ := fixRange_starts (s := u) (x := { x with spans := spans }) hsplit hlt h1 h2 (hsel hp)
      obtain ⟨rfl, -⟩ := hat heq
      exact hstart
    · obtain ⟨z, heq, hstage, htruncated, -⟩ := fixRange_ends (s := u) (x := { x with spans := spans }) hsplit hlt h1 h2 (hsel hp)
        fun mid q tail hafter hq => hno mid q tail hafter (picks_iff.1 hq)
      obtain ⟨rfl, -⟩ := hat heq
      exact ⟨hstage, htruncated⟩
    · obtain ⟨hqframes, hqcount⟩ := hsound q (by simp [hsplit, hafter])
      obtain ⟨z, more, heq, hmore, hstage, -, hposition, hhead⟩ := fixRange_skips (s := u) (x := { x with spans := spans }) (hafter ▸ hsplit) hahead hlt h1 h2
        (hsel hp) (picks_iff.2 hq) (fun b hb => hsel (hmid b hb)) hqframes hqcount hbelow
      obtain ⟨rfl, hengine⟩ := hat heq
      exact ⟨hstage, hposition, hhead, more, hengine, hmore⟩
  case record =>
    have hexec := exec_recordRead_output (data := data) hdue ha hx hs
    rw [hplaces, fillPlace_oldest hplace hbefore] at hexec
    obtain ⟨asked, reads, m, n, heq, hasks, hfull⟩ := askRender_asks (Config.readAheadLimit + Config.spanLimit + 1)
      (s := u) (x := { x with ahead := before ++ { place with data := some data } :: after })
    refine ⟨_, _, asked, reads, hexec.trans ((congrArg (done s) heq).trans (done_same rfl)), rfl, rfl, hs, rfl, fun p hp => ?_,
      hasks.length, hasks.reads, hasks.most, rfl, rfl, fun h4 => ?_⟩
    · obtain ⟨hunread, sp, hsp, hindex, hbelow, hpicks⟩ := hasks.places p hp
      exact ⟨hunread, sp, hsp, hindex, hbelow, picks_iff.1 hpicks⟩
    · obtain ⟨rfl, rfl, rfl⟩ := hfull (by
        rw [hplaces] at h4
        simpa using h4)
      rfl
  case seek =>
    intro after record reads spoken first
    have hafter : x.position + framesOf data = after := congrArg (x.position + ·) (framesOf_eq data)
    have hexec := exec_recordRead_seek (data := data) hdue ha hx hs
    refine ⟨fun hi hlt => ?_, fun hi hstart hp hfirst hlast hend hahead => ?_, fun hlt hstart hp hfirst hlast hend => ?_,
      fun hi hle hp hfirst hend hahead hhanded hlength => ?_⟩
    · rw [seekRecord_next hsp hi (hafter ▸ hlt), hafter] at hexec
      exact ⟨_, _, hexec.trans (done_same rfl), rfl, rfl, rfl⟩
    · rw [← hafter] at hstart hfirst hlast hend ⊢
      obtain ⟨y, more, heq, hmore, hy⟩ := seekRecord_begins (s := u) hsp hi hstart (picks_iff.2 hp) hfirst hlast hend hahead
      obtain ⟨hstage, hs', hposition, hhead, hmost, hhanded⟩ := hy
      exact ⟨_, y, more, hexec.trans ((congrArg (done s) heq).trans (done_same rfl)), rfl, hmore, hstage, hs', hposition, hhead, hmost,
        hhanded, rfl⟩
    · rw [← hafter] at hlt
      obtain ⟨y, more, heq, hmore, hy⟩ := seekRecord_contains (s := u) hsp hlt hstart (picks_iff.2 hp) hfirst hlast hend
      obtain ⟨hstage, hs', hposition, hhead, hmost, hhanded⟩ := hy
      exact ⟨_, y, more, hexec.trans ((congrArg (done s) heq).trans (done_same rfl)), rfl, hmore, hstage, hs', hposition, hhead, hmost,
        hhanded, rfl⟩
    · rw [← hafter] at hle hfirst hend ⊢
      obtain ⟨y, more, heq, hmore, hy⟩ := seekRecord_behind (s := u) hsp hi hle (picks_iff.2 hp) hfirst hend hhanded hlength
      obtain ⟨hstage, hs', hposition, hhand, hdecode⟩ := hy
      have hwritten := frameAccesses_written (buffer := x.order.buffer) (frame := 0) (bytes := sampleBytes zeroSamples)
        (by rw [sampleBytes_zero]; exact List.length_replicate)
      exact ⟨_, y, more, _, hexec.trans ((congrArg (done s) heq).trans (done_same rfl)), rfl, hmore, hstage, hs', hposition, hhand,
        hdecode, hwritten.own, hwritten.bytes.trans sampleBytes_zero, rfl⟩

end Sys2Proof.Machine
end
